-- ==== Sys2Proof/Word.lean ====
section
/-! DEFINITION. The words of the machine and the plain data an instruction or a device step carries (R11, R12, R83, R92, R74). -/

namespace Sys2Proof

/-- A 32-bit word: one register of one lane (R46), one parcel (R71). -/
abbrev Word := BitVec 32
/-- A 64-bit value: an even-odd register pair (R11), an address (R151). -/
abbrev DWord := BitVec 64
/-- The smallest addressable unit (R271). -/
abbrev Byte := BitVec 8
/-- A set of lanes of one warp: bit L for lane L (R189). -/
abbrev Mask := BitVec 64
/-- A map from numbers, in one canonical form: keys strictly rising. -/
abbrev NMap (α : Type) := List (Nat × α)

/-- The guard of an instruction: predicate number and negation (R83, R86). -/
structure Guard where
  pred : BitVec 3
  neg  : Bool
  deriving DecidableEq, Repr

/-- A source operand A or B by its kind field (R83, R84). -/
inductive Src where
  /-- KIND 00: vector register, or a field used as a small constant (R112) -/
  | vec  (n : BitVec 8)
  /-- KIND 01: scalar register -/
  | scal (n : BitVec 8)
  /-- KIND 10: 8-bit two's-complement immediate -/
  | imm  (n : BitVec 8)
  /-- KIND 11: special value -/
  | spec (n : BitVec 8)
  deriving DecidableEq, Repr

/-- The decoded fields of an M or L instruction (R83, R91), all but its opcode and LL. -/
structure MOps where
  g     : Guard
  stall : BitVec 2
  fs    : Bool
  mod   : BitVec 8
  d     : BitVec 8
  kd    : Bool
  a     : Src
  b     : Src
  c     : BitVec 8
  kc    : Bool
  /-- the literal of an L form (R91), none for an M form -/
  lit   : Option Word
  deriving DecidableEq, Repr

/-- The decoded fields of an S instruction (R92). -/
structure SOps where
  g  : Guard
  d  : BitVec 8
  a  : BitVec 8
  i4 : BitVec 4
  deriving DecidableEq, Repr

/-- The fields of a clause header (R74). -/
structure ClauseHdr where
  yld  : Bool
  len  : BitVec 5
  fy   : BitVec 4
  fx   : BitVec 4
  wait : BitVec 12
  deriving DecidableEq, Repr

/-- A function of the device: the PF or a VF (R367). -/
inductive Fn where
  | pf
  | vf (n : Nat)
  deriving DecidableEq, Repr

/-- A queue of a context of a VF (R337). -/
structure QRef where
  vf  : Nat
  ctx : Nat
  q   : Nat
  deriving DecidableEq, Repr

/-- Registers whose write has no behaviour of its own (R316, R353, R368, R418, R423). -/
inductive DevReg where
  | liccfg (chiplet : Nat)
  | licinj (chiplet vf : Nat)
  | mbcmd (f : Fn)
  | mbdata (f : Fn) (k : Nat)
  /-- RCVCTL: GO is bit 31 (R418) -/
  | rcvctl
  | rcvaddr
  | rcvlen
  | migctl
  | migbuf
  | miglen
  /-- the Outstanding Page Request Allocation of a VF's PRI capability (R353) -/
  | prialloc (vf : Nat)
  /-- CTXCTL of a context's doorbell page: HALT is bit 31, RESUME bit 30 (R395) -/
  | ctxctl (vf ctx : Nat)
  /-- the PRI Control register of a VF's PRI capability: Enable is bit 0 (R355; log 33) -/
  | prictl (vf : Nat)
  deriving DecidableEq, Repr

/-- The host IOMMU's answer to an ATS Translation Request of a chiplet (R350, R351). -/
inductive AtsAnswer where
  /-- a completion: translated base, size in bytes, permissions -/
  | granted (chiplet tbase size : Nat) (r w x : Bool)
  /-- Unsupported Request or Completer Abort -/
  | failed (chiplet : Nat)
  deriving DecidableEq, Repr

/-- A host access through BAR2 (R288, R380). -/
inductive BarAccess where
  | read  (d n : Nat)
  | write (d : Nat) (bytes : List Byte)
  deriving DecidableEq, Repr

/-- A unit of a halted context that another context may claim (R400, R403). -/
inductive UnitRef where
  /-- the register blocks, slot units or narrow contexts of an agent -/
  | agent (id : Nat)
  /-- a group-memory granule of a group -/
  | granule (group i : Nat)
  /-- an ACM tile of a context's image at a quadrant -/
  | tile (cluster quad vf ctx t : Nat)
  /-- a WB slot of a context's image at a quadrant -/
  | slot (cluster quad vf ctx k : Nat)
  /-- the scale cache of a context's image at a quadrant -/
  | scache (cluster quad vf ctx : Nat)
  /-- a granule of a wave's scratch, and one of a launch's shared task area -/
  | scratch (agent i : Nat)
  | taskGran (launch cluster i : Nat)
  /-- the barrier records of a group, and an open ring's record -/
  | records (group : Nat)
  | ring (cluster id : Nat)
  /-- a held entry of an engine's queue, and one of a matrix unit's -/
  | engCmd (cluster : Nat) (se : Bool) (cmd : Nat)
  | muCmd (cluster quad vf ctx cmd : Nat)
  deriving DecidableEq, Repr

/-- A part whose failure is a single-part fault (R422). -/
inductive Part where
  | cluster (n : Nat)
  | chiplet (n : Nat)
  | link (n : Nat)
  deriving DecidableEq, Repr

/-- Messages of a peer device's Dale (R391). -/
inductive PeerMsg where
  | mapAgreed (vf idx len : Nat)
  | mapRefused (vf idx : Nat)
  | linkKey (link : Nat)
  deriving DecidableEq, Repr

/-- Messages on the PF's DOE mailbox (R419, R420, R423). -/
inductive SpdmMsg where
  /-- the host's session with the device: attestation, the dump, TDISP -/
  | openSession
  | closeSession
  | measure (index : Nat)
  | readDump
  /-- the session with another device's Dale, which the host relays, opens or ends (R423) -/
  | relaySession (opens : Bool)
  /-- a TDISP request (R419) -/
  | tdisp (request : List DWord)
  deriving DecidableEq, Repr

/-- A peer's CPY access to a local window: its thread there, and the acquire or release flag that it performs with this access (R153, R177, R281). -/
inductive PeerAccess where
  | read  (issuer : Nat) (acq rel : Bool) (off n : Nat)
  | write (issuer : Nat) (acq rel : Bool) (off : Nat) (bytes : List Byte)
  deriving DecidableEq, Repr

end Sys2Proof
end

