-- ==== Sys2Proof/Config.lean ====
section
/-! DEFINITION. What the manual leaves to the implementation, and the free values: constants without a body, of which nothing can be proved. -/

namespace Sys2Proof.Config

/-- Mesh cycles that pass with one turn of the machine; the argument counts the turns (timing is not stated, R8, R114). -/
opaque cycleGap : Nat → Nat
/-- Cycles an issued instruction waited for register banks (R215 BANK_WAIT). -/
opaque bankGap : Nat → Nat
/-- True when an inexact FP32 special function delivers the neighbour of larger magnitude; depends on the function and the argument only (R139). -/
opaque faithfulUp : (function : Nat) → (argument : BitVec 32) → Bool
/-- Whether the later of two equally near D8 codes is taken, where R29's rule of the even code chooses none: 2 or 4, 3 or 7 (R29). -/
opaque d8Tie : (code : Nat) → Bool
/-- A rank of lane for the scatter numbered by the first argument: of two elements of one SCAT at one address the higher rank stays (R182). -/
opaque scatRank : (scatter lane : Nat) → Nat
/-- From which record on a free task record is looked for, and which handle so results (R205). -/
opaque recordHint : Nat → Nat
/-- Base-mesh hops between two clusters; the mesh's layout is not stated (R304). -/
opaque hops : (thief victim : Nat) → Nat
/-- The Pass link by which traffic for another device leaves, when some links are fenced; the fabric's routes are not stated (R296, R422). -/
opaque linkTo : (device : Nat) → (fenced : List Nat) → Option Nat
/-- How many writes back a read looks at a location to which several writes have been recorded; the arguments are the number of the read's event and the place of the location among its locations (R277). -/
opaque readBack : (event place : Nat) → Nat
/-- The winner among overlapping bytes of an open choice. -/
opaque freeBool : Nat → Bool
/-- Bytes in a format the manual leaves to the device: save areas (R403), migration records (R425), dumps (R420). -/
opaque freeByte : Nat → BitVec 8
/-- The check of an ECDSA P-384 signature over a digest with the public key fused in the device (R417). -/
opaque verifies : (digest : List (BitVec 64)) → (signature : List (BitVec 8)) → Bool
/-- The 64-bit words of the device's ECDSA P-384 signature over a digest; its random part is named by a number (R419). -/
opaque signature : (digest : List (BitVec 64)) → (draw word : Nat) → BitVec 64
/-- The device's answers to TDISP requests, which no rule gives (R419). -/
opaque tdispAnswer : (request : List (BitVec 64)) → (number : Nat) → List (BitVec 64)
/-- The boot ROM, and the device's security configuration, as the measurements take them (R419). -/
opaque bootRom : List (BitVec 8)
opaque securityConfig : List (BitVec 8)
/-- Words of a dump for the blocks that this model has no names for, by the dump's number (R420). -/
opaque dumpWord : (dump word : Nat) → BitVec 64
/-- The slope times the rail voltage from which Dale programs STEP, in hundredths of A V per microsecond, on a chiplet at a level of its clock (R325). -/
opaque slopeVolts : (chiplet level : Nat) → Nat

end Sys2Proof.Config
end

