-- ==== Sys2Proof/Machine/Flags.lean ====
section
/-! DEFINITION. The sticky flags of FPC and integer arithmetic's one flag (R41, R42, R56, R117). -/

namespace Sys2Proof.Machine

/-- The seven sticky flags in FPC's order: NX, UF, OF, DZ, NV, SAT, RNF (R41, R56). -/
abbrev FFlags := BitVec 7

def fNone : FFlags := 0
def fNX : FFlags := 1
def fUF : FFlags := 2
def fOF : FFlags := 4
def fDZ : FFlags := 8
def fNV : FFlags := 16
def fSAT : FFlags := 32
def fRNF : FFlags := 64

end Sys2Proof.Machine
end

