-- ==== Sys2Proof/Machine/Num.lean ====
section
/-! DEFINITION. Number formats, exact values, rounding and conversion (R19 to R42), on integers and naturals only. -/

namespace Sys2Proof.Machine

/-- Rounding modes (R33). -/
inductive RMode where
  | rn | rz | ru | rd | ro
  deriving DecidableEq, Repr

/-- The exact value of a code: NaN (signalling or quiet), infinity, zero, or (-1)^neg times m times 2^e with m not zero (R36). -/
inductive Val where
  | nan  (signalling : Bool)
  | inf  (neg : Bool)
  | zero (neg : Bool)
  | fin  (neg : Bool) (m : Nat) (e : Int)
  deriving DecidableEq, Repr

/-- A format code of R19. -/
abbrev Fmt := Nat

def FP64 : Fmt := 0x00
def FP32 : Fmt := 0x01
def BF16 : Fmt := 0x02
def FP16 : Fmt := 0x03
def E4M3 : Fmt := 0x04
def E5M2 : Fmt := 0x05
def E3M2 : Fmt := 0x06
def E2M3 : Fmt := 0x07
def E2M1 : Fmt := 0x08
def D8   : Fmt := 0x09
def B1   : Fmt := 0x0F
def I32  : Fmt := 0x12
def N32  : Fmt := 0x13
def I64  : Fmt := 0x14
def N64  : Fmt := 0x15
def E8M0 : Fmt := 0x16
def UE4M3 : Fmt := 0x17

/-- Width in bits (R19). -/
def fmtWidth (f : Fmt) : Nat :=
  match f with
  | 0x00 => 64 | 0x01 => 32 | 0x02 => 16 | 0x03 => 16 | 0x04 => 8 | 0x05 => 8 | 0x06 => 6 | 0x07 => 6 | 0x08 => 4 | 0x09 => 8
  | 0x0A => 8 | 0x0B => 8 | 0x0C => 4 | 0x0D => 4 | 0x0E => 2 | 0x0F => 1 | 0x10 => 16 | 0x11 => 16 | 0x12 => 32 | 0x13 => 32
  | 0x14 => 64 | 0x15 => 64 | 0x16 => 8 | 0x17 => 8 | _ => 0

/-- Signed integer formats of R19. -/
def fmtSigned (f : Fmt) : Bool := f == 0x0A || f == 0x0C || f == 0x0E || f == 0x10 || f == 0x12 || f == 0x14
/-- Unsigned integer formats of R19. -/
def fmtUnsigned (f : Fmt) : Bool := f == 0x0B || f == 0x0D || f == 0x11 || f == 0x13 || f == 0x15
def fmtInt (f : Fmt) : Bool := fmtSigned f || fmtUnsigned f

/-- A binary floating-point format (R20): fraction bits, exponent bits, bias; the largest finite value is maxM times 2^(emax - frac); and which special codes it has. -/
structure BinFmt where
  frac : Nat
  ebits : Nat
  bias : Nat
  emax : Int
  maxM : Nat
  hasInf : Bool
  /-- FZ applies to it (R35) -/
  flush : Bool
  deriving DecidableEq, Repr

/-- The rows of R20's table. -/
def binFmt (f : Fmt) : Option BinFmt :=
  match f with
  | 0x00 => some ⟨52, 11, 1023, 1023, 2 ^ 53 - 1, true, true⟩
  | 0x01 => some ⟨23, 8, 127, 127, 2 ^ 24 - 1, true, true⟩
  | 0x02 => some ⟨7, 8, 127, 127, 2 ^ 8 - 1, true, true⟩
  | 0x03 => some ⟨10, 5, 15, 15, 2 ^ 11 - 1, true, true⟩
  | 0x04 => some ⟨3, 4, 7, 8, 14, false, false⟩
  | 0x05 => some ⟨2, 5, 15, 15, 7, true, false⟩
  | 0x06 => some ⟨2, 3, 3, 4, 7, false, false⟩
  | 0x07 => some ⟨3, 2, 1, 2, 15, false, false⟩
  | 0x08 => some ⟨1, 2, 1, 2, 3, false, false⟩
  | _ => none

/-- The exponent of the smallest normal. -/
def BinFmt.emin (b : BinFmt) : Int := 1 - (b.bias : Int)

/-- The default NaN of a format (R21); zero where the format has none. -/
def defaultNaN (f : Fmt) : Nat :=
  match f with
  | 0x00 => 0x7FF8000000000000 | 0x01 => 0x7FC00000 | 0x02 => 0x7FC0 | 0x03 => 0x7E00 | 0x04 => 0x7F | 0x05 => 0x7F | 0x09 => 0x80
  | 0x16 => 0xFF | 0x17 => 0x7F | _ => 0

/-- Decoding of a binary floating-point code (R20, R21). -/
def decodeBin (f : Fmt) (b : BinFmt) (c : Nat) : Val :=
  let neg := (c / 2 ^ (b.frac + b.ebits)) % 2 == 1
  let e := (c / 2 ^ b.frac) % 2 ^ b.ebits
  let m := c % 2 ^ b.frac
  let top := 2 ^ b.ebits - 1
  if b.hasInf && e == top then
    if m == 0 then .inf neg else .nan (b.flush && m < 2 ^ (b.frac - 1))
  else if f == E4M3 && e == top && m == 7 then .nan false
  else if e == 0 then
    if m == 0 then .zero neg else .fin neg m (b.emin - b.frac)
  else .fin neg (2 ^ b.frac + m) ((e : Int) - b.bias - b.frac)

/-- floor(log2 (n / d)) for positive n and d. -/
def floorLog2Q (n d : Nat) : Int :=
  let k : Int := (Nat.log2 n : Int) - (Nat.log2 d : Int)
  -- n / d lies in (2^(k-1), 2^(k+1))
  if k ≥ 0 then (if n ≥ d * 2 ^ k.toNat then k else k - 1)
  else (if n * 2 ^ (-k).toNat ≥ d then k else k - 1)

/-- n / d rounded to an integer in mode m for a value of the given sign, and whether that was inexact (R33). -/
def roundQ (m : RMode) (neg : Bool) (n d : Nat) : Nat × Bool :=
  let q := n / d
  let r := n % d
  let up := match m with
    | .rn => decide (2 * r > d) || (2 * r == d && q % 2 == 1)
    | .rz => false
    | .ru => !neg && r != 0
    | .rd => neg && r != 0
    | .ro => r != 0 && q % 2 == 0
  (if up then q + 1 else q, r != 0)

/-- (n / d) times 2^e scaled by 2^(-q), as a fraction. -/
def scaleQ (n d : Nat) (e q : Int) : Nat × Nat :=
  if e ≥ q then (n * 2 ^ (e - q).toNat, d) else (n, d * 2 ^ (q - e).toNat)

/-- A result code and the flags it raises. -/
abbrev Res := Nat × FFlags

/-- The sign bit of a code. -/
def signBit (f : Fmt) (neg : Bool) : Nat := if neg then 2 ^ (fmtWidth f - 1) else 0

/-- The code of the largest finite magnitude of a binary format (R20). -/
def maxCode (b : BinFmt) : Nat := ((b.emax - b.emin).toNat) * 2 ^ b.frac + b.maxM
/-- The code of infinity, for a format that has one. -/
def infCode (b : BinFmt) : Nat := (2 ^ b.ebits - 1) * 2 ^ b.frac

/-- The overflow modifiers of R37. -/
structure Ovf where
  sat : Bool
  nan : Bool
  deriving DecidableEq, Repr

/-- The overflow table of R34, with `.sat` and `.nan` (R37). -/
def overflowRes (f : Fmt) (b : BinFmt) (m : RMode) (ovf : Ovf) (neg : Bool) : Res :=
  let toInf := match m with
    | .rn => true
    | .rz => false
    | .ru => !neg
    | .rd => neg
    | .ro => false
  if b.hasInf then
    if toInf then
      if ovf.sat then (signBit f neg + maxCode b, fOF ||| fNX ||| fSAT) else (signBit f neg + infCode b, fOF ||| fNX)
    else (signBit f neg + maxCode b, fOF ||| fNX)
  else if f == E4M3 && ovf.nan && toInf then (defaultNaN f, fOF ||| fNX)
  else (signBit f neg + maxCode b, fOF ||| fNX ||| fSAT)

/-- `round_to` of the exact (n / d) times 2^e, n not zero (R34, R35). -/
def roundFin (f : Fmt) (b : BinFmt) (m : RMode) (fz : Bool) (ovf : Ovf) (neg : Bool) (n d : Nat) (e : Int) : Res :=
  let k := floorLog2Q n d + e
  let q1 := scaleQ n d e (k - b.frac)
  let x' := roundQ m neg q1.1 q1.2
  -- |x'| against the largest finite value and the smallest normal
  let tooBig := decide (k > b.emax) || (decide (k = b.emax) && decide (x'.1 > b.maxM))
  let tiny := decide (k < b.emin) && !(decide (k = b.emin - 1) && decide (x'.1 = 2 ^ (b.frac + 1)))
  if tooBig then overflowRes f b m ovf neg
  else if tiny && fz && b.flush then (signBit f neg, fUF ||| fNX)
  else
    let k' := if k < b.emin then b.emin else k
    let q2 := scaleQ n d e (k' - b.frac)
    let y := roundQ m neg q2.1 q2.2
    let code := signBit f neg + (k' - b.emin).toNat * 2 ^ b.frac + y.1
    (code, if y.2 then (if tiny then fUF ||| fNX else fNX) else fNone)

/-- The sign of an exact zero sum of operands with opposite signs (R22). -/
def zeroSumNeg (m : RMode) : Bool := m == .rd

/-- Rounding of an exact value into a binary format; a NaN becomes the default NaN (R21). -/
def roundVal (f : Fmt) (b : BinFmt) (m : RMode) (fz : Bool) (v : Val) : Res :=
  match v with
  | .nan s => (defaultNaN f, if s then fNV else fNone)
  | .inf neg => if b.hasInf then (signBit f neg + infCode b, fNone) else (signBit f neg + maxCode b, fSAT)
  | .zero neg => (signBit f neg, fNone)
  | .fin neg n e => roundFin f b m fz ⟨false, false⟩ neg n 1 e

/-- D8 by R26: decade and fraction of a non-zero code, with the number of fraction bits. -/
def d8Parts (c : Nat) : Int × Nat × Nat :=
  if c ≥ 64 then ((((c / 16) % 4 : Nat) : Int) - 2, c % 16, 4)
  else if c ≥ 32 then
    let x := (c / 4) % 8
    ((if x < 4 then (x : Int) - 6 else (x : Int) - 2), c % 4, 2)
  else if c ≥ 16 then
    let x := c % 16
    ((if x < 8 then (x : Int) - 14 else (x : Int) - 2), 0, 0)
  else if c ≥ 8 then
    let x := c % 8
    ((if x < 4 then (x : Int) - 18 else (x : Int) + 10), 0, 0)
  else if c ≥ 4 then
    let x := c % 4
    ((if x < 2 then (x : Int) - 20 else (x : Int) + 16), 0, 0)
  else if c ≥ 2 then ((if c == 2 then -21 else 20), 0, 0)
  else (-22, 0, 0)

/-- The defined magnitude M times 2^E of a non-zero D8 code, 4096 ≤ M ≤ 8191 (R26). -/
def d8Mag (c : Nat) : Nat × Int :=
  let (d, fr, mb) := d8Parts c
  let num := (2 ^ mb + 9 * fr) * (if d ≥ 0 then 10 ^ d.toNat else 1)
  let den := 2 ^ mb * (if d < 0 then 10 ^ (-d).toNat else 1)
  let k := floorLog2Q num den
  let q := scaleQ num den 0 (k - 12)
  let r := roundQ .rn false q.1 q.2
  if r.1 = 8192 then (4096, k - 11) else (r.1, k - 12)

def decodeD8 (c : Nat) : Val :=
  if c = 0 then .zero false
  else if c = 0x80 then .nan false
  else
    let m := d8Mag (c % 128)
    .fin (c ≥ 128) m.1 m.2

/-- The exact value of an integer. -/
def valOfInt (i : Int) : Val :=
  if i = 0 then .zero false else .fin (i < 0) i.natAbs 0

/-- An n-bit code read as an integer of a format (R25). -/
def intOfCode (f : Fmt) (c : Nat) : Int :=
  let w := fmtWidth f
  let c := c % 2 ^ w
  if fmtSigned f && c ≥ 2 ^ (w - 1) then (c : Int) - 2 ^ w else c

/-- Range of an integer format. -/
def intMin (f : Fmt) : Int := if fmtSigned f then -(2 ^ (fmtWidth f - 1) : Nat) else 0
def intMax (f : Fmt) : Int := if fmtSigned f then (2 ^ (fmtWidth f - 1) : Nat) - 1 else (2 ^ fmtWidth f : Nat) - 1
/-- The code of an integer wrapped to a format. -/
def intCode (f : Fmt) (i : Int) : Nat := (i % (2 ^ fmtWidth f : Nat)).toNat

/-- Step 1 of a conversion: the exact value of a code (R36, R20, R25, R26, R30, R31). -/
def decodeVal (f : Fmt) (c : Nat) : Val :=
  match binFmt f with
  | some b => decodeBin f b (c % 2 ^ fmtWidth f)
  | none =>
    if f = D8 then decodeD8 (c % 256)
    else if f = B1 then .fin (c % 2 == 1) 1 0
    else if f = E8M0 then (if c % 256 = 255 then .nan false else .fin false 1 (((c % 256 : Nat) : Int) - 127))
    else if f = UE4M3 then
      (if c % 256 ≥ 0x7F then .nan false
       else match binFmt E4M3 with | some b => decodeBin E4M3 b (c % 256) | none => .nan false)
    else valOfInt (intOfCode f c)

/-- FZ on an operand: a subnormal of FP64, FP32, BF16 or FP16 is read as zero of its sign (R35). -/
def flushIn (f : Fmt) (fz : Bool) (v : Val) : Val :=
  match binFmt f, v with
  | some b, .fin neg m _ => if fz && b.flush && decide (m < 2 ^ b.frac) then .zero neg else v
  | _, _ => v

/-- A code as an arithmetic operand: decoded, with FZ applied. -/
def readVal (f : Fmt) (fz : Bool) (c : Nat) : Val := flushIn f fz (decodeVal f c)

/-- Signed fixed-point addition of two dyadic values. -/
def addDyadic (s1 : Bool) (m1 : Nat) (e1 : Int) (s2 : Bool) (m2 : Nat) (e2 : Int) : Int × Int :=
  let e := if e1 ≤ e2 then e1 else e2
  let a : Int := (m1 * 2 ^ (e1 - e).toNat : Nat)
  let b : Int := (m2 * 2 ^ (e2 - e).toNat : Nat)
  ((if s1 then -a else a) + (if s2 then -b else b), e)

def isNaN : Val → Bool | .nan _ => true | _ => false
def isSNaN : Val → Bool | .nan s => s | _ => false
def Val.neg : Val → Bool | .nan _ => false | .inf s => s | .zero s => s | .fin s _ _ => s
def Val.negate : Val → Val
  | .nan s => .nan s | .inf s => .inf !s | .zero s => .zero !s | .fin s m e => .fin (!s) m e
def Val.abs : Val → Val
  | .nan s => .nan s | .inf _ => .inf false | .zero _ => .zero false | .fin _ m e => .fin false m e
def isZeroV : Val → Bool | .zero _ => true | _ => false
def isInfV : Val → Bool | .inf _ => true | _ => false
def isFiniteV : Val → Bool | .zero _ => true | .fin _ _ _ => true | _ => false

/-- NV when an operand of the list is a signalling NaN (R21). -/
def snanFlags (l : List Val) : FFlags := if l.any isSNaN then fNV else fNone

/-- Exact sum of two values (R22): the value and NV for opposite infinities. NaN operands give a quiet NaN. -/
def addVal (m : RMode) (a b : Val) : Val × FFlags :=
  match a, b with
  | .nan _, _ => (.nan false, fNone)
  | _, .nan _ => (.nan false, fNone)
  | .inf s, .inf t => if s = t then (.inf s, fNone) else (.nan false, fNV)
  | .inf s, _ => (.inf s, fNone)
  | _, .inf t => (.inf t, fNone)
  | .zero s, .zero t => (.zero (if s = t then s else zeroSumNeg m), fNone)
  | .zero _, x => (x, fNone)
  | x, .zero _ => (x, fNone)
  | .fin s1 m1 e1, .fin s2 m2 e2 =>
    let r := addDyadic s1 m1 e1 s2 m2 e2
    (if r.1 = 0 then .zero (zeroSumNeg m) else .fin (r.1 < 0) r.1.natAbs r.2, fNone)

/-- Exact product of two values: NV for zero times infinity. -/
def mulVal (a b : Val) : Val × FFlags :=
  match a, b with
  | .nan _, _ => (.nan false, fNone)
  | _, .nan _ => (.nan false, fNone)
  | .inf _, .zero _ => (.nan false, fNV)
  | .zero _, .inf _ => (.nan false, fNV)
  | .inf s, y => (.inf (s != y.neg), fNone)
  | x, .inf t => (.inf (x.neg != t), fNone)
  | .zero s, y => (.zero (s != y.neg), fNone)
  | x, .zero t => (.zero (x.neg != t), fNone)
  | .fin s1 m1 e1, .fin s2 m2 e2 => (.fin (s1 != s2) (m1 * m2) (e1 + e2), fNone)

/-- The running state of an exact sum: a scaled integer, and whether all terms so far are zeros of one sign. -/
structure SumAcc where
  m : Int
  e : Int
  nan : Bool
  posInf : Bool
  negInf : Bool
  posZ : Bool
  other : Bool
  deriving DecidableEq, Repr

def SumAcc.start : SumAcc := ⟨0, 0, false, false, false, false, false⟩

/-- One more term of an exact sum. posZ records a term +0, other a term that is not a zero. -/
def SumAcc.add (a : SumAcc) (v : Val) : SumAcc :=
  match v with
  | .nan _ => { a with nan := true }
  | .inf s => if s then { a with negInf := true } else { a with posInf := true }
  | .zero s => if s then a else { a with posZ := true }
  | .fin s m e =>
    let r := addDyadic (decide (a.m < 0)) a.m.natAbs a.e s m e
    { a with m := r.1, e := r.2, other := true }

/-- `exact_sum` (R16) of a non-empty list: a NaN or opposite infinities give NaN and NV. An exact zero sum has the sign of its terms when they are all -0, else R22's. -/
def exactSum (m : RMode) (l : List Val) : Val × FFlags :=
  let a := l.foldl SumAcc.add SumAcc.start
  if a.nan || (a.posInf && a.negInf) then (.nan false, fNV)
  else if a.posInf then (.inf false, fNone)
  else if a.negInf then (.inf true, fNone)
  else if a.m = 0 then
    if a.other then (.zero (zeroSumNeg m), fNone)
    else if a.posZ then
      (.zero (l.any (fun v => v == .zero true) && zeroSumNeg m), fNone)
    else (.zero true, fNone)
  else (.fin (a.m < 0) a.m.natAbs a.e, fNone)

/-- Comparison of two numbers that are not NaN, with -0 = +0: -1, 0 or 1. -/
def cmpVal (a b : Val) : Int :=
  let key (v : Val) : Int × Nat × Int :=
    match v with
    | .nan _ => (0, 0, 0)
    | .inf s => (if s then -2 else 2, 0, 0)
    | .zero _ => (0, 0, 0)
    | .fin s m e => (if s then -1 else 1, m, e)
  let ka := key a
  let kb := key b
  if ka.1 < kb.1 then -1 else if ka.1 > kb.1 then 1
  else
    match a, b with
    | .fin s1 m1 e1, .fin s2 m2 e2 =>
      let r := (addDyadic s1 m1 e1 (!s2) m2 e2).1
      if r < 0 then -1 else if r > 0 then 1 else 0
    | _, _ => 0

/-- The order of MIN and MAX: -0 below +0 (R121). -/
def ltMinMax (a b : Val) : Bool :=
  match a, b with
  | .zero s, .zero t => s && !t
  | _, _ => decide (cmpVal a b < 0)

/-- MIN (or MAX) of R121 on values: the result and NV for a signalling NaN. -/
def minMaxVal (isMax : Bool) (a b : Val) : Val × FFlags :=
  let fl := snanFlags [a, b]
  match a, b with
  | .nan _, .nan _ => (.nan false, fl)
  | .nan _, x => (x, fl)
  | x, .nan _ => (x, fl)
  | x, y => (if isMax then (if ltMinMax x y then y else x) else (if ltMinMax y x then y else x), fl)

/-- A value known to be representable, back as a code of a binary format. -/
def encodeExact (f : Fmt) (v : Val) : Nat :=
  match binFmt f with
  | some b => (roundVal f b .rz false v).1
  | none => 0

/-- x as a fraction n / d scaled, for the conversions that need no binary format. -/
def roundToInt (m : RMode) (neg : Bool) (n d : Nat) (e : Int) : Int × Bool :=
  let q := scaleQ n d e 0
  let r := roundQ m neg q.1 q.2
  ((if neg then -(r.1 : Int) else r.1), r.2)

/-- Distance of |x| = m * 2^e from the magnitude of D8 code c (0 for c = 0), scaled by 2^90. -/
def d8Dist (m : Nat) (e : Int) (c : Nat) : Nat × Nat :=
  let x := scaleQ m 1 e (-90)
  let y : Nat := if c = 0 then 0 else let g := d8Mag c; g.1 * 2 ^ (g.2 + 90).toNat
  -- | x.1 / x.2 - y |
  let a := x.1
  let b := y * x.2
  (if a ≥ b then a - b else b - a, x.2)

/-- The nearest D8 code to |x|, among 0 to 127, ties to the even code (R29 step 4); of 2 and 4, and of 7 and 3, neither or both are even, and the choice is free (log 29). -/
def d8Nearest (m : Nat) (e : Int) : Nat :=
  ((List.range' 1 127).foldl (fun (best : Nat × Nat) c =>
    let d := (d8Dist m e c).1
    if d < best.2 || (d == best.2 && (if best.1 % 2 == c % 2 then Config.d8Tie c else c % 2 == 0)) then (c, d) else best) (0, (d8Dist m e 0).1)).1

/-- Conversion of a finite non-zero value into D8 (R29). -/
def toD8 (ovf : Ovf) (neg : Bool) (m : Nat) (e : Int) : Res :=
  let s := if neg then 128 else 0
  let x := scaleQ m 1 e 0
  if x.1 > 10 ^ 20 * x.2 then
    if ovf.nan then (0x80, fOF ||| fNX) else (s + 3, fOF ||| fNX ||| fSAT)
  else
    let c := d8Nearest m e
    let exact := (d8Dist m e c).1 == 0
    let g := d8Mag 1
    -- |x| below the defined value of code 1
    let below := decide (cmpVal (.fin false m e) (.fin false g.1 g.2) < 0)
    (if c = 0 then 0 else s + c, if exact then fNone else if below then fUF ||| fNX else fNX)

/-- Conversion of a finite non-zero |x| into E8M0 (R40). -/
def toE8M0 (m : RMode) (n : Nat) (e : Int) : Res :=
  let k := floorLog2Q n 1 + e
  let isPow := decide (n = 2 ^ Nat.log2 n)
  let j : Int :=
    match m with
    | .rz | .rd => k
    | .ru => if isPow then k else k + 1
    | _ =>
      -- n * 2^e against 1.5 * 2^k: 2 n against 3 * 2^(log2 n)
      if 2 * n > 3 * 2 ^ Nat.log2 n then k + 1
      else if 2 * n = 3 * 2 ^ Nat.log2 n then (if (k + 127) % 2 = 0 then k else k + 1)
      else k
  let inex := if isPow then fNone else fNX
  if j < -127 then (0, fSAT ||| fNX)
  else if j > 127 then (0xFE, fSAT ||| fNX)
  else ((j + 127).toNat, inex)

/-- Conversion of any value to any format (R36 to R40); FZ has been applied to the source. -/
def convertVal (dt : Fmt) (m : RMode) (fz : Bool) (ovf : Ovf) (v : Val) : Res :=
  match binFmt dt with
  | some b =>
    match v with
    | .nan s =>
      if b.hasInf || dt == E4M3 then (defaultNaN dt, if s then fNV else fNone) else (0, fNV)
    | .inf neg =>
      if b.hasInf then
        if ovf.sat then (signBit dt neg + maxCode b, fSAT) else (signBit dt neg + infCode b, fNone)
      else if dt == E4M3 && ovf.nan then (defaultNaN dt, fNV)
      else (signBit dt neg + maxCode b, fSAT)
    | .zero neg => (signBit dt neg, fNone)
    | .fin neg n e => roundFin dt b m fz ovf neg n 1 e
  | none =>
    if dt = D8 then
      match v with
      | .nan s => (0x80, if s then fNV else fNone)
      | .inf neg => if ovf.nan then (0x80, fNV) else ((if neg then 0x83 else 0x03), fSAT)
      | .zero _ => (0, fNone)
      | .fin neg n e => toD8 ovf neg n e
    else if dt = B1 then
      match v with
      | .nan _ => (0, fNV)
      | .inf neg => ((if neg then 1 else 0), fNone)
      | .zero _ => (0, fNone)
      | .fin neg _ _ => ((if neg then 1 else 0), fNone)
    else if dt = E8M0 then
      match v with
      | .nan _ => (0xFF, fNV)
      | .inf _ => (0xFF, fNV)
      | .zero _ => (0, fNX)
      | .fin _ n e => toE8M0 m n e
    else if dt = UE4M3 then
      match binFmt E4M3 with
      | none => (0, fNone)
      | some b =>
        match v with
        | .nan _ => (0x7F, fNV)
        | .inf _ => (maxCode b, fSAT)
        | .zero _ => (0, fNone)
        | .fin _ n e => let r := roundFin E4M3 b m fz ovf false n 1 e; (r.1 % 128, r.2)
    else
      match v with
      | .nan _ => (0, fNV)
      | .inf neg => (intCode dt (if neg then intMin dt else intMax dt), fSAT)
      | .zero _ => (0, fNone)
      | .fin neg n e =>
        let r := roundToInt m neg n 1 e
        if r.1 < intMin dt then (intCode dt (intMin dt), fSAT ||| fNX)
        else if r.1 > intMax dt then (intCode dt (intMax dt), fSAT ||| fNX)
        else (intCode dt r.1, if r.2 then fNX else fNone)

/-- Integer to integer (R39): wraps, or clamps under `.sat`. -/
def convertInt (dt : Fmt) (sat : Bool) (i : Int) : Res :=
  if i < intMin dt then (if sat then (intCode dt (intMin dt), fSAT) else (intCode dt i, fNone))
  else if i > intMax dt then (if sat then (intCode dt (intMax dt), fSAT) else (intCode dt i, fNone))
  else (intCode dt i, fNone)

/-- `convert` (R36 to R40) of a code of format st into dt. -/
def convertCode (dt st : Fmt) (m : RMode) (fz : Bool) (ovf : Ovf) (c : Nat) : Res :=
  if fmtInt st && fmtInt dt then convertInt dt ovf.sat (intOfCode st c)
  else convertVal dt m fz ovf (readVal st fz c)

/-- A result clamped or wrapped to an integer type (R116). -/
def clampInt (f : Fmt) (sat : Bool) (i : Int) : Res := convertInt f sat i

end Sys2Proof.Machine
end

