-- ==== Sys2Proof/Machine/Func.lean ====
section
/-! DEFINITION. The arithmetic functions of group 0x2 and the special functions of R138 to R140, on exact values. A value that is not representable is carried as a point strictly between the representable values and ties around it, which rounds as the exact value does (DEDUCED, log 12). -/

namespace Sys2Proof.Machine

/-- Bits of the fixed point in which special functions are evaluated. -/
def fxW : Nat := 256
def fxOne : Nat := 2 ^ fxW

/-- atanh-like series: the sum over k of s^k z^(2k+1) / (2k+1) in fixed point, s being 1 or -1, for z below 1 over 2. -/
def oddSeries (alt : Bool) (z2 : Nat) : Nat → Nat → Nat → Int → Int
  | 0, _, _, acc => acc
  | fuel + 1, k, zp, acc =>
    let t : Int := (zp / (2 * k + 1) : Nat)
    oddSeries alt z2 fuel (k + 1) (zp * z2 / fxOne) (if alt && k % 2 == 1 then acc - t else acc + t)

/-- atan (1 / n) in fixed point. -/
def atanInv (n : Nat) : Int := oddSeries true (fxOne / (n * n)) 130 0 (fxOne / n) 0
/-- pi in fixed point. -/
def fxPi : Nat := (16 * atanInv 5 - 4 * atanInv 239).toNat
/-- atanh z in fixed point, z at most 1/3. -/
def atanhFx (z : Nat) : Nat := (oddSeries false (z * z / fxOne) 90 0 z 0).toNat
/-- ln 2 in fixed point. -/
def fxLn2 : Nat := 2 * atanhFx (fxOne / 3)

/-- The sum over k of t^k / k!, in fixed point. -/
def expSeries (t : Nat) : Nat → Nat → Nat → Nat → Nat
  | 0, _, _, acc => acc
  | fuel + 1, k, term, acc => expSeries t fuel (k + 1) (term * t / fxOne / (k + 1)) (acc + term)

/-- 2^f for f in [0, 1), in fixed point. -/
def exp2Frac (f : Nat) : Nat := expSeries (f * fxLn2 / fxOne) 64 0 fxOne 0

/-- sin t and cos t for t in [0, 1], in fixed point: alternating series from a first term. -/
def trigSeries (t2 : Nat) : Nat → Nat → Nat → Int → Int
  | 0, _, _, acc => acc
  | fuel + 1, k, term, acc =>
    let acc' := if (k / 2) % 2 = 0 then acc + term else acc - term
    trigSeries t2 fuel (k + 2) (term * t2 / fxOne / ((k + 1) * (k + 2))) acc'

def sinFx (t : Nat) : Nat := (trigSeries (t * t / fxOne) 40 1 t 0).toNat
def cosFx (t : Nat) : Nat := (trigSeries (t * t / fxOne) 40 0 fxOne 0).toNat

/-- erf's series: the sum over k of (-1)^k x^(2k+1) / (k! (2k+1)). -/
def erfSeries (x2 : Nat) : Nat → Nat → Nat → Int → Int
  | 0, _, _, acc => acc
  | fuel + 1, k, term, acc =>
    let t : Int := (term / (2 * k + 1) : Nat)
    erfSeries x2 fuel (k + 1) (term * x2 / fxOne / (k + 1)) (if k % 2 = 0 then acc + t else acc - t)

/-- A value known to fixed-point precision and known not to be a representable value: the point between n and n + 1. -/
def between (neg : Bool) (n : Nat) (e : Int) : Val := .fin neg (2 * n + 1) (e - 1)

/-- m times 2^e in fixed point; exact for e at least -256. -/
def toFx (m : Nat) (e : Int) : Nat := if e + fxW ≥ 0 then m * 2 ^ (e + fxW).toNat else m / 2 ^ (-(e + fxW)).toNat

/-- A value strictly below 1, kept below 1. -/
def belowOne (n : Nat) : Nat := if n ≥ fxOne then fxOne - 1 else n

/-- 2^x for x = s * n / 2^256: the integer part and the fraction. -/
def exp2Fx (neg : Bool) (n : Nat) : Nat × Int :=
  let i : Int := if neg then -(n : Int) else n
  let k := i / (fxOne : Int)
  let f := (i % (fxOne : Int)).toNat
  (exp2Frac f, k)

/-- An exact 2^k. -/
def pow2Val (k : Int) : Val := .fin false 1 k

/-- EX2 of a finite non-zero x (R138). Far outside the range the value is carried as 2^600 or 2^-600, which rounds alike. -/
def ex2Val (neg : Bool) (m : Nat) (e : Int) : Val :=
  if cmpVal (.fin false m e) (.fin false 1 10) > 0 then pow2Val (if neg then -600 else 600)
  else
    let n := toFx m e
    let r := exp2Fx neg n
    if n % fxOne = 0 then pow2Val r.2 else between false r.1 (r.2 - fxW)

/-- log2 x for x > 0 (R138). -/
def lg2Val (m : Nat) (e : Int) : Val :=
  let k := Nat.log2 m
  let ex : Int := e + k
  if m = 2 ^ k then valOfInt ex
  else
    -- m / 2^k = 1 + z, ln = 2 atanh (z / (2 + z))
    let num := m - 2 ^ k
    let den := m + 2 ^ k
    let l := 2 * atanhFx (num * fxOne / den) * fxOne / fxLn2
    let t : Int := ex * (fxOne : Int) + (l : Int)
    if t < 0 then between true (t.natAbs - 1) (-(fxW : Int)) else between false t.natAbs (-(fxW : Int))

/-- The square root of m times 2^e, exact or between (R138). -/
def sqrtVal (m : Nat) (e : Int) : Val :=
  let m' := if e % 2 = 0 then m else 2 * m
  let e' := if e % 2 = 0 then e else e - 1
  let n := m' * 4 ^ 128
  let r := Nat.sqrt n
  if r * r = n then .fin false r (e' / 2 - 128) else between false r (e' / 2 - 128)

/-- 1 over the square root (R138). -/
def rsqVal (m : Nat) (e : Int) : Val :=
  let m' := if e % 2 = 0 then m else 2 * m
  let e' := if e % 2 = 0 then e else e - 1
  let r := Nat.sqrt (4 ^ 160 / m')
  if r * r * m' = 4 ^ 160 then .fin false r (-160 - e' / 2) else between false r (-160 - e' / 2)

/-- x mod 2 in units of 2^-256 for finite x; exact for every FP32 value. -/
def modTwoFx (m : Nat) (e : Int) : Nat := if e ≥ 1 then 0 else toFx m e % (2 * fxOne)

/-- sin (pi u) for u in (0, 1/2), in fixed point. -/
def sinPiFx (u : Nat) : Nat :=
  if 4 * u ≤ fxOne then sinFx (u * fxPi / fxOne) else cosFx ((fxOne / 2 - u) * fxPi / fxOne)

/-- sin (pi r) for r in [0, 2) in units of 2^-256; neg is the sign of the operand (R138, R140). -/
def sinPiVal (neg : Bool) (r : Nat) : Val :=
  let half := fxOne / 2
  if r % fxOne = 0 then .zero neg
  else
    let s := neg != decide (r > fxOne)
    let u := r % fxOne
    if u = half then .fin s 1 0
    else between s (belowOne (sinPiFx (if u > half then fxOne - u else u))) (-(fxW : Int))

/-- cos (pi r) for r in [0, 2) (R138, R140). -/
def cosPiVal (r : Nat) : Val :=
  let half := fxOne / 2
  let q := r % fxOne
  if q = half then .zero false
  else if q = 0 then .fin (decide (r = fxOne)) 1 0
  else
    -- cos is negative for r in (1/2, 3/2)
    let s := decide (r > half) && decide (r < fxOne + half)
    let u := if q > half then fxOne - q else q
    -- cos (pi u) = sin (pi (1/2 - u))
    between s (belowOne (sinPiFx (half - u))) (-(fxW : Int))

/-- e^(-x) for x > 0 below 128, as a fixed-point number. -/
def expNegFx (m : Nat) (e : Int) : Nat :=
  let t := toFx m e * fxOne / fxLn2
  let r := exp2Fx true t
  if r.2 ≥ 0 then r.1 * 2 ^ r.2.toNat else r.1 / 2 ^ (-r.2).toNat

/-- tanh of a finite non-zero x (R138). -/
def tanhVal (neg : Bool) (m : Nat) (e : Int) : Val :=
  let x := Val.fin false m e
  if cmpVal x (.fin false 1 6) > 0 then between neg (2 ^ 200 - 1) (-200)
  else if cmpVal x (.fin false 1 (-40)) < 0 then .fin neg (m * 2 ^ 101 - 1) (e - 101)
  else
    let q := expNegFx m (e + 1)
    between neg (belowOne ((fxOne - q) * fxOne / (fxOne + q))) (-(fxW : Int))

/-- 1 / (1 + e^-x) of a finite non-zero x (R138). -/
def sigmVal (neg : Bool) (m : Nat) (e : Int) : Val :=
  if cmpVal (.fin false m e) (.fin false 1 7) > 0 then
    (if neg then between false 0 (-170) else between false (2 ^ 170 - 1) (-170))
  else
    let q := expNegFx m e
    -- for negative x: q / (1 + q) with q = e^x
    between false (belowOne ((if neg then q else fxOne) * fxOne / (fxOne + q))) (-(fxW : Int))

/-- erf of a finite non-zero x (R138). -/
def erfVal (neg : Bool) (m : Nat) (e : Int) : Val :=
  if cmpVal (.fin false m e) (.fin false 6 0) > 0 then between neg (2 ^ 50 - 1) (-50)
  else
    let x := toFx m e
    let s := (erfSeries (x * x / fxOne) 240 0 x 0).toNat
    between neg (belowOne (2 * s * fxOne / Nat.sqrt (fxPi * fxOne))) (-(fxW : Int))

/-- The special functions of R138. -/
inductive SFn where
  | ex2 | lg2 | rcp | rsq | sqrt | sinPi | cosPi | tanh | sigm | erf
  deriving DecidableEq, Repr

/-- The number by which Config knows a function. -/
def SFn.code : SFn → Nat
  | .ex2 => 0x44 | .lg2 => 0x45 | .rcp => 0x46 | .rsq => 0x47 | .sqrt => 0x48
  | .sinPi => 0x49 | .cosPi => 0x4A | .tanh => 0x4B | .sigm => 0x4C | .erf => 0x4D

/-- An exact or special result of a special function, with a divisor for RCP: value n / d, and the flags of R140. -/
structure SRes where
  v : Val
  den : Nat
  fl : FFlags
  deriving DecidableEq, Repr

/-- The exact function value by R138 and R140; the operand has had FZ applied. -/
def specialVal (fn : SFn) (v : Val) : SRes :=
  let ok (x : Val) : SRes := ⟨x, 1, fNone⟩
  let bad : SRes := ⟨.nan false, 1, fNV⟩
  let one : Val := .fin false 1 0
  match v with
  | .nan s => ⟨.nan false, 1, if s then fNV else fNone⟩
  | .zero s =>
    match fn with
    | .ex2 => ok one
    | .lg2 => ⟨.inf true, 1, fDZ⟩
    | .rcp => ⟨.inf s, 1, fDZ⟩
    | .rsq => ⟨.inf s, 1, fDZ⟩
    | .sqrt => ok (.zero s)
    | .sinPi => ok (.zero s)
    | .cosPi => ok one
    | .tanh => ok (.zero s)
    | .sigm => ok (.fin false 1 (-1))
    | .erf => ok (.zero s)
  | .inf s =>
    match fn with
    | .ex2 => ok (if s then .zero false else .inf false)
    | .lg2 => if s then bad else ok (.inf false)
    | .rcp => ok (.zero s)
    | .rsq => if s then bad else ok (.zero false)
    | .sqrt => if s then bad else ok (.inf false)
    | .sinPi => bad
    | .cosPi => bad
    | .tanh => ok (.fin s 1 0)
    | .sigm => ok (if s then .zero false else one)
    | .erf => ok (.fin s 1 0)
  | .fin s m e =>
    match fn with
    | .ex2 => ok (ex2Val s m e)
    | .lg2 => if s then bad else ok (lg2Val m e)
    | .rcp => ⟨.fin s 1 (-e), m, fNone⟩
    | .rsq => if s then bad else ok (rsqVal m e)
    | .sqrt => if s then bad else ok (sqrtVal m e)
    | .sinPi => ok (sinPiVal s (modTwoFx m e))
    | .cosPi => ok (cosPiVal (modTwoFx m e))
    | .tanh => ok (tanhVal s m e)
    | .sigm => ok (sigmVal s m e)
    | .erf => ok (erfVal s m e)

/-- Rounding of a special function's result in a mode (R34). -/
def roundS (f : Fmt) (b : BinFmt) (m : RMode) (fz : Bool) (r : SRes) : Res :=
  match r.v with
  | .fin neg n e => let x := roundFin f b m fz ⟨false, false⟩ neg n r.den e; (x.1, x.2 ||| r.fl)
  | v => let x := roundVal f b m fz v; (x.1, x.2 ||| r.fl)

/-- A special function on a code of FP32, BF16 or FP16 (R139): 16-bit results rounded once in RN; an FP32 result one of the two neighbours of the exact value, chosen by the configuration from the function and the argument after FZ. -/
def specialCode (fn : SFn) (f : Fmt) (fz : Bool) (c : Nat) : Res :=
  match binFmt f with
  | none => (0, fNone)
  | some b =>
    let v := readVal f fz c
    let r := specialVal fn v
    if f = FP32 then
      let arg := if isZeroV v then signBit f v.neg else c
      let up := Config.faithfulUp fn.code (BitVec.ofNat 32 arg)
      roundS f b (if up then (if r.v.neg then .rd else .ru) else .rz) fz r
    else roundS f b .rn fz r

/-- RCP.F64 and SQRT.F64, correctly rounded in the selected mode (R139). -/
def specialF64 (fn : SFn) (m : RMode) (fz : Bool) (c : Nat) : Res :=
  match binFmt FP64 with
  | none => (0, fNone)
  | some b => roundS FP64 b m fz (specialVal fn (readVal FP64 fz c))

/-- A / B, correctly rounded (R120, IEEE 754-2019). -/
def divVal (f : Fmt) (b : BinFmt) (m : RMode) (fz : Bool) (x y : Val) : Res :=
  let fl := snanFlags [x, y]
  let s := x.neg != y.neg
  match x, y with
  | .nan _, _ => (defaultNaN f, fl)
  | _, .nan _ => (defaultNaN f, fl)
  | .inf _, .inf _ => (defaultNaN f, fNV)
  | .zero _, .zero _ => (defaultNaN f, fNV)
  | .inf _, _ => (signBit f s + infCode b, fNone)
  | _, .inf _ => (signBit f s, fNone)
  | .zero _, _ => (signBit f s, fNone)
  | .fin _ _ _, .zero _ => (signBit f s + infCode b, fDZ)
  | .fin _ m1 e1, .fin _ m2 e2 => roundFin f b m fz ⟨false, false⟩ s m1 m2 (e1 - e2)

/-- A + B (R120). -/
def fpAdd (f : Fmt) (b : BinFmt) (m : RMode) (fz : Bool) (x y : Val) : Res :=
  let s := addVal m x y
  let r := roundVal f b m fz s.1
  (r.1, r.2 ||| s.2 ||| snanFlags [x, y])

/-- A - B (R120). -/
def fpSub (f : Fmt) (b : BinFmt) (m : RMode) (fz : Bool) (x y : Val) : Res := fpAdd f b m fz x y.negate

/-- A * B (R120). -/
def fpMul (f : Fmt) (b : BinFmt) (m : RMode) (fz : Bool) (x y : Val) : Res :=
  let p := mulVal x y
  let r := roundVal f b m fz p.1
  (r.1, r.2 ||| p.2 ||| snanFlags [x, y])

/-- A * B + C, exact before one rounding; 0 times infinity raises NV whatever C holds (R120). -/
def fpFma (f : Fmt) (b : BinFmt) (m : RMode) (fz : Bool) (x y z : Val) : Res :=
  let p := mulVal x y
  let s := addVal m p.1 z
  let r := roundVal f b m fz s.1
  (r.1, r.2 ||| p.2 ||| s.2 ||| snanFlags [x, y, z])

/-- MIN or MAX (R121). -/
def fpMinMax (f : Fmt) (isMax : Bool) (x y : Val) : Res :=
  let r := minMaxVal isMax x y
  ((match r.1 with | .nan _ => defaultNaN f | v => encodeExact f v), r.2)

/-- MIN(MAX(A, B), C), and C when B > C (R120, R121). -/
def fpClamp (f : Fmt) (x y z : Val) : Res :=
  let r := minMaxVal true x y
  let q := minMaxVal false r.1 z
  ((match q.1 with | .nan _ => defaultNaN f | v => encodeExact f v), r.2 ||| q.2)

/-- A - trunc(A) with A's sign (R120, R123). -/
def fpFrc (f : Fmt) (x : Val) : Res :=
  match x with
  | .nan s => (defaultNaN f, if s then fNV else fNone)
  | .inf _ => (defaultNaN f, fNV)
  | .zero s => (signBit f s, fNone)
  | .fin s m e =>
    let r := if e ≥ 0 then 0 else m % 2 ^ (-e).toNat
    (if r = 0 then signBit f s else encodeExact f (.fin s r e), fNone)

/-- A rounded to an integral value; never NX, UF or OF (R123). -/
def fpRndi (f : Fmt) (m : RMode) (x : Val) : Res :=
  match x with
  | .nan s => (defaultNaN f, if s then fNV else fNone)
  | .fin s n e =>
    if e ≥ 0 then (encodeExact f x, fNone)
    else
      let r := roundToInt m s n 1 e
      (if r.1 = 0 then signBit f s else encodeExact f (.fin s r.1.natAbs 0), fNone)
  | v => (encodeExact f v, fNone)

/-- A * 2^B (R123). The exponent is held within what any format can show, which rounds alike. -/
def fpScalb (f : Fmt) (b : BinFmt) (m : RMode) (fz : Bool) (x : Val) (k : Int) : Res :=
  let k := if k > 5000 then 5000 else if k < -5000 then -5000 else k
  match x with
  | .nan s => (defaultNaN f, if s then fNV else fNone)
  | .fin s n e => roundFin f b m fz ⟨false, false⟩ s n 1 (e + k)
  | v => roundVal f b m fz v

/-- floor(log2 |A|) as a value (R123). -/
def fpGetexp (f : Fmt) (b : BinFmt) (x : Val) : Res :=
  match x with
  | .nan s => (defaultNaN f, if s then fNV else fNone)
  | .inf _ => (infCode b, fNone)
  | .zero _ => (signBit f true + infCode b, fDZ)
  | .fin _ n e => (encodeExact f (valOfInt ((Nat.log2 n : Int) + e)), fNone)

/-- The significand of A in [1, 2) with A's sign (R123). -/
def fpGetman (f : Fmt) (x : Val) : Res :=
  match x with
  | .nan s => (defaultNaN f, if s then fNV else fNone)
  | .inf _ => (defaultNaN f, fNV)
  | .zero s => (signBit f s, fNone)
  | .fin s n _ => (encodeExact f (.fin s n (-(Nat.log2 n : Int))), fNone)

/-- Exact products and sum of DOT2, rounded once to FP32 (R125). -/
def fpDot2 (m : RMode) (fz : Bool) (x0 y0 x1 y1 z : Val) : Res :=
  match binFmt FP32 with
  | none => (0, fNone)
  | some b =>
    let p := mulVal x0 y0
    let q := mulVal x1 y1
    let s := exactSum m [p.1, q.1, z]
    let r := roundVal FP32 b m fz s.1
    (r.1, r.2 ||| p.2 ||| q.2 ||| s.2 ||| snanFlags [x0, y0, x1, y1, z])

/-- The condition codes of SETP and SCMP on integers (R126). -/
def ccInt (cc : Nat) (a b : Int) : Bool :=
  match cc with
  | 0 => a == b | 1 => a != b | 2 => a < b | 3 => a ≤ b | 4 => a > b | 5 => a ≥ b | _ => false

/-- The condition codes of SETP on floating-point values, with NV (R126). -/
def ccFp (cc : Nat) (a b : Val) : Bool × FFlags :=
  let un := isNaN a || isNaN b
  let c := cmpVal a b
  let quiet := snanFlags [a, b]
  let loud := if un then fNV else fNone
  match cc with
  | 0 => (!un && decide (c = 0), quiet)
  | 1 => (un || decide (c ≠ 0), quiet)
  | 2 => (!un && decide (c < 0), loud)
  | 3 => (!un && decide (c ≤ 0), loud)
  | 4 => (!un && decide (c > 0), loud)
  | 5 => (!un && decide (c ≥ 0), loud)
  | 6 => (!un, quiet)
  | _ => (un, quiet)

/-- The class bits of a code of FP32 or FP64 (R129): FZ is ignored. -/
def classBits (f : Fmt) (c : Nat) : Nat :=
  match binFmt f with
  | none => 0
  | some b =>
    match decodeBin f b (c % 2 ^ fmtWidth f) with
    | .nan s => if s then 1 else 2
    | .inf s => if s then 4 else 512
    | .zero s => if s then 32 else 64
    | .fin s m _ =>
      if m < 2 ^ b.frac then (if s then 16 else 128) else (if s then 8 else 256)

/-- A binary format's parameters, of an operation whose type is one. -/
def binOf (f : Fmt) : BinFmt := (binFmt f).getD ⟨23, 8, 127, 127, 2 ^ 24 - 1, true, true⟩

end Sys2Proof.Machine
end

