-- ==== Sys2Proof/Syntax.lean ====
section
/-! DEFINITION. The instruction set: one constructor for each row of spec/opcode_table.json. Rows with an encoding carry their decoded fields (R74, R83, R92); the device steps carry what names them. -/

namespace Sys2Proof

/-- One constructor for each row of the table of operations and events. -/
inductive Instr where
  /-- CLAUSE (R74): A clause header is reached at a header position; once every flag its WAIT names is clear, the clause starts, and any pending recorded engine trap for those flags is taken here. -/
  | clause (h : ClauseHdr)
  /-- ADD_INT (R116): Integer add, wrapped or clamped under .sat. -/
  | addInt (o : MOps)
  /-- SUB_INT (R116): Integer subtract. -/
  | subInt (o : MOps)
  /-- MUL_INT (R116): Integer multiply. -/
  | mulInt (o : MOps)
  /-- MULHI (R116): High half of the exact integer product. -/
  | mulhi (o : MOps)
  /-- MAD (R116): Integer multiply-add. -/
  | mad (o : MOps)
  /-- MADHI (R116): High half of the product plus C. -/
  | madhi (o : MOps)
  /-- DIV_INT (R116): Integer divide truncated toward zero; divide by zero gives all ones. -/
  | divInt (o : MOps)
  /-- REM (R116): Integer remainder with the sign of A. -/
  | rem (o : MOps)
  /-- MIN_INT (R116): Integer minimum. -/
  | minInt (o : MOps)
  /-- MAX_INT (R116): Integer maximum. -/
  | maxInt (o : MOps)
  /-- ABS_INT (R116): Integer absolute value. -/
  | absInt (o : MOps)
  /-- NEG_INT (R116): Integer negation. -/
  | negInt (o : MOps)
  /-- SAD (R116): Sum of absolute difference and C. -/
  | sad (o : MOps)
  /-- DP4 (R116): Four-way byte dot product plus C. -/
  | dp4 (o : MOps)
  /-- DP2 (R116): Two-way 16-bit dot product plus C. -/
  | dp2 (o : MOps)
  /-- LEA (R116): 64-bit A plus extended B shifted by sh. -/
  | lea (o : MOps)
  /-- AND (R118): Bitwise AND. -/
  | andB (o : MOps)
  /-- OR (R118): Bitwise OR. -/
  | orB (o : MOps)
  /-- XOR (R118): Bitwise XOR. -/
  | xor (o : MOps)
  /-- NOT (R118): Bitwise NOT. -/
  | notB (o : MOps)
  /-- ANDN (R118): A AND NOT B. -/
  | andn (o : MOps)
  /-- BITF (R118): Three-input bit function of A, B and old D by a truth table. -/
  | bitf (o : MOps)
  /-- SHL (R118): Shift left. -/
  | shl (o : MOps)
  /-- SHR (R118): Logical or arithmetic shift right. -/
  | shr (o : MOps)
  /-- SHF (R118): Funnel shift of the 64-bit B:A. -/
  | shf (o : MOps)
  /-- ROT (R118): Rotate left. -/
  | rot (o : MOps)
  /-- POPC (R118): Population count. -/
  | popc (o : MOps)
  /-- CLZ (R118): Count leading zeros. -/
  | clz (o : MOps)
  /-- BREV (R118): Bit reverse. -/
  | brev (o : MOps)
  /-- BFE (R118): Bit-field extract. -/
  | bfe (o : MOps)
  /-- BFI (R118): Bit-field insert. -/
  | bfi (o : MOps)
  /-- PRMB (R118): Byte permute of B:A. -/
  | prmb (o : MOps)
  /-- ADD_FP (R120): FP32/FP64 add, rounded once. -/
  | addFp (o : MOps)
  /-- SUB_FP (R120): FP32/FP64 subtract. -/
  | subFp (o : MOps)
  /-- MUL_FP (R120): FP32/FP64 multiply. -/
  | mulFp (o : MOps)
  /-- FMA_FP (R120): FP32/FP64 fused multiply-add. -/
  | fmaFp (o : MOps)
  /-- DIV_FP (R120): Correctly rounded FP32/FP64 divide. -/
  | divFp (o : MOps)
  /-- MIN_FP (R121): Floating-point minimum. -/
  | minFp (o : MOps)
  /-- MAX_FP (R121): Floating-point maximum. -/
  | maxFp (o : MOps)
  /-- ABS_FP (R122): Clear the sign bit. -/
  | absFp (o : MOps)
  /-- NEG_FP (R122): Invert the sign bit. -/
  | negFp (o : MOps)
  /-- FRC (R123): Fractional part. -/
  | frc (o : MOps)
  /-- RNDI (R123): Round to an integral value. -/
  | rndi (o : MOps)
  /-- SCALB (R123): A times 2 to the B. -/
  | scalb (o : MOps)
  /-- GETEXP (R123): Exponent of A as a value. -/
  | getexp (o : MOps)
  /-- GETMAN (R123): Significand of A in [1, 2). -/
  | getman (o : MOps)
  /-- CLAMP_FP (R120): MIN(MAX(A, B), C). -/
  | clampFp (o : MOps)
  /-- ADD_PACKED (R124): Packed FP16/BF16 add. -/
  | addPacked (o : MOps)
  /-- SUB_PACKED (R124): Packed subtract. -/
  | subPacked (o : MOps)
  /-- MUL_PACKED (R124): Packed multiply. -/
  | mulPacked (o : MOps)
  /-- FMA_PACKED (R124): Packed fused multiply-add. -/
  | fmaPacked (o : MOps)
  /-- MIN_PACKED (R124): Packed minimum. -/
  | minPacked (o : MOps)
  /-- MAX_PACKED (R124): Packed maximum. -/
  | maxPacked (o : MOps)
  /-- ABS_PACKED (R124): Packed absolute value. -/
  | absPacked (o : MOps)
  /-- NEG_PACKED (R124): Packed negation. -/
  | negPacked (o : MOps)
  /-- DOT2 (R125): Exact two-element dot product plus FP32 C, rounded once. -/
  | dot2 (o : MOps)
  /-- CLAMP_PACKED (R124): Packed clamp. -/
  | clampPacked (o : MOps)
  /-- CVT (R130): Convert one element between any two formats. -/
  | cvt (o : MOps)
  /-- CVT_Q (R135): Quantizing conversion with a power-of-two scale from an amax ring, then a ring record. -/
  | cvtQ (o : MOps)
  /-- PACK (R131): Convert and insert into element j of D, or byte-to-dense packing. -/
  | pack (o : MOps)
  /-- UNPACK (R132): Extract element j and convert, or dense-to-byte unpacking. -/
  | unpack (o : MOps)
  /-- EX2 (R138): 2 to the A. -/
  | ex2 (o : MOps)
  /-- LG2 (R138): log2 A. -/
  | lg2 (o : MOps)
  /-- RCP (R138): Reciprocal. -/
  | rcp (o : MOps)
  /-- RSQ (R138): Reciprocal square root. -/
  | rsq (o : MOps)
  /-- SQRT (R138): Square root. -/
  | sqrt (o : MOps)
  /-- SIN_PI (R138): sin(pi A). -/
  | sinPi (o : MOps)
  /-- COS_PI (R138): cos(pi A). -/
  | cosPi (o : MOps)
  /-- TANH (R138): Hyperbolic tangent. -/
  | tanh (o : MOps)
  /-- SIGM (R138): Logistic sigmoid. -/
  | sigm (o : MOps)
  /-- ERF (R138): Error function. -/
  | erf (o : MOps)
  /-- AMAX_RD (R136): Read an amax ring's maximum into a scalar. -/
  | amaxRd (o : MOps)
  /-- AMAX_REC (R136): Record the active lanes' maximum into the ring's head entry. -/
  | amaxRec (o : MOps)
  /-- AMAX_ADV (R136): Advance the ring head and clear the new head entry. -/
  | amaxAdv (o : MOps)
  /-- AMAX_CLR (R136): Clear every ring entry and the head. -/
  | amaxClr (o : MOps)
  /-- AMAX_SCL (R136): Return the E8M0 dequantizing scale CVT.Q would use now. -/
  | amaxScl (o : MOps)
  /-- XLANE (R142): Read A from a source lane computed by the mode. -/
  | xlane (o : MOps)
  /-- PCOMB (R143): Combine a predicate over the active lanes. -/
  | pcomb (o : MOps)
  /-- EQSET (R144): Classify active lanes by equal values of A. -/
  | eqset (o : MOps)
  /-- RED (R145): Reduce the contributing lanes' values. -/
  | red (o : MOps)
  /-- SCAN (R145): Inclusive or exclusive prefix combination across lanes. -/
  | scan (o : MOps)
  /-- FIRST (R147): Mark the lowest or highest active lane. -/
  | first (o : MOps)
  /-- SPREAD (R147): Broadcast the chosen lane's A to every active lane. -/
  | spread (o : MOps)
  /-- SADD (R148): Scalar add. -/
  | sadd (o : MOps)
  /-- SSUB (R148): Scalar subtract. -/
  | ssub (o : MOps)
  /-- SMUL (R148): Scalar multiply. -/
  | smul (o : MOps)
  /-- SAND (R148): Scalar AND. -/
  | sand (o : MOps)
  /-- SOR (R148): Scalar OR. -/
  | sor (o : MOps)
  /-- SXOR (R148): Scalar XOR. -/
  | sxor (o : MOps)
  /-- SSHL (R148): Scalar shift left. -/
  | sshl (o : MOps)
  /-- SSHR (R148): Scalar shift right. -/
  | sshr (o : MOps)
  /-- SMOV (R148): Scalar move. -/
  | smov (o : MOps)
  /-- SCMP (R148): Scalar compare to 0 or 1. -/
  | scmp (o : MOps)
  /-- SSEL (R148): Scalar select. -/
  | ssel (o : MOps)
  /-- SLD (R150): Long-latency scalar load of 4 or 8 bytes of global memory. -/
  | sld (o : MOps)
  /-- SMIN (R148): Scalar minimum. -/
  | smin (o : MOps)
  /-- SMAX (R148): Scalar maximum. -/
  | smax (o : MOps)
  /-- RDLANE (R149): Read one lane's vector register into a scalar. -/
  | rdlane (o : MOps)
  /-- SPOPC (R148): Scalar population count. -/
  | spopc (o : MOps)
  /-- SETP (R126): Compare and write a predicate. -/
  | setp (o : MOps)
  /-- SEL (R127): Select A or B by a predicate. -/
  | sel (o : MOps)
  /-- PLOP (R128): Predicate logic by truth table. -/
  | plop (o : MOps)
  /-- PRD (R128): Read the predicates into a vector register. -/
  | prd (o : MOps)
  /-- PWR (R128): Write selected predicates from a value. -/
  | pwr (o : MOps)
  /-- MOV (R127): Vector move (M or L form). -/
  | mov (o : MOps)
  /-- CLASS (R129): Test the class of a floating-point value. -/
  | class (o : MOps)
  /-- LD_B32 (R159): Global load of 4 bytes per lane. -/
  | ldB32 (o : MOps)
  /-- LD_B64 (R159): Global load of 8 bytes per lane. -/
  | ldB64 (o : MOps)
  /-- LD_B128 (R159): Global load of 16 bytes per lane. -/
  | ldB128 (o : MOps)
  /-- LD_N8 (R159): Global byte load, zero-extended. -/
  | ldN8 (o : MOps)
  /-- LD_I8 (R159): Global byte load, sign-extended. -/
  | ldI8 (o : MOps)
  /-- LD_N16 (R159): Global halfword load, zero-extended. -/
  | ldN16 (o : MOps)
  /-- LD_I16 (R159): Global halfword load, sign-extended. -/
  | ldI16 (o : MOps)
  /-- ST_B8 (R159): Global byte store. -/
  | stB8 (o : MOps)
  /-- ST_B16 (R159): Global halfword store. -/
  | stB16 (o : MOps)
  /-- ST_B32 (R159): Global word store. -/
  | stB32 (o : MOps)
  /-- ST_B64 (R159): Global 8-byte store. -/
  | stB64 (o : MOps)
  /-- ST_B128 (R159): Global 16-byte store. -/
  | stB128 (o : MOps)
  /-- PRF (R160): Prefetch one line per active lane. -/
  | prf (o : MOps)
  /-- LD_GM (R161): Group-memory load. -/
  | ldGm (o : MOps)
  /-- ST_GM (R161): Group-memory store. -/
  | stGm (o : MOps)
  /-- LDL (R162): Group-memory load through a tensor layout word. -/
  | ldl (o : MOps)
  /-- STL (R162): Group-memory store through a tensor layout word. -/
  | stl (o : MOps)
  /-- RING_OPEN (R172): Read a ring descriptor and open the ring. -/
  | ringOpen (o : MOps)
  /-- RING_CLOSE (R172): Close a ring. -/
  | ringClose (o : MOps)
  /-- RING_RSV (R172): Reserve the next ring slot, waiting while none is free. -/
  | ringRsv (o : MOps)
  /-- RING_POST (R172): Post a reserved slot and advance pst. -/
  | ringPost (o : MOps)
  /-- RING_TAKE (R172): Take the next filled slot, waiting while none is filled. -/
  | ringTake (o : MOps)
  /-- RING_DONE (R172): Mark a taken slot done and advance dne. -/
  | ringDone (o : MOps)
  /-- RING_QRY (R172): Query a ring's state. -/
  | ringQry (o : MOps)
  /-- ATOM_ADD_INT (R163): Integer atomic add. -/
  | atomAddInt (o : MOps)
  /-- ATOM_ADD_FP (R164): Floating-point atomic add in RN. -/
  | atomAddFp (o : MOps)
  /-- ATOM_MIN_I (R163): Signed atomic minimum. -/
  | atomMinI (o : MOps)
  /-- ATOM_MIN_N (R163): Unsigned atomic minimum. -/
  | atomMinN (o : MOps)
  /-- ATOM_MAX_I (R163): Signed atomic maximum. -/
  | atomMaxI (o : MOps)
  /-- ATOM_MAX_N (R163): Unsigned atomic maximum. -/
  | atomMaxN (o : MOps)
  /-- ATOM_AND (R163): Atomic AND. -/
  | atomAnd (o : MOps)
  /-- ATOM_OR (R163): Atomic OR. -/
  | atomOr (o : MOps)
  /-- ATOM_XOR (R163): Atomic XOR. -/
  | atomXor (o : MOps)
  /-- ATOM_XCHG (R163): Atomic exchange. -/
  | atomXchg (o : MOps)
  /-- ATOM_CAS (R163): Atomic compare-and-swap. -/
  | atomCas (o : MOps)
  /-- ATOM_INC (R163): Atomic wrapping increment. -/
  | atomInc (o : MOps)
  /-- ATOM_DEC (R163): Atomic wrapping decrement. -/
  | atomDec (o : MOps)
  /-- FENCE (R166): Memory fence of an order and scope. -/
  | fence (o : MOps)
  /-- BAR (R168): Arrive at a group barrier and wait for the generation to complete. -/
  | bar (o : MOps)
  /-- BAR_ARV (R168): Arrive at a group barrier without waiting. -/
  | barArv (o : MOps)
  /-- CPY (R179): Queue a copy-engine row copy, optionally with a follow-on MMA. -/
  | cpy (o : MOps)
  /-- GATH (R181): Queue a per-lane gather on the stream engine. -/
  | gath (o : MOps)
  /-- SCAT (R181): Queue a per-lane scatter on the stream engine. -/
  | scat (o : MOps)
  /-- SISECT (R184): Queue a sorted-stream intersection walk. -/
  | sisect (o : MOps)
  /-- SMERGE (R184): Queue a sorted-stream merge walk. -/
  | smerge (o : MOps)
  /-- WIN_PUB (R186): Release the warp's writes at .sys and store a 64-bit flag to a window. -/
  | winPub (o : MOps)
  /-- CB_INVAL (R187): Drop the VF's cached copies of control blocks. -/
  | cbInval (o : MOps)
  /-- MMA (R227): Queue a matrix multiply-accumulate in classical or seven-product order. -/
  | mma (o : MOps)
  /-- MMA_X64 (R238): Queue a matrix multiply accumulating exact products in FP64. -/
  | mmaX64 (o : MOps)
  /-- WB_LD (R232): Queue a load of a B tile into the weight buffer. -/
  | wbLd (o : MOps)
  /-- ACC_RD (R239): Queue a copy of an ACM tile to group memory. -/
  | accRd (o : MOps)
  /-- ACC_WR (R239): Queue a copy of group memory into an ACM tile. -/
  | accWr (o : MOps)
  /-- ACC_ZERO (R240): Queue clearing of the masked ACM tiles. -/
  | accZero (o : MOps)
  /-- MU_FENCE (R241): Queue a fence that signals when earlier MU commands have signalled. -/
  | muFence (o : MOps)
  /-- BRA (R194): Conditional branch with reconvergence, possibly pushing a join record and exporting a side. -/
  | bra (o : MOps)
  /-- JMP (R197): Unconditional PC-relative jump (L form). -/
  | jmp (o : MOps)
  /-- BRX (R197): Jump to an absolute address in a scalar pair. -/
  | brx (o : MOps)
  /-- CALL (R198): PC-relative call pushing a CALL record. -/
  | call (o : MOps)
  /-- CALL_R (R198): Call through an absolute address in a scalar pair. -/
  | callR (o : MOps)
  /-- RET (R199): Send active lanes to the CALL record's return position. -/
  | ret (o : MOps)
  /-- JOIN (R199): Send active lanes to their join record's reconvergence position. -/
  | join (o : MOps)
  /-- EXIT (R200): End every active lane, or take a pending trap at a final EXIT. -/
  | exit (o : MOps)
  /-- YIELD (R201): Move the PC slot behind every other ready slot. -/
  | yield (o : MOps)
  /-- REGION (R202): Write back and stage registers in the near buffer. -/
  | region (o : MOps)
  /-- FORK (R205): Create a ready task per active lane. -/
  | fork (o : MOps)
  /-- SPAWN (R205): Create a waiting task and attach it to a dependence word. -/
  | spawn (o : MOps)
  /-- SPAWN_SPEC (R205): Create a speculative task and attach it to a dependence word. -/
  | spawnSpec (o : MOps)
  /-- DEP_DEC (R206): Decrement a dependence word, releasing its task at zero. -/
  | depDec (o : MOps)
  /-- DEP_ADD (R206): Add to a dependence word's count. -/
  | depAdd (o : MOps)
  /-- TEND (R207): Commit the task of every active lane. -/
  | tend (o : MOps)
  /-- TABORT (R207): Discard the task's effects and requeue it. -/
  | tabort (o : MOps)
  /-- TABORT_DROP (R207): Discard the task's effects and free its record. -/
  | tabortDrop (o : MOps)
  /-- RENQ (R208): Send a new-task packet to a named basin. -/
  | renq (o : MOps)
  /-- SYSRD (R209): Read a control register. -/
  | sysrd (o : MOps)
  /-- SYSWR (R209): Write a control register. -/
  | syswr (o : MOps)
  /-- TRAP (R212): Raise a chosen trap cause. -/
  | trap (o : MOps)
  /-- TRET (R213): Leave handler mode and resume at TPC and TIX. -/
  | tret (o : MOps)
  /-- BKPT (R212): Raise BKPT (M form). -/
  | bkpt (o : MOps)
  /-- NOP (R214): No effect (M form). -/
  | nop (o : MOps)
  /-- PMCRD (R215): Read a performance counter. -/
  | pmcrd (o : MOps)
  /-- SLEEP (R216): Make the PC slot ineligible for a number of cycles. -/
  | sleep (o : MOps)
  /-- NOP_S (R93): Short NOP. -/
  | nopS (o : SOps)
  /-- MOV_S_VECTOR (R93): Short move from a vector register. -/
  | movSVector (o : SOps)
  /-- MOV_S_SCALAR (R93): Short move from a scalar register. -/
  | movSScalar (o : SOps)
  /-- SMOV_S (R93): Short scalar move. -/
  | smovS (o : SOps)
  /-- MOV_S_IMM (R93): Short move of a 4-bit immediate. -/
  | movSImm (o : SOps)
  /-- SMOV_S_IMM (R93): Short scalar move of a 4-bit immediate. -/
  | smovSImm (o : SOps)
  /-- ADD_I32_S_IMM (R93): Short add of a 4-bit immediate. -/
  | addI32SImm (o : SOps)
  /-- SADD_I32_S_IMM (R93): Short scalar add of a 4-bit immediate. -/
  | saddI32SImm (o : SOps)
  /-- SHL_B32_S (R93): Short shift left by an immediate. -/
  | shlB32S (o : SOps)
  /-- SHR_N32_S (R93): Short logical shift right. -/
  | shrN32S (o : SOps)
  /-- SHR_I32_S (R93): Short arithmetic shift right. -/
  | shrI32S (o : SOps)
  /-- ADD_I32_S (R93): Short accumulating integer add. -/
  | addI32S (o : SOps)
  /-- SUB_I32_S (R93): Short accumulating integer subtract. -/
  | subI32S (o : SOps)
  /-- AND_B32_S (R93): Short accumulating AND. -/
  | andB32S (o : SOps)
  /-- OR_B32_S (R93): Short accumulating OR. -/
  | orB32S (o : SOps)
  /-- XOR_B32_S (R93): Short accumulating XOR. -/
  | xorB32S (o : SOps)
  /-- ADD_F32_S (R93): Short accumulating FP32 add in RN. -/
  | addF32S (o : SOps)
  /-- MUL_F32_S (R93): Short accumulating FP32 multiply in RN. -/
  | mulF32S (o : SOps)
  /-- MOV_S_SPECIAL (R93): Short move of a special value. -/
  | movSSpecial (o : SOps)
  /-- SMOV_S_SPECIAL (R93): Short scalar move of a uniform special value. -/
  | smovSSpecial (o : SOps)
  /-- YIELD_S (R93): Short YIELD. -/
  | yieldS (o : SOps)
  /-- EXIT_S (R93): Short EXIT. -/
  | exitS (o : SOps)
  /-- RET_S (R93): Short RET. -/
  | retS (o : SOps)
  /-- JMP_S (R94): Short jump by a 20-bit parcel offset. -/
  | jmpS (off : BitVec 20)
  /-- BKPT_S (R93): Short BKPT. -/
  | bkptS (o : SOps)
  /-- LONG_LATENCY_COMPLETE (R52): A long-latency operation completes, writing its destination and signalling its completion flag. -/
  | longLatencyComplete (agent op : Nat)
  /-- PATH_RESTORE (R192): A freed PC slot takes the topmost PATH entry of the divergence stack. -/
  | pathRestore (agent : Nat)
  /-- SLEEP_END (R216): A SLEEP interval expires and the slot becomes eligible again. -/
  | sleepEnd (agent : Nat) (slotB : Bool)
  /-- WATCHDOG_EXPIRY (R265): A warp's or wave's watchdog count reaches its interval, raising WDOG or aborting the wave's tasks. -/
  | watchdogExpiry (agent : Nat)
  /-- WARP_RETIRE (R200): A warp with no lanes, fragments or outstanding operations retires, retiring its group when last. -/
  | warpRetire (agent : Nat)
  /-- FRAGMENT_START (R250): An export message reaches a narrow core and the fragment's first header may issue. -/
  | fragmentStart (frag : Nat)
  /-- PULL_REQUEST (R251): A fragment's pull request for an absent granule reaches the parent quadrant. -/
  | pullRequest (frag : Nat)
  /-- PULL_RESPONSE (R251): A pulled granule arrives at the narrow core and becomes clean. -/
  | pullResponse (frag : Nat)
  /-- PUSH (R252): A granule owed to a fragment is pushed before the parent overwrites it, then the parent's write may issue. -/
  | push (frag granule : Nat)
  /-- MERGE (R253): A fragment's merge of dirty granules and predicates is written into the parent and PEND falls. -/
  | merge (frag : Nat)
  /-- BARRIER_ARRIVAL (R257): A fragment's arrival message reaches the barrier unit and is counted. -/
  | barrierArrival (frag : Nat)
  /-- BARRIER_COMPLETION (R257): A barrier completion message reaches a waiting fragment, which becomes eligible. -/
  | barrierCompletion (frag : Nat)
  /-- FORWARDED_MATRIX_COMMAND (R219): A matrix command forwarded over the Saddle network enters the parent quadrant's MU queue. -/
  | forwardedMatrixCommand (cluster quad : Nat)
  /-- ENGINE_CHUNK (R324): At a chunk boundary the CE or SE selects and starts the next payable chunk, setting aside those it cannot pay. -/
  | engineChunk (cluster : Nat) (se : Bool)
  /-- ENGINE_COMMAND_COMPLETE (R177): An engine command finishes its accesses, posts, releases and signals its flag, recording any trap. -/
  | engineCommandComplete (cluster : Nat) (se : Bool) (cmd : Nat)
  /-- FOLLOW_ON_HANDOVER (R180): The CE hands a CPY's follow-on MMA to its MU once the queue has room, rechecking ring state. -/
  | followOnHandover (cluster cmd : Nat)
  /-- MU_COMMAND_START (R222): An MU command starts executing once earlier commands, its ring slot and its translations are ready. -/
  | muCommandStart (cluster quad : Nat)
  /-- MU_COMMAND_COMPLETE (R221): An MU command writes ACM, WB or group memory, performs its DONE and release and signals its flag. -/
  | muCommandComplete (cluster quad : Nat)
  /-- DOORBELL_WRITE (R338): A host write to a queue doorbell states the queue's tail. -/
  | doorbellWrite (q : QRef) (tail : Word)
  /-- LAUNCH_ACCEPT (R338): The device accepts the next launch record once written and its waits are satisfied, snapshotting or refusing it. -/
  | launchAccept (q : QRef)
  /-- GROUP_PLACE (R346): The distributor places the head unplaced group of a launch on a cluster where it fits. -/
  | groupPlace (launch : Nat)
  /-- LAUNCH_COMPLETE (R344): A finished launch writes STATUS and then its completion word in queue order. -/
  | launchComplete (q : QRef)
  /-- CTX_NEW (R370): Mailbox request creating a context. -/
  | ctxNew (f : Fn)
  /-- CTX_FREE (R370): Mailbox request freeing a context. -/
  | ctxFree (f : Fn)
  /-- Q_REG (R337): Mailbox request registering a queue from its descriptor. -/
  | qReg (f : Fn)
  /-- Q_UNREG (R369): Mailbox request unregistering a queue. -/
  | qUnreg (f : Fn)
  /-- EVQ_SET (R371): Mailbox request setting the VF's event queue. -/
  | evqSet (f : Fn)
  /-- CL_QRY (R373): Mailbox request returning a cluster's bank counts. -/
  | clQry (f : Fn)
  /-- VF_ENABLE (R382): PF request enabling a VF and generating its keys. -/
  | vfEnable (f : Fn)
  /-- VF_RESET (R387): PF request freeing every resource of a VF and retiring its key. -/
  | vfReset (f : Fn)
  /-- PART_SET (R372): PF request setting a VF's quadrants and banks on a cluster. -/
  | partSet (f : Fn)
  /-- PART_SET_HANDOVER (R372): Parts given up under PART.SET become idle and are handed over, clearing BUSY. -/
  | partSetHandover (f : Fn)
  /-- ALLOT (R317): PF request setting a VF's power allotment. -/
  | allot (f : Fn)
  /-- L2_SHARE (R378): PF request changing a VF's L2 slice list, starting quiesce and flush. -/
  | l2Share (f : Fn)
  /-- L2_SHARE_COMPLETE (R378): After the flush the new slice list takes effect, held accesses proceed and a SHARE event is posted. -/
  | l2ShareComplete (vf : Nat)
  /-- MEM_GRANT (R387): PF request granting extents to a VF with reset counters. -/
  | memGrant (f : Fn)
  /-- MEM_REVOKE (R387): PF request revoking a VF's extents. -/
  | memRevoke (f : Fn)
  /-- SLOT_SET (R392): PF request reading a slot table for a link, installed at the next frame. -/
  | slotSet (f : Fn)
  /-- WIN_NEW (R388): PF request making a window with its own key. -/
  | winNew (f : Fn)
  /-- WIN_ADD (R388): PF request adding a member to a window. -/
  | winAdd (f : Fn)
  /-- WIN_DEL (R390): PF request removing a window member. -/
  | winDel (f : Fn)
  /-- WIN_DEL_DRAINED (R390): The removed member's translated window accesses have been performed; BUSY clears and a WINDOW event is posted. -/
  | winDelDrained (window vf : Nat)
  /-- WIN_FREE (R390): PF request removing a window. -/
  | winFree (f : Fn)
  /-- PEER_MAP (R391): PF request binding a peer index to a peer device's window. -/
  | peerMap (f : Fn)
  /-- AMAX_SET (R369): PF request assigning an amax ring to a VF and clearing it. -/
  | amaxSet (f : Fn)
  /-- CL_SPLIT (R373): PF request setting a cluster's group-memory and L1 bank split. -/
  | clSplit (f : Fn)
  /-- MAILBOX_UNKNOWN (R369): A mailbox request with an unassigned code returns UNKNOWN. -/
  | mailboxUnknown (f : Fn)
  /-- HALT (R395): CTXCTL write requesting a context halt. -/
  | halt (vf ctx : Nat)
  /-- CONTEXT_HALTED (R398): Every slot has stopped and every command completed or held; ST becomes HALTED and MSI-X vector 2 is raised. -/
  | contextHalted (vf ctx : Nat)
  /-- RESUME (R395): CTXCTL write requesting resumption of a halted context. -/
  | resume (vf ctx : Nat)
  /-- AGENT_REPLACE (R406): A halted agent is placed again in its own units once free, restoring its state; ST returns to RUN when all are placed. -/
  | agentReplace (agent : Nat)
  /-- UNIT_CLAIM (R400): Another context claims a halted context's unit, whose contents are first spilt to the save area. -/
  | unitClaim (unit : UnitRef)
  /-- FILL_COMPLETE (R407): A fill of absent state on first use after resumption completes. -/
  | fillComplete (unit : UnitRef) (granule : Nat)
  /-- TRACK (R423): Migration op starting dirty tracking of a VF. -/
  | migTrack
  /-- EXPORT (R424): Migration op exporting dirty pages as encrypted records. -/
  | migExport
  /-- STOP (R425): Migration op halting the VF, spilling, exporting remaining pages and state. -/
  | migStop
  /-- IMPORT (R426): Migration op importing records on the destination. -/
  | migImport
  /-- START (R426): Migration op resuming the imported VF. -/
  | migStart
  /-- ABORT (R425): Migration op resuming the source VF and ending tracking. -/
  | migAbort
  /-- MIGRATION_UNKNOWN_OP (R423): A migration GO with an undefined OP returns UNKNOWN. -/
  | migrationUnknownOp (op : BitVec 4)
  /-- RECOVERY_LOAD (R418): RCVCTL GO loads and verifies an image from host memory, writing flash and resetting on success. -/
  | recoveryLoad
  /-- REGISTER_WRITE (R316): A write to a register with no behaviour of its own, such as LICCFG, LICINJ or a mailbox data register. -/
  | registerWrite (r : DevReg) (v : DWord)
  /-- SPDM_REQUEST (R419): An SPDM message on the PF DOE mailbox for attestation, dump reading or sessions. -/
  | spdmRequest (m : SpdmMsg)
  /-- ATS_COMPLETION (R351): An ATS translation completion arrives and is cached, or marks the page not present or failed. -/
  | atsCompletion (vf pasid page : Nat) (ans : AtsAnswer)
  /-- PAGE_REQUEST_SEND (R353): A queued page request group is sent once the VF's limits allow. -/
  | pageRequestSend (vf : Nat)
  /-- PRG_RESPONSE_SUCCESS (R355): A Success PRG Response causes retranslation and resumes waiting events. -/
  | prgResponseSuccess (vf prgi : Nat)
  /-- PRG_RESPONSE_INVALID (R355): An Invalid Request response fails every event waiting on the group. -/
  | prgResponseInvalid (vf prgi : Nat)
  /-- PRG_RESPONSE_FAILURE (R355): A Response Failure fails every group of the VF and stops its page requests. -/
  | prgResponseFailure (vf prgi : Nat)
  /-- PRI_ENABLE (R355): The host clears and sets PRI Enable, letting the VF send page requests again. -/
  | priEnable (vf : Nat)
  /-- INVALIDATION_REQUEST (R360): An ATS invalidation arrives, removing overlapping entries and poisoning outstanding requests. -/
  | invalidationRequest (vf : Nat) (pasid : Option Nat) (base size : Nat)
  /-- INVALIDATION_COMPLETION (R360): Once uses of removed entries have drained, the invalidation completion is sent and poisoned requests resent. -/
  | invalidationCompletion (vf tag : Nat)
  /-- HOST_BAR_ACCESS (R288): A host access to device memory through the BAR. -/
  | hostBarAccess (acc : BarAccess)
  /-- RELEASE_PACKET (R295): A release packet reaches a task record's basin and moves or clears the record. -/
  | releasePacket (cluster : Nat)
  /-- NEW_TASK_PACKET (R298): A RENQ new-task packet is accepted into a free record, forwarded or refused. -/
  | newTaskPacket (cluster : Nat)
  /-- PACKET_SEND (R297): A remote-enqueue packet leaves its sender once it holds a credit. -/
  | packetSend (place : Nat)
  /-- BIN_GATHER (R300): Each cycle the dispatcher moves deque heads into bins, closing a bin at 32 tasks or GW 0. -/
  | binGather (cluster core : Nat)
  /-- BIN_CLOSE (R300): A bin's gather window expires and it becomes a pending wave. -/
  | binClose (cluster core bin : Nat)
  /-- WAVE_DISPATCH (R302): The dispatcher dispatches a pending wave that fits, under skip-and-drain. -/
  | waveDispatch (cluster core : Nat)
  /-- STEAL_REQUEST (R304): A cluster idle for a VF for 64 cycles sends a steal request. -/
  | stealRequest (cluster vf : Nat)
  /-- STEAL_DONATION (R304): A victim answers a steal request, donating READY records to the thief. -/
  | stealDonation (victim thief vf : Nat)
  /-- TASK_COMMIT (R305): A task's commit performs its release and buffered entries in order, then frees the record. -/
  | taskCommit (cluster record : Nat)
  /-- LAP_START (R315): At stop 0 a licence flit's tokens expire, its reservations carry over and INJ tokens are injected. -/
  | lapStart (chiplet : Nat)
  /-- FLIT_PASS (R319): A partition's flit passes a stop and its quadrants draw tokens into their purses. -/
  | flitPass (chiplet vf stop : Nat)
  /-- SLOPE_WINDOW_END (R325): A 256-cycle window ends, setting the spend floor that schedules fillers. -/
  | slopeWindowEnd (chiplet : Nat)
  /-- SLOT_OPEN (R394): A link slot opens when the time base reaches its boundary, installing any new table at a frame boundary. -/
  | slotOpen (slot : Nat)
  /-- VF_TIME_JOURNAL (R427): Dale journals each enabled VF's time at least once every 2^20 mesh cycles. -/
  | vfTimeJournal
  /-- VOTE_CHANGE (R412): A partition's frequency vote changes; a raise steps voltage then frequency. -/
  | voteChange (chiplet vf : Nat) (level : Option Nat)
  /-- FREQ_HOLD_EXPIRY (R413): The 100 us hold after a vote falls expires and the clock steps down. -/
  | freqHoldExpiry (chiplet : Nat)
  /-- CHIPLET_THERMAL_LIMIT (R414): A compute chiplet crosses 105 or 100 degrees and is forced to or released from 0.60 GHz. -/
  | chipletThermalLimit (chiplet tenths : Nat)
  /-- HBM_THERMAL_CHANGE (R415): A stack crosses a temperature threshold, changing its limits and posting BWDEG. -/
  | hbmThermalChange (stack tenths : Nat)
  /-- SINGLE_PART_FAULT (R422): A cluster, compute chiplet or Pass link fails; Dale fences it and rebuilds work from the journal. -/
  | singlePartFault (part : Part)
  /-- FATAL_ERROR (R420): A fatal error makes the device unavailable, writes the dump and resets warm. -/
  | fatalError
  /-- WARM_RESET (R428): A warm reset brings the device up, replaying the journal. -/
  | warmReset
  /-- POWER_ON (R428): Power-on verifies firmware, trains links and starts the time base; trained says whether the UCIe seam and the HBM stacks answer (R420). -/
  | powerOn (trained : Bool)
  /-- FRAGMENT_EXIT_MESSAGE (R257): A fragment's message about a lane's EXIT reaches the barrier unit, lowers E, withdraws any arrival the lane holds, and may complete a generation. -/
  | fragmentExitMessage (frag : Nat)
  /-- FREQUENCY_STEP (R413): After a raised vote, the rail voltage finishes rising and the chiplet's arithmetic clock steps to the new level, within 20 us of the vote. -/
  | frequencyStep (chiplet : Nat)
  /-- POWER_LOSS (R422): Power is removed from the device, retiring every key so that neither memory contents nor the journal guarantee survives. -/
  | powerLoss
  /-- PEER_WINDOW_ACCESS (R281): A CPY access from another device arrives over a Pass link and is performed as a strong .sys access on a local window under its key. -/
  | peerWindowAccess (window : Nat) (acc : PeerAccess)
  /-- PEER_DALE_MESSAGE (R391): A message from a peer device's Dale arrives over the SPDM session, agreeing or refusing a PEER.MAP binding or a link key. -/
  | peerDaleMessage (m : PeerMsg)
  deriving DecidableEq, Repr

end Sys2Proof
end

