-- ==== Sys2Proof/Decode.lean ====
section
/-! DEFINITION. Decoding of parcels to instructions (R71, R74, R83, R91, R92, R95), total, with no value for an encoding that is no instruction; and the encoder, written from the same formats. -/

namespace Sys2Proof

/-- Bits hi to lo of a parcel. -/
abbrev bitsOf (w : Word) (lo n : Nat) : BitVec n := w.extractLsb' lo n

/-- The kind of a parcel that begins an instruction or a header (R71). -/
def kindOf (p : Word) : BitVec 2 := bitsOf p 0 2

/-- Number of parcels by kind: S and H one, M two, L three (R71). -/
def lengthOf (p : Word) : Nat :=
  if kindOf p = 1#2 then 2 else if kindOf p = 2#2 then 3 else 1

/-- An operand field read with its kind (R83, R84). -/
def srcOf (k : BitVec 2) (n : BitVec 8) : Src :=
  if k = 0#2 then .vec n else if k = 1#2 then .scal n else if k = 2#2 then .imm n else .spec n

/-- The kind bits of a source operand (R83). -/
def Src.kind : Src → BitVec 2
  | .vec _ => 0#2 | .scal _ => 1#2 | .imm _ => 2#2 | .spec _ => 3#2

/-- The field of a source operand. -/
def Src.field : Src → BitVec 8
  | .vec n => n | .scal n => n | .imm n => n | .spec n => n

/-- The fields of an M or L instruction (R83). -/
def fieldsOf (p0 p1 : Word) (lit : Option Word) : MOps :=
  { g := ⟨bitsOf p0 10 3, (bitsOf p0 13 1) = 1#1⟩
    stall := bitsOf p1 28 2
    fs := (bitsOf p1 30 1) = 1#1
    mod := bitsOf p1 20 8
    d := bitsOf p0 14 8
    kd := (bitsOf p1 19 1) = 1#1
    a := srcOf (bitsOf p1 14 2) (bitsOf p0 22 8)
    b := srcOf (bitsOf p1 16 2) (bitsOf p1 0 6 ++ bitsOf p0 30 2)
    c := bitsOf p1 6 8
    kc := (bitsOf p1 18 1) = 1#1
    lit := lit }

/-- The five operations of AMAX, selected by the immediate B (R136). -/
def amaxOf (o : MOps) : Option Instr :=
  match o.b with
  | .imm n =>
    if n = 0#8 then some (.amaxRd o) else if n = 1#8 then some (.amaxRec o)
    else if n = 2#8 then some (.amaxAdv o) else if n = 3#8 then some (.amaxClr o)
    else if n = 4#8 then some (.amaxScl o) else none
  | _ => none

/-- CALL: the L form, or with MOD bit 0 the M form CALL.R (R198). -/
def callOf (o : MOps) : Option Instr :=
  match o.lit with
  | some _ => some (.call o)
  | none => if o.mod.getLsbD 0 then some (.callR o) else none

/-- TABORT and, with MOD bit 0, TABORT.DROP (R204). -/
def tabortOf (o : MOps) : Option Instr :=
  if o.mod.getLsbD 0 then some (.tabortDrop o) else some (.tabort o)

/-- A row of the opcode map: major opcode, whether it has an M form and an L form (R91, R113), whether it is long-latency (R89), and its instruction. -/
structure MajorRow where
  op : Nat
  m  : Bool
  l  : Bool
  ll : Bool
  instr : MOps → Option Instr

/-- Opcodes 0x00 to 0x0F (R95). -/
def major0 : List MajorRow := [
  ⟨0x00, true, true, false, (fun o => some (.addInt o))⟩,
  ⟨0x01, true, true, false, (fun o => some (.subInt o))⟩,
  ⟨0x02, true, true, false, (fun o => some (.mulInt o))⟩,
  ⟨0x03, true, true, false, (fun o => some (.mulhi o))⟩,
  ⟨0x04, true, true, false, (fun o => some (.mad o))⟩,
  ⟨0x05, true, true, false, (fun o => some (.madhi o))⟩,
  ⟨0x06, true, true, false, (fun o => some (.divInt o))⟩,
  ⟨0x07, true, true, false, (fun o => some (.rem o))⟩,
  ⟨0x08, true, true, false, (fun o => some (.minInt o))⟩,
  ⟨0x09, true, true, false, (fun o => some (.maxInt o))⟩,
  ⟨0x0A, true, false, false, (fun o => some (.absInt o))⟩,
  ⟨0x0B, true, false, false, (fun o => some (.negInt o))⟩,
  ⟨0x0C, true, true, false, (fun o => some (.sad o))⟩,
  ⟨0x0D, true, true, false, (fun o => some (.dp4 o))⟩,
  ⟨0x0E, true, true, false, (fun o => some (.dp2 o))⟩,
  ⟨0x0F, true, true, false, (fun o => some (.lea o))⟩]

/-- Opcodes 0x10 to 0x1F (R95). -/
def major1 : List MajorRow := [
  ⟨0x10, true, true, false, (fun o => some (.andB o))⟩,
  ⟨0x11, true, true, false, (fun o => some (.orB o))⟩,
  ⟨0x12, true, true, false, (fun o => some (.xor o))⟩,
  ⟨0x13, true, false, false, (fun o => some (.notB o))⟩,
  ⟨0x14, true, true, false, (fun o => some (.andn o))⟩,
  ⟨0x15, true, true, false, (fun o => some (.bitf o))⟩,
  ⟨0x16, true, true, false, (fun o => some (.shl o))⟩,
  ⟨0x17, true, true, false, (fun o => some (.shr o))⟩,
  ⟨0x18, true, true, false, (fun o => some (.shf o))⟩,
  ⟨0x19, true, true, false, (fun o => some (.rot o))⟩,
  ⟨0x1A, true, false, false, (fun o => some (.popc o))⟩,
  ⟨0x1B, true, false, false, (fun o => some (.clz o))⟩,
  ⟨0x1C, true, false, false, (fun o => some (.brev o))⟩,
  ⟨0x1D, true, true, false, (fun o => some (.bfe o))⟩,
  ⟨0x1E, true, true, false, (fun o => some (.bfi o))⟩,
  ⟨0x1F, true, true, false, (fun o => some (.prmb o))⟩]

/-- Opcodes 0x20 to 0x2F (R95). -/
def major2 : List MajorRow := [
  ⟨0x20, true, true, false, (fun o => some (.addFp o))⟩,
  ⟨0x21, true, true, false, (fun o => some (.subFp o))⟩,
  ⟨0x22, true, true, false, (fun o => some (.mulFp o))⟩,
  ⟨0x23, true, true, false, (fun o => some (.fmaFp o))⟩,
  ⟨0x24, true, true, false, (fun o => some (.divFp o))⟩,
  ⟨0x25, true, true, false, (fun o => some (.minFp o))⟩,
  ⟨0x26, true, true, false, (fun o => some (.maxFp o))⟩,
  ⟨0x27, true, false, false, (fun o => some (.absFp o))⟩,
  ⟨0x28, true, false, false, (fun o => some (.negFp o))⟩,
  ⟨0x29, true, false, false, (fun o => some (.frc o))⟩,
  ⟨0x2A, true, false, false, (fun o => some (.rndi o))⟩,
  ⟨0x2B, true, true, false, (fun o => some (.scalb o))⟩,
  ⟨0x2C, true, false, false, (fun o => some (.getexp o))⟩,
  ⟨0x2D, true, false, false, (fun o => some (.getman o))⟩,
  ⟨0x2E, true, true, false, (fun o => some (.clampFp o))⟩]

/-- Opcodes 0x30 to 0x3F (R95). -/
def major3 : List MajorRow := [
  ⟨0x30, true, true, false, (fun o => some (.addPacked o))⟩,
  ⟨0x31, true, true, false, (fun o => some (.subPacked o))⟩,
  ⟨0x32, true, true, false, (fun o => some (.mulPacked o))⟩,
  ⟨0x33, true, true, false, (fun o => some (.fmaPacked o))⟩,
  ⟨0x34, true, true, false, (fun o => some (.minPacked o))⟩,
  ⟨0x35, true, true, false, (fun o => some (.maxPacked o))⟩,
  ⟨0x36, true, false, false, (fun o => some (.absPacked o))⟩,
  ⟨0x37, true, false, false, (fun o => some (.negPacked o))⟩,
  ⟨0x38, true, true, false, (fun o => some (.dot2 o))⟩,
  ⟨0x39, true, true, false, (fun o => some (.clampPacked o))⟩]

/-- Opcodes 0x40 to 0x4F (R95). -/
def major4 : List MajorRow := [
  ⟨0x40, true, false, false, (fun o => some (.cvt o))⟩,
  ⟨0x41, true, true, false, (fun o => some (.cvtQ o))⟩,
  ⟨0x42, true, true, false, (fun o => some (.pack o))⟩,
  ⟨0x43, true, true, false, (fun o => some (.unpack o))⟩,
  ⟨0x44, true, false, false, (fun o => some (.ex2 o))⟩,
  ⟨0x45, true, false, false, (fun o => some (.lg2 o))⟩,
  ⟨0x46, true, false, false, (fun o => some (.rcp o))⟩,
  ⟨0x47, true, false, false, (fun o => some (.rsq o))⟩,
  ⟨0x48, true, false, false, (fun o => some (.sqrt o))⟩,
  ⟨0x49, true, false, false, (fun o => some (.sinPi o))⟩,
  ⟨0x4A, true, false, false, (fun o => some (.cosPi o))⟩,
  ⟨0x4B, true, false, false, (fun o => some (.tanh o))⟩,
  ⟨0x4C, true, false, false, (fun o => some (.sigm o))⟩,
  ⟨0x4D, true, false, false, (fun o => some (.erf o))⟩,
  ⟨0x4E, true, false, false, amaxOf⟩]

/-- Opcodes 0x50 to 0x5F (R95). -/
def major5 : List MajorRow := [
  ⟨0x50, true, false, false, (fun o => some (.xlane o))⟩,
  ⟨0x51, true, false, false, (fun o => some (.pcomb o))⟩,
  ⟨0x52, true, false, false, (fun o => some (.eqset o))⟩,
  ⟨0x53, true, false, false, (fun o => some (.red o))⟩,
  ⟨0x54, true, false, false, (fun o => some (.scan o))⟩,
  ⟨0x55, true, false, false, (fun o => some (.first o))⟩,
  ⟨0x56, true, false, false, (fun o => some (.spread o))⟩]

/-- Opcodes 0x60 to 0x6F (R95). -/
def major6 : List MajorRow := [
  ⟨0x60, true, true, false, (fun o => some (.sadd o))⟩,
  ⟨0x61, true, true, false, (fun o => some (.ssub o))⟩,
  ⟨0x62, true, true, false, (fun o => some (.smul o))⟩,
  ⟨0x63, true, true, false, (fun o => some (.sand o))⟩,
  ⟨0x64, true, true, false, (fun o => some (.sor o))⟩,
  ⟨0x65, true, true, false, (fun o => some (.sxor o))⟩,
  ⟨0x66, true, true, false, (fun o => some (.sshl o))⟩,
  ⟨0x67, true, true, false, (fun o => some (.sshr o))⟩,
  ⟨0x68, true, true, false, (fun o => some (.smov o))⟩,
  ⟨0x69, true, true, false, (fun o => some (.scmp o))⟩,
  ⟨0x6A, true, true, false, (fun o => some (.ssel o))⟩,
  ⟨0x6B, true, true, true, (fun o => some (.sld o))⟩,
  ⟨0x6C, true, true, false, (fun o => some (.smin o))⟩,
  ⟨0x6D, true, true, false, (fun o => some (.smax o))⟩,
  ⟨0x6E, true, true, false, (fun o => some (.rdlane o))⟩,
  ⟨0x6F, true, false, false, (fun o => some (.spopc o))⟩]

/-- Opcodes 0x70 to 0x7F (R95). -/
def major7 : List MajorRow := [
  ⟨0x70, true, true, false, (fun o => some (.setp o))⟩,
  ⟨0x71, true, true, false, (fun o => some (.sel o))⟩,
  ⟨0x72, true, false, false, (fun o => some (.plop o))⟩,
  ⟨0x73, true, false, false, (fun o => some (.prd o))⟩,
  ⟨0x74, true, true, false, (fun o => some (.pwr o))⟩,
  ⟨0x75, true, true, false, (fun o => some (.mov o))⟩,
  ⟨0x76, true, true, false, (fun o => some (.class o))⟩]

/-- Opcodes 0x80 to 0x8F (R95). -/
def major8 : List MajorRow := [
  ⟨0x80, true, true, true, (fun o => some (.ldB32 o))⟩,
  ⟨0x81, true, true, true, (fun o => some (.ldB64 o))⟩,
  ⟨0x82, true, true, true, (fun o => some (.ldB128 o))⟩,
  ⟨0x83, true, true, true, (fun o => some (.ldN8 o))⟩,
  ⟨0x84, true, true, true, (fun o => some (.ldI8 o))⟩,
  ⟨0x85, true, true, true, (fun o => some (.ldN16 o))⟩,
  ⟨0x86, true, true, true, (fun o => some (.ldI16 o))⟩,
  ⟨0x87, true, true, true, (fun o => some (.stB8 o))⟩,
  ⟨0x88, true, true, true, (fun o => some (.stB16 o))⟩,
  ⟨0x89, true, true, true, (fun o => some (.stB32 o))⟩,
  ⟨0x8A, true, true, true, (fun o => some (.stB64 o))⟩,
  ⟨0x8B, true, true, true, (fun o => some (.stB128 o))⟩,
  ⟨0x8C, true, true, true, (fun o => some (.prf o))⟩]

/-- Opcodes 0x90 to 0x9F (R95). -/
def major9 : List MajorRow := [
  ⟨0x90, true, true, false, (fun o => some (.ldGm o))⟩,
  ⟨0x91, true, true, false, (fun o => some (.stGm o))⟩,
  ⟨0x92, true, false, false, (fun o => some (.ldl o))⟩,
  ⟨0x93, true, false, false, (fun o => some (.stl o))⟩,
  ⟨0x94, true, true, false, (fun o => some (.ringOpen o))⟩,
  ⟨0x95, true, false, false, (fun o => some (.ringClose o))⟩,
  ⟨0x96, true, false, false, (fun o => some (.ringRsv o))⟩,
  ⟨0x97, true, false, false, (fun o => some (.ringPost o))⟩,
  ⟨0x98, true, false, false, (fun o => some (.ringTake o))⟩,
  ⟨0x99, true, false, false, (fun o => some (.ringDone o))⟩,
  ⟨0x9A, true, false, false, (fun o => some (.ringQry o))⟩]

/-- Opcodes 0xA0 to 0xAF (R95). -/
def majorA : List MajorRow := [
  ⟨0xA0, true, true, true, (fun o => some (.atomAddInt o))⟩,
  ⟨0xA1, true, true, true, (fun o => some (.atomAddFp o))⟩,
  ⟨0xA2, true, true, true, (fun o => some (.atomMinI o))⟩,
  ⟨0xA3, true, true, true, (fun o => some (.atomMinN o))⟩,
  ⟨0xA4, true, true, true, (fun o => some (.atomMaxI o))⟩,
  ⟨0xA5, true, true, true, (fun o => some (.atomMaxN o))⟩,
  ⟨0xA6, true, true, true, (fun o => some (.atomAnd o))⟩,
  ⟨0xA7, true, true, true, (fun o => some (.atomOr o))⟩,
  ⟨0xA8, true, true, true, (fun o => some (.atomXor o))⟩,
  ⟨0xA9, true, true, true, (fun o => some (.atomXchg o))⟩,
  ⟨0xAA, true, true, true, (fun o => some (.atomCas o))⟩,
  ⟨0xAB, true, true, true, (fun o => some (.atomInc o))⟩,
  ⟨0xAC, true, true, true, (fun o => some (.atomDec o))⟩,
  ⟨0xAD, true, false, false, (fun o => some (.fence o))⟩,
  ⟨0xAE, true, false, false, (fun o => some (.bar o))⟩,
  ⟨0xAF, true, false, false, (fun o => some (.barArv o))⟩]

/-- Opcodes 0xB0 to 0xBF (R95). -/
def majorB : List MajorRow := [
  ⟨0xB0, true, false, true, (fun o => some (.cpy o))⟩,
  ⟨0xB1, true, false, true, (fun o => some (.gath o))⟩,
  ⟨0xB2, true, false, true, (fun o => some (.scat o))⟩,
  ⟨0xB3, true, false, true, (fun o => some (.sisect o))⟩,
  ⟨0xB4, true, false, true, (fun o => some (.smerge o))⟩,
  ⟨0xB5, true, true, true, (fun o => some (.winPub o))⟩,
  ⟨0xB6, true, true, true, (fun o => some (.cbInval o))⟩]

/-- Opcodes 0xC0 to 0xCF (R95). -/
def majorC : List MajorRow := [
  ⟨0xC0, true, false, true, (fun o => some (.mma o))⟩,
  ⟨0xC1, true, false, true, (fun o => some (.mmaX64 o))⟩,
  ⟨0xC2, true, false, true, (fun o => some (.wbLd o))⟩,
  ⟨0xC3, true, true, true, (fun o => some (.accRd o))⟩,
  ⟨0xC4, true, true, true, (fun o => some (.accWr o))⟩,
  ⟨0xC5, true, true, true, (fun o => some (.accZero o))⟩,
  ⟨0xC6, true, false, true, (fun o => some (.muFence o))⟩]

/-- Opcodes 0xD0 to 0xDF (R95). -/
def majorD : List MajorRow := [
  ⟨0xD0, false, true, false, (fun o => some (.bra o))⟩,
  ⟨0xD1, false, true, false, (fun o => some (.jmp o))⟩,
  ⟨0xD2, true, false, false, (fun o => some (.brx o))⟩,
  ⟨0xD3, true, true, false, callOf⟩,
  ⟨0xD4, true, false, false, (fun o => some (.ret o))⟩,
  ⟨0xD5, true, false, false, (fun o => some (.join o))⟩,
  ⟨0xD6, true, false, false, (fun o => some (.exit o))⟩,
  ⟨0xD7, true, false, false, (fun o => some (.yield o))⟩,
  ⟨0xD8, false, true, false, (fun o => some (.region o))⟩]

/-- Opcodes 0xE0 to 0xEF (R95). -/
def majorE : List MajorRow := [
  ⟨0xE0, true, true, false, (fun o => some (.fork o))⟩,
  ⟨0xE1, true, true, false, (fun o => some (.spawn o))⟩,
  ⟨0xE2, true, true, false, (fun o => some (.spawnSpec o))⟩,
  ⟨0xE3, true, true, true, (fun o => some (.depDec o))⟩,
  ⟨0xE4, true, true, true, (fun o => some (.depAdd o))⟩,
  ⟨0xE5, true, false, false, (fun o => some (.tend o))⟩,
  ⟨0xE6, true, false, false, tabortOf⟩,
  ⟨0xE7, true, true, true, (fun o => some (.renq o))⟩]

/-- Opcodes 0xF0 to 0xFF (R95). -/
def majorF : List MajorRow := [
  ⟨0xF0, true, false, false, (fun o => some (.sysrd o))⟩,
  ⟨0xF1, true, true, false, (fun o => some (.syswr o))⟩,
  ⟨0xF2, true, false, false, (fun o => some (.trap o))⟩,
  ⟨0xF3, true, false, false, (fun o => some (.tret o))⟩,
  ⟨0xF4, true, false, false, (fun o => some (.bkpt o))⟩,
  ⟨0xF5, true, false, false, (fun o => some (.nop o))⟩,
  ⟨0xF6, true, false, false, (fun o => some (.pmcrd o))⟩,
  ⟨0xF7, true, true, false, (fun o => some (.sleep o))⟩]

/-- The opcode map (R95). -/
def majorTable : List MajorRow :=
  major0 ++ major1 ++ major2 ++ major3 ++ major4 ++ major5 ++ major6 ++ major7 ++ major8 ++ major9 ++ majorA ++ majorB ++ majorC ++ majorD ++ majorE ++ majorF

/-- The row of an opcode; none when it is unassigned. -/
def majorRow (op : Nat) : Option MajorRow := majorTable.find? (fun r => r.op == op)

/-- The opcode field of a parcel. -/
def opcodeOf (p0 : Word) : Nat := (bitsOf p0 2 8).toNat

/-- An M or L instruction (R83, R91): none for an unassigned opcode, a form the opcode lacks, or an LL bit that differs from R89. -/
def decodeMajor (p0 p1 : Word) (lit : Option Word) : Option Instr :=
  match majorRow (opcodeOf p0) with
  | none => none
  | some r =>
    if (match lit with | none => r.m | some _ => r.l) && (decide ((bitsOf p1 31 1) = 1#1) == r.ll) then
      r.instr (fieldsOf p0 p1 lit)
    else none

/-- The fields of an S instruction (R92). -/
def shortFields (p : Word) : SOps :=
  { g := ⟨bitsOf p 8 3, (bitsOf p 11 1) = 1#1⟩
    d := bitsOf p 12 8
    a := bitsOf p 20 8
    i4 := bitsOf p 28 4 }

/-- A short instruction by its short opcode (R93, R94): none for a reserved one, for a JMP.S with a guard, and for a required-zero field that is not zero. -/
def decodeShort (p : Word) : Option Instr :=
  let o := shortFields p
  let z := o.i4 = 0#4
  let za := o.a = 0#8
  let zd := o.d = 0#8
  match (bitsOf p 2 6).toNat with
  | 0x00 => if zd ∧ za ∧ z then some (.nopS o) else none
  | 0x01 => if z then some (.movSVector o) else none
  | 0x02 => if z then some (.movSScalar o) else none
  | 0x03 => if z then some (.smovS o) else none
  | 0x04 => if za then some (.movSImm o) else none
  | 0x05 => if za then some (.smovSImm o) else none
  | 0x06 => some (.addI32SImm o)
  | 0x07 => some (.saddI32SImm o)
  | 0x08 => some (.shlB32S o)
  | 0x09 => some (.shrN32S o)
  | 0x0A => some (.shrI32S o)
  | 0x0B => if z then some (.addI32S o) else none
  | 0x0C => if z then some (.subI32S o) else none
  | 0x0D => if z then some (.andB32S o) else none
  | 0x0E => if z then some (.orB32S o) else none
  | 0x0F => if z then some (.xorB32S o) else none
  | 0x10 => if z then some (.addF32S o) else none
  | 0x11 => if z then some (.mulF32S o) else none
  | 0x12 => if z then some (.movSSpecial o) else none
  | 0x13 => if z then some (.smovSSpecial o) else none
  | 0x14 => if zd ∧ za ∧ z then some (.yieldS o) else none
  | 0x15 => if zd ∧ za ∧ z then some (.exitS o) else none
  | 0x16 => if zd ∧ za ∧ z then some (.retS o) else none
  | 0x17 => if o.g = ⟨0#3, false⟩ then some (.jmpS (bitsOf p 12 20)) else none
  | 0x18 => if zd ∧ za ∧ z then some (.bkptS o) else none
  | _ => none

/-- The instruction in a body position (R97): a header there is none. -/
def decodeBody (p0 p1 p2 : Word) : Option Instr :=
  if kindOf p0 = 0#2 then decodeShort p0
  else if kindOf p0 = 1#2 then decodeMajor p0 p1 none
  else if kindOf p0 = 2#2 then decodeMajor p0 p1 (some p2)
  else none

/-- The header at a header position (R74): none for another kind, or reserved bits not zero (R75). -/
def decodeHeader (p : Word) : Option Instr :=
  if kindOf p = 3#2 ∧ bitsOf p 28 4 = 0#4 then
    some (.clause ⟨(bitsOf p 27 1) = 1#1, bitsOf p 22 5, bitsOf p 18 4, bitsOf p 14 4, bitsOf p 2 12⟩)
  else none

/-- A parcel as four bytes, the lowest address first (R71). -/
def parcelBytes (w : Word) : List Byte :=
  [w.extractLsb' 0 8, w.extractLsb' 8 8, w.extractLsb' 16 8, w.extractLsb' 24 8]

/-- The parcel in four bytes, the lowest address first (R71). -/
def parcelOf (b0 b1 b2 b3 : Byte) : Word := b3 ++ b2 ++ b1 ++ b0

/-- The parcels of a string of bytes; a rest shorter than a parcel is dropped. -/
def parcelsOf : List Byte → List Word
  | b0 :: b1 :: b2 :: b3 :: r => parcelOf b0 b1 b2 b3 :: parcelsOf r
  | _ => []

/-- Decoding of parcels: a first parcel of kind H stands at a header position, any other in a body. The parcels an instruction lacks are read as zero. -/
def decodeWords (ps : List Word) : Option Instr :=
  match ps with
  | [] => none
  | p0 :: r => if kindOf p0 = 3#2 then decodeHeader p0 else decodeBody p0 (r.headD 0) (r.tail.headD 0)

/-- Decoding of bytes as they stand in code memory. -/
def decodeBytes (bs : List Byte) : Option Instr := decodeWords (parcelsOf bs)

/-- The parcel k of a number whose low bits are the first parcel. -/
def parcelAt (nbits w k : Nat) : Word := BitVec.ofNat 32 ((w % 2 ^ nbits) / 2 ^ (32 * k))

/-- The instruction the decoder reads from an instruction whose bits are w, the first parcel lowest, every bit above nbits zero. -/
def decodeTableWord (nbits w : Nat) : Option Instr :=
  decodeBytes (parcelBytes (parcelAt nbits w 0) ++ parcelBytes (parcelAt nbits w 1) ++ parcelBytes (parcelAt nbits w 2))

/-- The first parcel of an M or L instruction (R83). -/
def encodeP0 (op : Nat) (o : MOps) : Word :=
  o.b.field.extractLsb' 0 2 ++ o.a.field ++ o.d ++ BitVec.ofBool o.g.neg ++ o.g.pred ++ BitVec.ofNat 8 op
    ++ (if o.lit.isSome then 2#2 else 1#2)

/-- The second parcel of an M or L instruction (R83). -/
def encodeP1 (ll : Bool) (o : MOps) : Word :=
  BitVec.ofBool ll ++ BitVec.ofBool o.fs ++ o.stall ++ o.mod ++ BitVec.ofBool o.kd ++ BitVec.ofBool o.kc ++ o.b.kind ++ o.a.kind
    ++ o.c ++ o.b.field.extractLsb' 2 6

/-- The parcels of an M or L instruction. -/
def encodeMajor (op : Nat) (ll : Bool) (o : MOps) : List Word :=
  encodeP0 op o :: encodeP1 ll o :: o.lit.toList

/-- The parcel of an S instruction (R92). -/
def encodeShort (sop : BitVec 6) (o : SOps) : List Word :=
  [o.i4 ++ o.a ++ o.d ++ BitVec.ofBool o.g.neg ++ o.g.pred ++ sop ++ 0#2]

/-- The parcel of a clause header (R74). -/
def encodeHeader (h : ClauseHdr) : List Word :=
  [0#4 ++ BitVec.ofBool h.yld ++ h.len ++ h.fy ++ h.fx ++ h.wait ++ 3#2]

/-- The parcels of an instruction, from R74, R83, R91, R92 and R95; a device step has none. -/
def encode : Instr → List Word
  | .clause h => encodeHeader h
  | .addInt o => encodeMajor 0x00 false o
  | .subInt o => encodeMajor 0x01 false o
  | .mulInt o => encodeMajor 0x02 false o
  | .mulhi o => encodeMajor 0x03 false o
  | .mad o => encodeMajor 0x04 false o
  | .madhi o => encodeMajor 0x05 false o
  | .divInt o => encodeMajor 0x06 false o
  | .rem o => encodeMajor 0x07 false o
  | .minInt o => encodeMajor 0x08 false o
  | .maxInt o => encodeMajor 0x09 false o
  | .absInt o => encodeMajor 0x0A false o
  | .negInt o => encodeMajor 0x0B false o
  | .sad o => encodeMajor 0x0C false o
  | .dp4 o => encodeMajor 0x0D false o
  | .dp2 o => encodeMajor 0x0E false o
  | .lea o => encodeMajor 0x0F false o
  | .andB o => encodeMajor 0x10 false o
  | .orB o => encodeMajor 0x11 false o
  | .xor o => encodeMajor 0x12 false o
  | .notB o => encodeMajor 0x13 false o
  | .andn o => encodeMajor 0x14 false o
  | .bitf o => encodeMajor 0x15 false o
  | .shl o => encodeMajor 0x16 false o
  | .shr o => encodeMajor 0x17 false o
  | .shf o => encodeMajor 0x18 false o
  | .rot o => encodeMajor 0x19 false o
  | .popc o => encodeMajor 0x1A false o
  | .clz o => encodeMajor 0x1B false o
  | .brev o => encodeMajor 0x1C false o
  | .bfe o => encodeMajor 0x1D false o
  | .bfi o => encodeMajor 0x1E false o
  | .prmb o => encodeMajor 0x1F false o
  | .addFp o => encodeMajor 0x20 false o
  | .subFp o => encodeMajor 0x21 false o
  | .mulFp o => encodeMajor 0x22 false o
  | .fmaFp o => encodeMajor 0x23 false o
  | .divFp o => encodeMajor 0x24 false o
  | .minFp o => encodeMajor 0x25 false o
  | .maxFp o => encodeMajor 0x26 false o
  | .absFp o => encodeMajor 0x27 false o
  | .negFp o => encodeMajor 0x28 false o
  | .frc o => encodeMajor 0x29 false o
  | .rndi o => encodeMajor 0x2A false o
  | .scalb o => encodeMajor 0x2B false o
  | .getexp o => encodeMajor 0x2C false o
  | .getman o => encodeMajor 0x2D false o
  | .clampFp o => encodeMajor 0x2E false o
  | .addPacked o => encodeMajor 0x30 false o
  | .subPacked o => encodeMajor 0x31 false o
  | .mulPacked o => encodeMajor 0x32 false o
  | .fmaPacked o => encodeMajor 0x33 false o
  | .minPacked o => encodeMajor 0x34 false o
  | .maxPacked o => encodeMajor 0x35 false o
  | .absPacked o => encodeMajor 0x36 false o
  | .negPacked o => encodeMajor 0x37 false o
  | .dot2 o => encodeMajor 0x38 false o
  | .clampPacked o => encodeMajor 0x39 false o
  | .cvt o => encodeMajor 0x40 false o
  | .cvtQ o => encodeMajor 0x41 false o
  | .pack o => encodeMajor 0x42 false o
  | .unpack o => encodeMajor 0x43 false o
  | .ex2 o => encodeMajor 0x44 false o
  | .lg2 o => encodeMajor 0x45 false o
  | .rcp o => encodeMajor 0x46 false o
  | .rsq o => encodeMajor 0x47 false o
  | .sqrt o => encodeMajor 0x48 false o
  | .sinPi o => encodeMajor 0x49 false o
  | .cosPi o => encodeMajor 0x4A false o
  | .tanh o => encodeMajor 0x4B false o
  | .sigm o => encodeMajor 0x4C false o
  | .erf o => encodeMajor 0x4D false o
  | .amaxRd o => encodeMajor 0x4E false o
  | .amaxRec o => encodeMajor 0x4E false o
  | .amaxAdv o => encodeMajor 0x4E false o
  | .amaxClr o => encodeMajor 0x4E false o
  | .amaxScl o => encodeMajor 0x4E false o
  | .xlane o => encodeMajor 0x50 false o
  | .pcomb o => encodeMajor 0x51 false o
  | .eqset o => encodeMajor 0x52 false o
  | .red o => encodeMajor 0x53 false o
  | .scan o => encodeMajor 0x54 false o
  | .first o => encodeMajor 0x55 false o
  | .spread o => encodeMajor 0x56 false o
  | .sadd o => encodeMajor 0x60 false o
  | .ssub o => encodeMajor 0x61 false o
  | .smul o => encodeMajor 0x62 false o
  | .sand o => encodeMajor 0x63 false o
  | .sor o => encodeMajor 0x64 false o
  | .sxor o => encodeMajor 0x65 false o
  | .sshl o => encodeMajor 0x66 false o
  | .sshr o => encodeMajor 0x67 false o
  | .smov o => encodeMajor 0x68 false o
  | .scmp o => encodeMajor 0x69 false o
  | .ssel o => encodeMajor 0x6A false o
  | .sld o => encodeMajor 0x6B true o
  | .smin o => encodeMajor 0x6C false o
  | .smax o => encodeMajor 0x6D false o
  | .rdlane o => encodeMajor 0x6E false o
  | .spopc o => encodeMajor 0x6F false o
  | .setp o => encodeMajor 0x70 false o
  | .sel o => encodeMajor 0x71 false o
  | .plop o => encodeMajor 0x72 false o
  | .prd o => encodeMajor 0x73 false o
  | .pwr o => encodeMajor 0x74 false o
  | .mov o => encodeMajor 0x75 false o
  | .class o => encodeMajor 0x76 false o
  | .ldB32 o => encodeMajor 0x80 true o
  | .ldB64 o => encodeMajor 0x81 true o
  | .ldB128 o => encodeMajor 0x82 true o
  | .ldN8 o => encodeMajor 0x83 true o
  | .ldI8 o => encodeMajor 0x84 true o
  | .ldN16 o => encodeMajor 0x85 true o
  | .ldI16 o => encodeMajor 0x86 true o
  | .stB8 o => encodeMajor 0x87 true o
  | .stB16 o => encodeMajor 0x88 true o
  | .stB32 o => encodeMajor 0x89 true o
  | .stB64 o => encodeMajor 0x8A true o
  | .stB128 o => encodeMajor 0x8B true o
  | .prf o => encodeMajor 0x8C true o
  | .ldGm o => encodeMajor 0x90 false o
  | .stGm o => encodeMajor 0x91 false o
  | .ldl o => encodeMajor 0x92 false o
  | .stl o => encodeMajor 0x93 false o
  | .ringOpen o => encodeMajor 0x94 false o
  | .ringClose o => encodeMajor 0x95 false o
  | .ringRsv o => encodeMajor 0x96 false o
  | .ringPost o => encodeMajor 0x97 false o
  | .ringTake o => encodeMajor 0x98 false o
  | .ringDone o => encodeMajor 0x99 false o
  | .ringQry o => encodeMajor 0x9A false o
  | .atomAddInt o => encodeMajor 0xA0 true o
  | .atomAddFp o => encodeMajor 0xA1 true o
  | .atomMinI o => encodeMajor 0xA2 true o
  | .atomMinN o => encodeMajor 0xA3 true o
  | .atomMaxI o => encodeMajor 0xA4 true o
  | .atomMaxN o => encodeMajor 0xA5 true o
  | .atomAnd o => encodeMajor 0xA6 true o
  | .atomOr o => encodeMajor 0xA7 true o
  | .atomXor o => encodeMajor 0xA8 true o
  | .atomXchg o => encodeMajor 0xA9 true o
  | .atomCas o => encodeMajor 0xAA true o
  | .atomInc o => encodeMajor 0xAB true o
  | .atomDec o => encodeMajor 0xAC true o
  | .fence o => encodeMajor 0xAD false o
  | .bar o => encodeMajor 0xAE false o
  | .barArv o => encodeMajor 0xAF false o
  | .cpy o => encodeMajor 0xB0 true o
  | .gath o => encodeMajor 0xB1 true o
  | .scat o => encodeMajor 0xB2 true o
  | .sisect o => encodeMajor 0xB3 true o
  | .smerge o => encodeMajor 0xB4 true o
  | .winPub o => encodeMajor 0xB5 true o
  | .cbInval o => encodeMajor 0xB6 true o
  | .mma o => encodeMajor 0xC0 true o
  | .mmaX64 o => encodeMajor 0xC1 true o
  | .wbLd o => encodeMajor 0xC2 true o
  | .accRd o => encodeMajor 0xC3 true o
  | .accWr o => encodeMajor 0xC4 true o
  | .accZero o => encodeMajor 0xC5 true o
  | .muFence o => encodeMajor 0xC6 true o
  | .bra o => encodeMajor 0xD0 false o
  | .jmp o => encodeMajor 0xD1 false o
  | .brx o => encodeMajor 0xD2 false o
  | .call o => encodeMajor 0xD3 false o
  | .callR o => encodeMajor 0xD3 false o
  | .ret o => encodeMajor 0xD4 false o
  | .join o => encodeMajor 0xD5 false o
  | .exit o => encodeMajor 0xD6 false o
  | .yield o => encodeMajor 0xD7 false o
  | .region o => encodeMajor 0xD8 false o
  | .fork o => encodeMajor 0xE0 false o
  | .spawn o => encodeMajor 0xE1 false o
  | .spawnSpec o => encodeMajor 0xE2 false o
  | .depDec o => encodeMajor 0xE3 true o
  | .depAdd o => encodeMajor 0xE4 true o
  | .tend o => encodeMajor 0xE5 false o
  | .tabort o => encodeMajor 0xE6 false o
  | .tabortDrop o => encodeMajor 0xE6 false o
  | .renq o => encodeMajor 0xE7 true o
  | .sysrd o => encodeMajor 0xF0 false o
  | .syswr o => encodeMajor 0xF1 false o
  | .trap o => encodeMajor 0xF2 false o
  | .tret o => encodeMajor 0xF3 false o
  | .bkpt o => encodeMajor 0xF4 false o
  | .nop o => encodeMajor 0xF5 false o
  | .pmcrd o => encodeMajor 0xF6 false o
  | .sleep o => encodeMajor 0xF7 false o
  | .nopS o => encodeShort 0x00#6 o
  | .movSVector o => encodeShort 0x01#6 o
  | .movSScalar o => encodeShort 0x02#6 o
  | .smovS o => encodeShort 0x03#6 o
  | .movSImm o => encodeShort 0x04#6 o
  | .smovSImm o => encodeShort 0x05#6 o
  | .addI32SImm o => encodeShort 0x06#6 o
  | .saddI32SImm o => encodeShort 0x07#6 o
  | .shlB32S o => encodeShort 0x08#6 o
  | .shrN32S o => encodeShort 0x09#6 o
  | .shrI32S o => encodeShort 0x0A#6 o
  | .addI32S o => encodeShort 0x0B#6 o
  | .subI32S o => encodeShort 0x0C#6 o
  | .andB32S o => encodeShort 0x0D#6 o
  | .orB32S o => encodeShort 0x0E#6 o
  | .xorB32S o => encodeShort 0x0F#6 o
  | .addF32S o => encodeShort 0x10#6 o
  | .mulF32S o => encodeShort 0x11#6 o
  | .movSSpecial o => encodeShort 0x12#6 o
  | .smovSSpecial o => encodeShort 0x13#6 o
  | .yieldS o => encodeShort 0x14#6 o
  | .exitS o => encodeShort 0x15#6 o
  | .retS o => encodeShort 0x16#6 o
  | .jmpS off => [off ++ 0#4 ++ 0x17#6 ++ 0#2]
  | .bkptS o => encodeShort 0x18#6 o
  | _ => []

end Sys2Proof
end

