-- ==== Sys2Proof/Machine/Operands.lean ====
section
/-! DEFINITION. The operand form of every encoded instruction: which fields it uses, with which kinds and widths, and what its modifier field may hold (R84 to R93, R97, and each entry). Legality and the registers an instruction touches both come from it. -/

namespace Sys2Proof.Machine

/-- A use of operand field A or B. -/
inductive Opd where
  /-- not used: field and kind zero (R85) -/
  | unused
  /-- a value of n registers; v, s, i, x: vector, scalar, immediate, special allowed (R84) -/
  | val (n : Nat) (v s i x : Bool)
  /-- a small constant below lim, kind 00 (R112) -/
  | konst (lim : Nat)
  /-- an immediate below lim -/
  | immLt (lim : Nat)
  /-- a scalar register whose number is a multiple of n, the head of a block of n registers -/
  | block (n : Nat)
  deriving DecidableEq, Repr

/-- A use of the destination field. -/
inductive Dst where
  | unused
  | vec (n : Nat)
  | scal (n : Nat)
  /-- vector or scalar (RED) -/
  | either (n : Nat)
  | pred
  /-- a constant of eight bits, KD zero -/
  | konst
  deriving DecidableEq, Repr

/-- A use of operand field C. -/
inductive Thd where
  | unused
  /-- n registers; v, s: vector, scalar allowed; align: the register number's divisor -/
  | reg (n align : Nat) (v s : Bool)
  /-- a constant below lim, KC zero -/
  | konst (lim : Nat)
  deriving DecidableEq, Repr

/-- What an L form's literal replaces (R91, R113). -/
inductive Lit where
  | none | a | b | c
  /-- an immediate of the instruction: B and KB are then zero -/
  | imm
  deriving DecidableEq, Repr

/-- The operand form of one instruction. -/
structure Shape where
  d : Dst
  a : Opd
  b : Opd
  c : Thd
  lit : Lit := .none
  /-- the modifier field, and whatever else the entry asks -/
  ok : Bool := true
  /-- guard taken once for the warp (R86) -/
  perWarp : Bool := false
  /-- every field but the guard and the operands is zero, FS and the stall hint among them (R85, R172, R199 to R201, R212 to R216) -/
  noStall : Bool := false
  /-- the entry says that FS is zero (R85, R194, R197, R209) -/
  noFs : Bool := false
  longLat : Bool := false

/-- Operand kinds: any; vector or scalar; vector; scalar; scalar or immediate; scalar, immediate or special. -/
def anyK (n : Nat) : Opd := .val n true true true true
def vsK (n : Nat) : Opd := .val n true true false false
def vK (n : Nat) : Opd := .val n true false false false
def sK (n : Nat) : Opd := .val n false true false false
def siK (n : Nat) : Opd := .val n false true true false
def sixK (n : Nat) : Opd := .val n false true true true
/-- B of a memory operand: immediate or a 32-bit register of either kind (R87). -/
def offK : Opd := .val 1 true true true false

/-- The type code in MOD (R90). -/
def tyOf (o : MOps) : Nat := o.mod.toNat / 8
/-- The low three bits of MOD. -/
def modLow (o : MOps) : Nat := o.mod.toNat % 8
/-- The source and destination formats of a conversion (R130). -/
def stOf (o : MOps) : Fmt := o.c.toNat % 32
def dtOf (o : MOps) : Fmt := tyOf o
/-- PACK and UNPACK move between the byte form and the dense form (R133). -/
def isDense (o : MOps) : Bool := dtOf o == stOf o && (dtOf o == E3M2 || dtOf o == E2M3)
/-- Registers a type takes. -/
def regsOfTy (t : Nat) : Nat := if fmtWidth t = 64 then 2 else 1

/-- Integer type of a list, with `.sat` where allowed (R111). -/
def intOk (o : MOps) (types : List Nat) (sat : Bool) : Bool :=
  types.contains (tyOf o) && decide (modLow o ≤ (if sat then 1 else 0))
/-- Floating-point type of a list, with a rounding code for an entry that rounds (R33, R111). -/
def fpOk (o : MOps) (types : List Nat) (rounds : Bool) : Bool :=
  types.contains (tyOf o) && (if rounds then [0, 1, 2, 3, 7].contains (modLow o) else modLow o == 0)
/-- The rounding codes legal for a conversion into dt (R33, R37, R38, R40). -/
def cvtOk (o : MOps) : Bool :=
  let dt := tyOf o
  let st := o.c.toNat % 32
  let ov := (o.c.toNat / 32) % 4
  let rm := modLow o
  decide (dt ≤ 0x17) && decide (st ≤ 0x17) && decide (o.c.toNat < 128) && decide (ov ≤ 2)
    && (ov != 2 || dt == E4M3 || dt == D8)
    && (if dt = D8 then rm == 0 || rm == 7
        else if dt ≤ 0x08 then [0, 1, 2, 3, 4, 7].contains rm
        else [0, 1, 2, 3, 7].contains rm)

def int4 : List Nat := [I32, N32, I64, N64]
def int2 : List Nat := [I32, N32]
def bits2 : List Nat := [N32, N64]
def fp2 : List Nat := [FP32, FP64]
def pk2 : List Nat := [FP16, BF16]

/-- vD, A, B of an integer or bits type. -/
def shape2 (o : MOps) (ok : Bool) : Shape :=
  let n := regsOfTy (tyOf o)
  { d := .vec n, a := anyK n, b := anyK n, c := .unused, lit := .b, ok := ok }
/-- vD, A. -/
def shape1 (o : MOps) (ok : Bool) : Shape :=
  let n := regsOfTy (tyOf o)
  { d := .vec n, a := anyK n, b := .unused, c := .unused, ok := ok }
/-- vD, A, B, C. -/
def shape3 (o : MOps) (ok : Bool) : Shape :=
  let n := regsOfTy (tyOf o)
  { d := .vec n, a := anyK n, b := anyK n, c := .reg n n true true, lit := .b, ok := ok }
/-- sD, A, B of the scalar group (R148). -/
def shapeS2 (o : MOps) (ok : Bool) : Shape :=
  let n := regsOfTy (tyOf o)
  { d := .scal n, a := sixK n, b := sixK n, c := .unused, lit := .b, ok := ok, perWarp := true }
/-- A special function (R138). -/
def shapeSpecial (o : MOps) (f64 : Bool) : Shape :=
  shape1 o (if f64 && tyOf o == FP64 then [0, 1, 2, 3, 7].contains (modLow o) else fpOk o [FP32, FP16, BF16] false)

/-- MOD of 0x6B and 0x80 to 0x8C (R90, R153): acq: acquire allowed, rel: release allowed. -/
def memModOk (o : MOps) (acq rel : Bool) : Bool :=
  let m := o.mod.toNat
  let scope := m / 64
  let order := (m / 16) % 4
  m % 4 == 0 && (match order with
    | 0 => scope == 0
    | 1 => true
    | 2 => acq || rel
    | _ => false)
/-- A global load of n registers (R159). -/
def shapeLd (o : MOps) (n : Nat) : Shape :=
  { d := .vec n, a := vsK 2, b := offK, c := .unused, lit := .b, ok := memModOk o true false, longLat := true }
/-- A global store of n registers (R159). -/
def shapeSt (o : MOps) (n : Nat) : Shape :=
  { d := .unused, a := vsK 2, b := offK, c := .reg n n true true, lit := .b, ok := memModOk o false true, longLat := true }
/-- Registers of a group-memory size code (R90). -/
def gmRegs (sz : Nat) : Nat := match sz with | 5 => 2 | 6 => 4 | _ => 1
def gmModOk (o : MOps) (store : Bool) : Bool :=
  let m := o.mod.toNat
  let sz := m / 32
  m % 8 == 0 && sz != 7 && (m / 8) % 4 != 3 && !(store && (sz == 1 || sz == 3))
/-- An atomic (R163): r registers per operand unit; cas: compare and new value in C. -/
def shapeAtom (o : MOps) (cas : Bool) : Shape :=
  let m := o.mod.toNat
  let n := 1 + m % 2
  let nr := (m / 2) % 2 == 1
  let gm := (m / 4) % 2 == 1
  { d := if nr then .unused else .vec n
    a := vsK (if gm then 1 else 2)
    b := offK
    c := if cas then .reg (2 * n) (2 * n) true true else .reg n n true true
    lit := .b
    ok := decide ((m / 8) % 8 ≤ 4) && !(gm && decide (m / 64 ≥ 2))
    longLat := true }
/-- Ring operations (R172). -/
def ringC : Thd := .konst 64
/-- MOD of an engine or MU command (R177): scope zero when neither flag is set. -/
def engModOk (o : MOps) : Bool :=
  let m := o.mod.toNat
  (m / 16) % 4 != 0 || m / 64 == 0

/-- The formats R224 admits in MMA. -/
def mmaFmts : List Nat := [0, 1, 2, 3, 4, 5, 6, 7, 8, 9, 0x0A, 0x0B, 0x0C, 0x0D, 0x0E, 0x0F]
/-- Formats of seven-product order (R224). -/
def x7Fmts : List Nat := [BF16, FP16, D8, E4M3, E5M2]
/-- Formats with an I32 accumulator (R224). -/
def i32Fmts : List Nat := [0x0A, 0x0B, 0x0C, 0x0D, 0x0E, 0x0F]
/-- MOD of MMA by its encoding alone (R227). -/
def mmaModOk (m : Nat) : Bool :=
  let f := m / 8
  let mode := (m / 2) % 4
  mmaFmts.contains f && mode != 3 && (mode != 1 || x7Fmts.contains f) && (m % 2 == 0 || i32Fmts.contains f)
/-- MOD of MMA.X64 (R238). -/
def x64ModOk (m : Nat) : Bool :=
  let f := m / 8
  let mode := (m / 2) % 4
  m % 2 == 0 && [FP32, FP16, BF16].contains f && (mode == 0 || (mode == 1 && f == FP32))

/-- The short instruction's equivalent M form (R93): operands in M layout. -/
def mOfShort (o : SOps) (mod : Nat) (d : BitVec 8) (kd : Bool) (a b : Src) : MOps :=
  ⟨o.g, 0, false, BitVec.ofNat 8 mod, d, kd, a, b, 0, false, none⟩
def sextI4 (i : BitVec 4) : BitVec 8 := i.signExtend 8
def zextI4 (i : BitVec 4) : BitVec 8 := i.zeroExtend 8
def modI32 : Nat := I32 * 8
def modB32 : Nat := N32 * 8

/-- The M form a short instruction stands for (R93, R94). JMP.S stands for JMP with the offset of R94 as literal. -/
def expandShort : Instr → Instr
  | .nopS o => .nop (mOfShort o 0 0 false (.vec 0) (.vec 0))
  | .movSVector o => .mov (mOfShort o modB32 o.d false (.vec o.a) (.vec 0))
  | .movSScalar o => .mov (mOfShort o modB32 o.d false (.scal o.a) (.vec 0))
  | .smovS o => .smov (mOfShort o modB32 o.d true (.scal o.a) (.vec 0))
  | .movSImm o => .mov (mOfShort o modB32 o.d false (.imm (sextI4 o.i4)) (.vec 0))
  | .smovSImm o => .smov (mOfShort o modB32 o.d true (.imm (sextI4 o.i4)) (.vec 0))
  | .addI32SImm o => .addInt (mOfShort o modI32 o.d false (.vec o.a) (.imm (sextI4 o.i4)))
  | .saddI32SImm o => .sadd (mOfShort o modI32 o.d true (.scal o.a) (.imm (sextI4 o.i4)))
  | .shlB32S o => .shl (mOfShort o modB32 o.d false (.vec o.a) (.imm (zextI4 o.i4)))
  | .shrN32S o => .shr (mOfShort o modB32 o.d false (.vec o.a) (.imm (zextI4 o.i4)))
  | .shrI32S o => .shr (mOfShort o modI32 o.d false (.vec o.a) (.imm (zextI4 o.i4)))
  | .addI32S o => .addInt (mOfShort o modI32 o.d false (.vec o.d) (.vec o.a))
  | .subI32S o => .subInt (mOfShort o modI32 o.d false (.vec o.d) (.vec o.a))
  | .andB32S o => .andB (mOfShort o modB32 o.d false (.vec o.d) (.vec o.a))
  | .orB32S o => .orB (mOfShort o modB32 o.d false (.vec o.d) (.vec o.a))
  | .xorB32S o => .xor (mOfShort o modB32 o.d false (.vec o.d) (.vec o.a))
  | .addF32S o => .addFp (mOfShort o (FP32 * 8) o.d false (.vec o.d) (.vec o.a))
  | .mulF32S o => .mulFp (mOfShort o (FP32 * 8) o.d false (.vec o.d) (.vec o.a))
  | .movSSpecial o => .mov (mOfShort o modB32 o.d false (.spec o.a) (.vec 0))
  | .smovSSpecial o => .smov (mOfShort o modB32 o.d true (.spec o.a) (.vec 0))
  | .yieldS o => .yield (mOfShort o 0 0 false (.vec 0) (.vec 0))
  | .exitS o => .exit (mOfShort o 0 0 false (.vec 0) (.vec 0))
  | .retS o => .ret (mOfShort o 0 0 false (.vec 0) (.vec 0))
  | .jmpS off => .jmp ⟨⟨0, false⟩, 0, false, 0, 0, false, .vec 0, .vec 0, 0, false, some (off.signExtend 32 <<< 2)⟩
  | .bkptS o => .bkpt (mOfShort o 0 0 false (.vec 0) (.vec 0))
  | i => i

/-- Nothing but a guard. -/
def shapeBare (perWarp : Bool) (o : MOps) : Shape :=
  { d := .unused, a := .unused, b := .unused, c := .unused, ok := o.mod == 0, perWarp := perWarp, noStall := true }

/-- The operand form of an M or L instruction, with its operands; none for the others. -/
def shapeOf : Instr → Option (MOps × Shape)
  | .addInt o => some (o, shape2 o (intOk o int4 true))
  | .subInt o => some (o, shape2 o (intOk o int4 true))
  | .mulInt o => some (o, shape2 o (intOk o int4 true))
  | .mulhi o => some (o, shape2 o (intOk o int4 false))
  | .mad o => some (o, shape3 o (intOk o int4 true))
  | .madhi o => some (o, shape3 o (intOk o int4 true))
  | .divInt o => some (o, shape2 o (intOk o int4 true))
  | .rem o => some (o, shape2 o (intOk o int4 false))
  | .minInt o => some (o, shape2 o (intOk o int4 false))
  | .maxInt o => some (o, shape2 o (intOk o int4 false))
  | .absInt o => some (o, shape1 o (intOk o [I32, I64] true))
  | .negInt o => some (o, shape1 o (intOk o [I32, I64] true))
  | .sad o => some (o, shape3 o (intOk o int2 true))
  | .dp4 o => some (o, shape3 o (intOk o int2 true))
  | .dp2 o => some (o, shape3 o (intOk o int2 true))
  | .lea o => some (o, { d := .vec 2, a := vsK 2, b := anyK 1, c := .konst 8, lit := .b, ok := intOk o [I64, N64] false })
  | .andB o => some (o, shape2 o (intOk o bits2 false))
  | .orB o => some (o, shape2 o (intOk o bits2 false))
  | .xor o => some (o, shape2 o (intOk o bits2 false))
  | .notB o => some (o, shape1 o (intOk o bits2 false))
  | .andn o => some (o, shape2 o (intOk o bits2 false))
  | .bitf o => some (o, { shape2 o (intOk o bits2 false) with c := .konst 256 })
  | .shl o => some (o, { shape2 o (intOk o bits2 false) with b := anyK 1 })
  | .shr o => some (o, { shape2 o (intOk o int4 false) with b := anyK 1 })
  | .shf o => some (o, { d := .vec 1, a := anyK 1, b := anyK 1, c := .reg 1 1 true true, lit := .c, ok := intOk o [N32] false })
  | .rot o => some (o, { shape2 o (intOk o bits2 false) with b := anyK 1 })
  | .popc o => some (o, { shape1 o (intOk o bits2 false) with d := .vec 1 })
  | .clz o => some (o, { shape1 o (intOk o bits2 false) with d := .vec 1 })
  | .brev o => some (o, shape1 o (intOk o bits2 false))
  | .bfe o => some (o, { shape2 o (intOk o int4 false) with b := anyK 1 })
  | .bfi o => some (o, { shape3 o (intOk o bits2 false) with c := .reg 1 1 true true })
  | .prmb o => some (o, shape3 o (intOk o [N32] false))
  | .addFp o => some (o, shape2 o (fpOk o fp2 true))
  | .subFp o => some (o, shape2 o (fpOk o fp2 true))
  | .mulFp o => some (o, shape2 o (fpOk o fp2 true))
  | .fmaFp o => some (o, shape3 o (fpOk o fp2 true))
  | .divFp o => some (o, shape2 o (fpOk o fp2 true))
  | .minFp o => some (o, shape2 o (fpOk o fp2 false))
  | .maxFp o => some (o, shape2 o (fpOk o fp2 false))
  | .absFp o => some (o, shape1 o (fpOk o fp2 false))
  | .negFp o => some (o, shape1 o (fpOk o fp2 false))
  | .frc o => some (o, shape1 o (fpOk o fp2 false))
  | .rndi o => some (o, shape1 o (fpOk o fp2 true))
  | .scalb o => some (o, { shape2 o (fpOk o fp2 true) with b := anyK 1 })
  | .getexp o => some (o, shape1 o (fpOk o fp2 false))
  | .getman o => some (o, shape1 o (fpOk o fp2 false))
  | .clampFp o => some (o, shape3 o (fpOk o fp2 false))
  | .addPacked o => some (o, shape2 o (fpOk o pk2 true))
  | .subPacked o => some (o, shape2 o (fpOk o pk2 true))
  | .mulPacked o => some (o, shape2 o (fpOk o pk2 true))
  | .fmaPacked o => some (o, shape3 o (fpOk o pk2 true))
  | .minPacked o => some (o, shape2 o (fpOk o pk2 false))
  | .maxPacked o => some (o, shape2 o (fpOk o pk2 false))
  | .absPacked o => some (o, shape1 o (fpOk o pk2 false))
  | .negPacked o => some (o, shape1 o (fpOk o pk2 false))
  | .dot2 o => some (o, shape3 o (fpOk o pk2 true))
  | .clampPacked o => some (o, shape3 o (fpOk o pk2 false))
  | .cvt o => some (o, { d := .vec (regsOfTy (tyOf o)), a := vsK (regsOfTy (o.c.toNat % 32)), b := .unused, c := .konst 128, ok := cvtOk o })
  | .cvtQ o => some (o, { d := .vec 1, a := vsK 1, b := siK 1, c := .konst 128, lit := .b
                          ok := cvtOk o && [E4M3, E5M2, E3M2, E2M3, E2M1, 0x0A, 0x0C].contains (tyOf o)
                                && [FP32, BF16, FP16].contains (o.c.toNat % 32)
                                && (match o.b, o.lit with
                                    | .imm n, _ => decide (n.toNat < 64)
                                    | _, some l => decide (l.toNat < 64)
                                    | _, _ => true) })
  | .pack o =>
    let dense := tyOf o == o.c.toNat % 32 && (tyOf o == E3M2 || tyOf o == E2M3)
    some (o, if dense then { d := .vec 4, a := vK 4, b := .immLt 1, c := .konst 32, ok := cvtOk o && modLow o == 0 }
             else { d := .vec 1, a := vsK (regsOfTy (o.c.toNat % 32)), b := anyK 1, c := .konst 128, lit := .b, ok := cvtOk o && decide (fmtWidth (tyOf o) ≤ 16) })
  | .unpack o =>
    let dense := tyOf o == o.c.toNat % 32 && (tyOf o == E3M2 || tyOf o == E2M3)
    some (o, if dense then { d := .vec 4, a := vK 4, b := .immLt 1, c := .konst 32, ok := cvtOk o && modLow o == 0 }
             else { d := .vec (regsOfTy (tyOf o)), a := vsK 1, b := anyK 1, c := .konst 128, lit := .b, ok := cvtOk o && decide (fmtWidth (o.c.toNat % 32) ≤ 16) })
  | .ex2 o => some (o, shapeSpecial o false)
  | .lg2 o => some (o, shapeSpecial o false)
  | .rcp o => some (o, shapeSpecial o true)
  | .rsq o => some (o, shapeSpecial o false)
  | .sqrt o => some (o, shapeSpecial o true)
  | .sinPi o => some (o, shapeSpecial o false)
  | .cosPi o => some (o, shapeSpecial o false)
  | .tanh o => some (o, shapeSpecial o false)
  | .sigm o => some (o, shapeSpecial o false)
  | .erf o => some (o, shapeSpecial o false)
  | .amaxRd o => some (o, { d := .scal 1, a := ringA o, b := .immLt 128, c := .unused, ok := o.mod == 0x08, perWarp := true })
  | .amaxRec o => some (o, { d := .unused, a := ringA o, b := .immLt 128, c := .reg 1 1 true false, ok := o.mod == 0x08 })
  | .amaxAdv o => some (o, { d := .unused, a := ringA o, b := .immLt 128, c := .unused, ok := o.mod == 0x08 })
  | .amaxClr o => some (o, { d := .unused, a := ringA o, b := .immLt 128, c := .unused, ok := o.mod == 0x08 })
  | .amaxScl o => some (o, { d := .scal 1, a := ringA o, b := .immLt 128, c := .unused, perWarp := true
                             ok := modLow o == 0 && [E4M3, E5M2, E3M2, E2M3, E2M1, 0x0A, 0x0C].contains (tyOf o) })
  | .xlane o => let n := 1 + (o.mod.toNat / 4) % 2
                some (o, { d := .vec n, a := vK n, b := anyK 1, c := .unused, ok := decide (o.mod.toNat < 16) })
  | .pcomb o => some (o, { d := if o.mod = 3#8 then .vec 2 else if o.mod = 4#8 then .vec 1 else .pred
                           a := .konst 16, b := .unused, c := .unused, ok := decide (o.mod.toNat ≤ 4) })
  | .eqset o => some (o, { d := if o.mod.toNat % 4 = 0 then .vec 2 else .pred
                           a := vK (1 + o.mod.toNat / 4), b := .unused, c := .unused, ok := decide (o.mod.toNat < 8) && o.mod.toNat % 4 != 3 })
  | .red o => some (o, { d := .either (regsOfTy (tyOf o)), a := vsK (regsOfTy (tyOf o)), b := .immLt 8, c := .konst 16, perWarp := o.kd, ok := redOk o })
  | .scan o => some (o, { d := .vec (regsOfTy (tyOf o)), a := vsK (regsOfTy (tyOf o)), b := .immLt 16, c := .konst 16, ok := redOk o })
  | .first o => some (o, { d := .pred, a := .unused, b := .unused, c := .unused, ok := decide (o.mod.toNat < 2) })
  | .spread o => let n := 1 + o.mod.toNat % 2
                 some (o, { d := .vec n, a := vK n, b := .unused, c := .unused, ok := decide (o.mod.toNat < 4) })
  | .sadd o => some (o, shapeS2 o (intOk o int4 true))
  | .ssub o => some (o, shapeS2 o (intOk o int4 true))
  | .smul o => some (o, shapeS2 o (intOk o int4 true))
  | .sand o => some (o, shapeS2 o (intOk o bits2 false))
  | .sor o => some (o, shapeS2 o (intOk o bits2 false))
  | .sxor o => some (o, shapeS2 o (intOk o bits2 false))
  | .sshl o => some (o, { shapeS2 o (intOk o bits2 false) with b := sixK 1 })
  | .sshr o => some (o, { shapeS2 o (intOk o int4 false) with b := sixK 1 })
  | .smov o => some (o, { d := .scal (regsOfTy (tyOf o)), a := sixK (regsOfTy (tyOf o)), b := .unused, c := .unused, lit := .a, ok := intOk o bits2 false, perWarp := true })
  | .scmp o => some (o, { shapeS2 o (intOk o int4 false) with d := .scal 1, c := .konst 6 })
  | .ssel o => some (o, { shapeS2 o (intOk o bits2 false) with c := .reg 1 1 false true })
  | .sld o => some (o, { d := .scal (1 + o.c.toNat % 2), a := sK 2, b := siK 1, c := .konst 2, lit := .b, ok := memModOk o true false, perWarp := true, longLat := true })
  | .smin o => some (o, shapeS2 o (intOk o int4 false))
  | .smax o => some (o, shapeS2 o (intOk o int4 false))
  | .rdlane o => some (o, { d := .scal (regsOfTy (tyOf o)), a := vK (regsOfTy (tyOf o)), b := siK 1, c := .unused, lit := .b, ok := intOk o bits2 false, perWarp := true })
  | .spopc o => some (o, { d := .scal 1, a := sixK (regsOfTy (tyOf o)), b := .unused, c := .unused, ok := intOk o bits2 false, perWarp := true })
  | .setp o => let n := regsOfTy (tyOf o)
               some (o, { d := .pred, a := anyK n, b := anyK n, c := .unused, lit := .b
                          ok := fp2.contains (tyOf o) || (int4.contains (tyOf o) && decide (modLow o ≤ 5)) })
  | .sel o => some (o, { shape2 o (intOk o bits2 false) with c := .konst 16 })
  | .plop o => some (o, { d := .pred, a := .konst 8, b := .konst 8, c := .konst 8 })
  | .prd o => some (o, { d := .vec 1, a := .unused, b := .unused, c := .unused, ok := o.mod == 0 })
  | .pwr o => some (o, { d := .unused, a := vsK 1, b := anyK 1, c := .unused, lit := .b, ok := o.mod == 0 })
  | .mov o => some (o, { shape1 o (intOk o bits2 false) with lit := .a })
  | .class o => let n := regsOfTy (tyOf o)
                some (o, { d := .pred, a := anyK n, b := anyK 1, c := .unused, lit := .b, ok := fpOk o fp2 false })
  | .ldB32 o => some (o, shapeLd o 1)
  | .ldB64 o => some (o, shapeLd o 2)
  | .ldB128 o => some (o, shapeLd o 4)
  | .ldN8 o => some (o, shapeLd o 1)
  | .ldI8 o => some (o, shapeLd o 1)
  | .ldN16 o => some (o, shapeLd o 1)
  | .ldI16 o => some (o, shapeLd o 1)
  | .stB8 o => some (o, shapeSt o 1)
  | .stB16 o => some (o, shapeSt o 1)
  | .stB32 o => some (o, shapeSt o 1)
  | .stB64 o => some (o, shapeSt o 2)
  | .stB128 o => some (o, shapeSt o 4)
  | .prf o => some (o, { d := .unused, a := vsK 2, b := offK, c := .unused, lit := .b, longLat := true, ok := o.mod == 0 || o.mod == 0x08 })
  | .ldGm o => some (o, { d := .vec (gmRegs (o.mod.toNat / 32)), a := vsK 1, b := offK, c := .unused, lit := .b, ok := gmModOk o false })
  | .stGm o => let n := gmRegs (o.mod.toNat / 32)
               some (o, { d := .unused, a := vsK 1, b := offK, c := .reg n n true true, lit := .b, ok := gmModOk o true })
  | .ldl o => some (o, { d := .vec (gmRegs (o.mod.toNat / 32)), a := .block 4, b := vK 2, c := .unused, ok := gmModOk o false })
  | .stl o => let n := gmRegs (o.mod.toNat / 32)
              some (o, { d := .unused, a := .block 4, b := vK 2, c := .reg n n true true, ok := gmModOk o true })
  | .ringOpen o => some (o, { d := .unused, a := sK 2, b := siK 1, c := ringC, lit := .b, ok := o.mod == 0, perWarp := true, noStall := true })
  | .ringClose o => some (o, { d := .unused, a := .unused, b := .unused, c := ringC, ok := o.mod == 0, perWarp := true, noStall := true })
  | .ringRsv o => some (o, { d := .scal 1, a := .unused, b := .unused, c := ringC, ok := o.mod == 0, perWarp := true, noStall := true })
  | .ringPost o => some (o, { d := .unused, a := sK 1, b := .unused, c := ringC, ok := o.mod == 0, perWarp := true, noStall := true })
  | .ringTake o => some (o, { d := .scal 1, a := .unused, b := .unused, c := ringC, ok := o.mod == 0, perWarp := true, noStall := true })
  | .ringDone o => some (o, { d := .unused, a := sK 1, b := .unused, c := ringC, ok := o.mod == 0, perWarp := true, noStall := true })
  | .ringQry o => some (o, { d := .scal 1, a := .unused, b := .unused, c := ringC, ok := o.mod == 0, perWarp := true, noStall := true })
  | .atomAddInt o => some (o, shapeAtom o false)
  | .atomAddFp o => some (o, shapeAtom o false)
  | .atomMinI o => some (o, shapeAtom o false)
  | .atomMinN o => some (o, shapeAtom o false)
  | .atomMaxI o => some (o, shapeAtom o false)
  | .atomMaxN o => some (o, shapeAtom o false)
  | .atomAnd o => some (o, shapeAtom o false)
  | .atomOr o => some (o, shapeAtom o false)
  | .atomXor o => some (o, shapeAtom o false)
  | .atomXchg o => some (o, shapeAtom o false)
  | .atomCas o => some (o, shapeAtom o true)
  | .atomInc o => some (o, shapeAtom o false)
  | .atomDec o => some (o, shapeAtom o false)
  | .fence o => some (o, { d := .unused, a := .unused, b := .unused, c := .unused
                           ok := o.mod.toNat % 8 == 0 && decide (1 ≤ (o.mod.toNat / 8) % 8) && decide ((o.mod.toNat / 8) % 8 ≤ 4) })
  | .bar o => some (o, { d := .unused, a := barA o, b := .unused, c := .unused, ok := o.mod == 0 })
  | .barArv o => some (o, { d := .unused, a := barA o, b := .unused, c := .unused, ok := o.mod == 0 })
  | .cpy o => let fo := (o.mod.toNat / 8) % 2 == 1
              some (o, { d := .unused, a := .block 8, b := .unused, c := if fo then .reg 4 4 false true else .unused
                         ok := engModOk o && o.mod.toNat % 8 == 0, perWarp := true, longLat := true })
  | .gath o => some (o, { d := .vec (if o.mod.toNat % 4 = 3 then 2 else 1), a := sK (if o.mod.getLsbD 3 then 1 else 2), b := vK 1, c := .unused
                          ok := engModOk o, longLat := true })
  | .scat o => let n := if o.mod.toNat % 4 = 3 then 2 else 1
               some (o, { d := .unused, a := sK (if o.mod.getLsbD 3 then 1 else 2), b := vK 1, c := .reg n n true false
                          ok := engModOk o, longLat := true })
  | .sisect o => some (o, { d := .unused, a := .block 8, b := .unused, c := keyC o, ok := engModOk o && o.mod.toNat % 8 == 0, perWarp := true, longLat := true })
  | .smerge o => some (o, { d := .unused, a := .block 8, b := .unused, c := keyC o, ok := engModOk o && o.mod.toNat % 8 == 0, perWarp := true, longLat := true })
  | .winPub o => some (o, { d := .unused, a := sK 2, b := siK 1, c := .reg 2 2 false true, lit := .b, ok := o.mod == 0xD0, perWarp := true, longLat := true })
  | .cbInval o => some (o, if o.mod = 0x83#8 then
                              { d := .unused, a := .unused, b := .unused, c := .unused, ok := o.lit.isNone, perWarp := true, longLat := true }
                            else { d := .unused, a := sK 2, b := siK 1, c := .unused, lit := .b, perWarp := true, longLat := true
                                   ok := decide (0x80 ≤ o.mod.toNat) && decide (o.mod.toNat ≤ 0x83) })
  | .mma o => some (o, { d := .unused, a := .block 4, b := .unused, c := .unused, ok := mmaModOk o.mod.toNat, perWarp := true, longLat := true })
  | .mmaX64 o => some (o, { d := .unused, a := .block 4, b := .unused, c := .unused, ok := x64ModOk o.mod.toNat, perWarp := true, longLat := true })
  | .wbLd o => some (o, { d := .unused, a := .block 8, b := .unused, c := .unused, ok := engModOk o && decide (o.mod.toNat % 8 ≤ 1), perWarp := true, longLat := true })
  | .accRd o => some (o, { d := .unused, a := sK 1, b := siK 1, c := .reg 1 1 false true, lit := .b, ok := engModOk o && o.mod.toNat % 8 == 0, perWarp := true, longLat := true })
  | .accWr o => some (o, { d := .unused, a := sK 1, b := siK 1, c := .reg 1 1 false true, lit := .b, ok := engModOk o && o.mod.toNat % 8 == 0, perWarp := true, longLat := true })
  | .accZero o => some (o, { d := .unused, a := .unused, b := sK 1, c := .unused, lit := .b, perWarp := true, longLat := true
                             ok := o.mod == 0 && (match o.lit with | some l => decide (l.toNat < 65536) | none => true) })
  | .muFence o => some (o, { d := .unused, a := .unused, b := .unused, c := .unused, ok := o.mod == 0, perWarp := true, longLat := true })
  | .bra o => some (o, { d := .konst, a := .unused, b := .unused, c := .konst 256, lit := .imm, ok := decide (o.mod.toNat < 2), noFs := true })
  | .jmp o => some (o, { d := .unused, a := .unused, b := .unused, c := .unused, lit := .imm, ok := o.mod == 0, perWarp := true, noFs := true })
  | .brx o => some (o, { d := .unused, a := sK 2, b := .unused, c := .unused, ok := o.mod == 0, perWarp := true })
  | .call o => some (o, { d := .unused, a := .unused, b := .unused, c := .unused, lit := .imm, ok := o.mod == 0 })
  | .callR o => some (o, { d := .unused, a := sK 2, b := .unused, c := .unused, ok := o.mod == 1 })
  | .ret o => some (o, shapeBare false o)
  | .join o => some (o, shapeBare false o)
  | .exit o => some (o, shapeBare false o)
  | .yield o => some (o, shapeBare true o)
  | .region o => some (o, { d := .unused, a := .konst 256, b := .unused, c := .unused, lit := .imm, ok := o.mod == 0, perWarp := true })
  | .fork o => some (o, { d := .unused, a := .unused, b := entryB o, c := .reg 8 8 true false, lit := .b, ok := o.mod == 0 })
  | .spawn o => some (o, { d := .vec 1, a := vsK 2, b := entryB o, c := .reg 8 8 true false, lit := .b, ok := o.mod == 0 })
  | .spawnSpec o => some (o, { d := .vec 1, a := vsK 2, b := entryB o, c := .reg 8 8 true false, lit := .b, ok := o.mod == 0 })
  | .depDec o => some (o, { d := if o.mod = 1#8 then .unused else .vec 1, a := vsK 2, b := offK, c := .unused, lit := .b, ok := decide (o.mod.toNat < 2), longLat := true })
  | .depAdd o => some (o, { d := if o.mod = 1#8 then .unused else .vec 1, a := vsK 2, b := offK, c := .reg 1 1 true true, lit := .b, ok := decide (o.mod.toNat < 2), longLat := true })
  | .tend o => some (o, { d := .unused, a := .unused, b := .unused, c := .unused, ok := o.mod == 0 })
  | .tabort o => some (o, { d := .unused, a := .unused, b := .unused, c := .unused, ok := o.mod == 0 })
  | .tabortDrop o => some (o, { d := .unused, a := .unused, b := .unused, c := .unused, ok := o.mod == 1 })
  | .renq o => some (o, { d := .unused, a := vsK 1, b := entryB o, c := .reg 8 8 true false, lit := .b, ok := decide (o.mod.toNat < 2), longLat := true })
  | .sysrd o => some (o, { d := .scal (if cr64 o.c.toNat then 2 else 1), a := .unused, b := .unused, c := .konst 256, ok := o.mod == 0 && crExists o.c.toNat, perWarp := true, noFs := true })
  | .syswr o => some (o, { d := .unused, a := .unused, b := siK (if cr64 o.c.toNat then 2 else 1), c := .konst 256, lit := .b, ok := o.mod == 0 && crExists o.c.toNat, perWarp := true, noFs := true })
  | .trap o => some (o, { d := .unused, a := siK 2, b := .immLt 12, c := .unused
                          ok := o.mod == 0 && (match o.b with | .imm n => decide (1 ≤ n.toNat) | _ => false) })
  | .tret o => some (o, shapeBare true o)
  | .bkpt o => some (o, shapeBare false o)
  | .nop o => some (o, shapeBare false o)
  | .pmcrd o => some (o, { d := .scal 2, a := .unused, b := .unused, c := .konst 10, ok := o.mod == 0, perWarp := true, noStall := true })
  | .sleep o => some (o, { d := .unused, a := .unused
                           b := (match o.b with | .imm _ => .immLt 128 | _ => sK 1)
                           c := .unused, lit := .b, ok := o.mod == 0, perWarp := true, noStall := true })
  | _ => none
where
  /-- RED and SCAN: op, type, rounding or `.sat` (R145). -/
  redOk (o : MOps) : Bool :=
    let op := match o.b with | .imm n => n.toNat % 8 | _ => 7
    if op = 0 then fpOk o fp2 true || intOk o int4 true
    else if op ≤ 2 then fpOk o fp2 false || intOk o int4 false
    else if op ≤ 5 then intOk o bits2 false
    else false
  /-- A ring id: an immediate 0 to 63 or a scalar (R135, R136). -/
  ringA (o : MOps) : Opd := match o.a with | .imm _ => .immLt 64 | _ => sK 1
  /-- The barrier id: an immediate 0 to 15 or a scalar (R167). -/
  barA (o : MOps) : Opd := match o.a with | .imm _ => .immLt 16 | _ => sK 1
  /-- The key destination of SISECT and SMERGE, when C is present (R183). -/
  keyC (o : MOps) : Thd := if o.kc then .reg (if o.mod.getLsbD 3 then 1 else 2) (if o.mod.getLsbD 3 then 1 else 2) false true else .unused
  /-- The entry index: an immediate 0 to 127 or a scalar (R204). -/
  entryB (o : MOps) : Opd := match o.b with | .imm _ => .immLt 128 | _ => sK 1
  /-- 64-bit control registers (R55). -/
  cr64 (n : Nat) : Bool := n == 0x08 || n == 0x0B || n == 0x10
  /-- The control registers that exist (R55). -/
  crExists (n : Nat) : Bool := [0x00, 0x01, 0x02, 0x08, 0x09, 0x0A, 0x0B, 0x10, 0x11, 0x12].contains n

/-- Special values that exist, and those that are uniform (R54). -/
def specExists (n : Nat) : Bool := n ≤ 0x0E
def specUniform (n : Nat) : Bool := n ≤ 0x0E && n != 0x00 && n != 0x0A

/-- Legality of operand A or B (R84, R85, R46, R50, R54); uniform: special values must be uniform. -/
def opdOk (u : Opd) (uniform : Bool) (x : Src) : Bool :=
  match u with
  | .unused => x == .vec 0
  | .val n v s i sp =>
    match x with
    | .vec r => v && r.toNat % n == 0
    | .scal r => s && decide (r.toNat < 128) && r.toNat % n == 0
    | .imm _ => i
    | .spec r => sp && (if uniform then specUniform r.toNat else specExists r.toNat)
  | .konst lim => match x with | .vec r => decide (r.toNat < lim) | _ => false
  | .immLt lim => match x with | .imm r => decide (r.toNat < lim) | _ => false
  | .block n => match x with | .scal r => decide (r.toNat < 128) && r.toNat % n == 0 | _ => false

/-- Legality of the destination (R46, R50, R86, R112). -/
def dstOk (u : Dst) (kd : Bool) (r : Nat) : Bool :=
  match u with
  | .unused => !kd && r == 0
  | .vec n => !kd && r % n == 0
  | .scal n => kd && decide (r < 128) && r % n == 0
  | .either n => if kd then decide (r < 128) && r % n == 0 else r % n == 0
  | .pred => !kd && decide (r < 8)
  | .konst => !kd

/-- Legality of operand C. -/
def thdOk (u : Thd) (kc : Bool) (r : Nat) : Bool :=
  match u with
  | .unused => !kc && r == 0
  | .reg _ al v s => if kc then s && decide (r < 128) && r % al == 0 else v && r % al == 0
  | .konst lim => !kc && decide (r < lim)

/-- A guard that is always or never (R86). -/
def guardUniform (g : Guard) : Bool := g.pred == 0

/-- Legality by the encoding alone (R97) of an M or L instruction of a shape. -/
def shapeLegal (o : MOps) (sh : Shape) : Bool :=
  let la := o.lit.isSome && sh.lit == .a
  let lb := o.lit.isSome && (sh.lit == .b || sh.lit == .imm)
  let lc := o.lit.isSome && sh.lit == .c
  let uniform := match sh.d with | .scal _ => true | _ => false
  sh.ok
    && (if la then o.a == .vec 0 else opdOk sh.a uniform o.a)
    && (if lb then o.b == .vec 0 else opdOk sh.b uniform o.b)
    && (if lc then !o.kc && o.c == 0 else thdOk sh.c o.kc o.c.toNat)
    && dstOk sh.d o.kd o.d.toNat
    && (!(sh.noStall || sh.noFs) || !o.fs)
    && (!sh.noStall || o.stall == 0)
    && (!sh.perWarp || guardUniform o.g)
    && (o.lit.isNone || sh.lit != .none)

/-- The clause-header fields are legal (R75). -/
def headerLegal (h : ClauseHdr) : Bool :=
  h.len != 0
    && !(h.fx == 12 || h.fx == 13 || h.fx == 14)
    && !(h.fy == 12 || h.fy == 13 || h.fy == 14)
    && (h.fx != h.fy || h.fx == 15)

/-- Form and selection bits that decoding has already fixed (R91, R136, R198, R204): M where the opcode has an M form, L where it has an L form. -/
def formLegal (i : Instr) (o : MOps) : Bool :=
  match i with
  | .amaxRd _ => o.b == .imm 0
  | .amaxRec _ => o.b == .imm 1
  | .amaxAdv _ => o.b == .imm 2
  | .amaxClr _ => o.b == .imm 3
  | .amaxScl _ => o.b == .imm 4
  | .call _ => o.lit.isSome
  | .callR _ => o.lit.isNone
  | .bra _ => o.lit.isSome
  | .jmp _ => o.lit.isSome
  | .region _ => o.lit.isSome
  | .pack _ => !(o.lit.isSome && tyOf o == o.c.toNat % 32 && (tyOf o == E3M2 || tyOf o == E2M3))
  | _ => true

/-- An S instruction's own required zeros (R93, R94). -/
def shortZeros : Instr → Bool
  | .nopS o => o.d == 0 && o.a == 0 && o.i4 == 0
  | .movSVector o => o.i4 == 0
  | .movSScalar o => o.i4 == 0
  | .smovS o => o.i4 == 0
  | .movSImm o => o.a == 0
  | .smovSImm o => o.a == 0
  | .addI32S o => o.i4 == 0
  | .subI32S o => o.i4 == 0
  | .andB32S o => o.i4 == 0
  | .orB32S o => o.i4 == 0
  | .xorB32S o => o.i4 == 0
  | .addF32S o => o.i4 == 0
  | .mulF32S o => o.i4 == 0
  | .movSSpecial o => o.i4 == 0
  | .smovSSpecial o => o.i4 == 0
  | .yieldS o => o.d == 0 && o.a == 0 && o.i4 == 0
  | .exitS o => o.d == 0 && o.a == 0 && o.i4 == 0
  | .retS o => o.d == 0 && o.a == 0 && o.i4 == 0
  | .bkptS o => o.d == 0 && o.a == 0 && o.i4 == 0
  | _ => true

/-- An instruction that is legal by its encoding (R97). A device step has no encoding. -/
def legal (i : Instr) : Bool :=
  match i with
  | .clause h => headerLegal h
  | _ =>
    match shapeOf (expandShort i) with
    | some (o, sh) => shapeLegal o sh && formLegal (expandShort i) o && shortZeros i
    | none => true

end Sys2Proof.Machine
end

