-- ==== Sys2Proof/Machine/Maps.lean ====
section
/-! DEFINITION. Sparse maps from numbers in one canonical form, sets of lanes, and little-endian bytes (R11, R189). -/

namespace Sys2Proof.Machine

/-- The entry at k. -/
def mapGet? {α : Type} (m : NMap α) (k : Nat) : Option α :=
  match m with
  | [] => none
  | (j, v) :: r => if j = k then some v else if k < j then none else mapGet? r k

/-- The map with v at k. -/
def mapSet {α : Type} (m : NMap α) (k : Nat) (v : α) : NMap α :=
  match m with
  | [] => [(k, v)]
  | (j, w) :: r => if k < j then (k, v) :: (j, w) :: r else if k = j then (k, v) :: r else (j, w) :: mapSet r k v

/-- The map with no entry at k, whatever the order of the list. -/
def mapErase {α : Type} (m : NMap α) (k : Nat) : NMap α :=
  match m with
  | [] => []
  | (j, w) :: r => if k < j then (j, w) :: r else if k = j then r.dropWhile (fun x => decide (x.1 ≤ k)) else (j, w) :: mapErase r k

/-- The value at k of a map whose unlisted keys hold d. -/
def mapGetD {α : Type} (m : NMap α) (k : Nat) (d : α) : α := (mapGet? m k).getD d

/-- The map with v at k, no entry where v is what an unlisted key holds. -/
def mapPut {α : Type} [DecidableEq α] (d : α) (m : NMap α) (k : Nat) (v : α) : NMap α :=
  if v = d then mapErase m k else mapSet m k v

/-- The map with f applied to the entry at k, if there is one. -/
def mapMod {α : Type} (m : NMap α) (k : Nat) (f : α → α) : NMap α :=
  match mapGet? m k with
  | some v => mapSet m k (f v)
  | none => m

/-- A number added to a map's entry. -/
def mapAdd (m : NMap Nat) (k n : Nat) : NMap Nat := mapPut 0 m k (mapGetD m k 0 + n)

/-- Keys strictly rising, all above lo. -/
def keysFrom {α : Type} (lo : Nat) : NMap α → Bool
  | [] => true
  | (k, _) :: r => decide (lo ≤ k) && keysFrom (k + 1) r

/-- The canonical form of a map: keys strictly rising. -/
def mapWf {α : Type} (m : NMap α) : Bool := keysFrom 0 m

/-- The lanes of a set, lowest first. -/
def lanesOf (m : Mask) : List Nat := (List.range 64).filter (fun i => m.getLsbD i)

/-- The set of one lane. -/
def laneBit (L : Nat) : Mask := BitVec.ofNat 64 (2 ^ L)

/-- A set of lanes from a test. -/
def maskOf (p : Nat → Bool) : Mask :=
  (List.range 64).foldl (fun m i => if p i then m ||| laneBit i else m) 0

/-- Lanes 0 to n - 1. -/
def maskTo (n : Nat) : Mask := BitVec.ofNat 64 (2 ^ n - 1)

/-- The lowest lane of a set; 0 for none. -/
def lowLane (m : Mask) : Nat := ((lanesOf m).head?).getD 0

/-- Number of lanes. -/
def popMask (m : Mask) : Nat := (lanesOf m).length

/-- The n low bytes of a number, lowest address first (R11). -/
def bytesOf (v n : Nat) : List Byte :=
  match n with
  | 0 => []
  | k + 1 => BitVec.ofNat 8 v :: bytesOf (v / 256) k

/-- The number whose bytes are given, lowest address first (R11). -/
def ofBytes : List Byte → Nat
  | [] => 0
  | b :: r => b.toNat + 256 * ofBytes r

/-- Bits lo to lo + n - 1 of a number. -/
def field (v lo n : Nat) : Nat := (v / 2 ^ lo) % 2 ^ n

/-- A number of n bits read as two's complement. -/
def sextNat (v n : Nat) : Int := if v % 2 ^ n ≥ 2 ^ (n - 1) then ((v % 2 ^ n : Nat) : Int) - (2 ^ n : Nat) else ((v % 2 ^ n : Nat) : Int)

/-- An integer modulo 2^n. -/
def wrapNat (i : Int) (n : Nat) : Nat := (i % (2 ^ n : Nat)).toNat

/-- ceil(a / b). -/
def ceilDiv (a b : Nat) : Nat := (a + b - 1) / b

/-- a up to the next multiple of b. -/
def roundUp (a b : Nat) : Nat := ceilDiv a b * b

end Sys2Proof.Machine
end

