-- ==== Sys2Proof/Machine/State.lean ====
section
/-! DEFINITION. The machine's state as plain data: agents, groups, clusters, matrix units, chiplets, memory, translation, VFs and the device. Each field's docstring cites the rule that names it. -/

namespace Sys2Proof.Machine

/-- A code position: header address and index (R81). -/
structure Pos where
  hdr : DWord
  ix  : Nat
  deriving DecidableEq, Repr

/-- The join record of a path: none, an entry of the agent's own stack, or for a fragment's first path an entry of the parent's (R188, R196). -/
inductive Jix where
  | none
  | own (i : Nat)
  | parent (i : Nat)
  deriving DecidableEq, Repr

/-- Where a path stands: about to enter a header, or in a clause body at a parcel address under a header (R76, R79). -/
inductive Phase where
  | header
  | body (pc : DWord) (h : ClauseHdr)
  deriving DecidableEq, Repr

/-- A path: position, mask, join record (R188). -/
structure Path where
  pos   : Pos
  mask  : Mask
  jix   : Jix
  phase : Phase
  deriving DecidableEq, Repr

/-- What a PC slot waits for, besides what is re-examined at each turn. -/
inductive Wait where
  | none
  /-- BAR: until generation gen of barrier b has completed (R168) -/
  | bar (b gen : Nat)
  /-- BAR in a fragment: its arrival message, named tok, has not reached the barrier unit (R257) -/
  | barSent (b tok : Nat)
  /-- BAR.ARV of lanes that had already arrived: they arrive once generation gen has completed (R168) -/
  | barArv (b gen : Nat) (lanes : Mask)
  /-- SLEEP: what is left, in 32nds of a cycle of the chiplet's arithmetic clock (R12, R216) -/
  | sleep (left : Nat)
  /-- parked at an instruction for the answers to pages: the name of the wait, and the first page (R156, R358) -/
  | page (park pasid page : Nat)
  /-- parked because a fill from its context's save area waits for a page (R407) -/
  | fill
  /-- waiting at a ring named by its opening: desc is its descriptor's address, for its closing by retirement, or 0 once RING.CLOSE has closed it (R174) -/
  | ring (id serial : Nat) (desc : DWord)
  deriving DecidableEq, Repr

/-- A PC slot (R188); stopped: held because the other slot took a trap (R81, R210). -/
structure Slot where
  path    : Option Path
  wait    : Wait
  stopped : Bool
  /-- position in the rotation list of its quadrant or narrow core (R80, R247) -/
  rank    : Nat
  /-- what is left of a stall hint, in 32nds of a cycle of the arithmetic clock (R80, R247) -/
  stall   : Nat
  /-- it has issued in its clause and keeps its place in the list (R247) -/
  turn    : Bool
  deriving DecidableEq, Repr

/-- Kinds of divergence-stack entry (R189). -/
inductive EntryKind where
  | path | join | call | retired
  deriving DecidableEq, Repr

/-- A divergence-stack entry (R189): position (of the path, or r), mask, PEND, JIX. -/
structure Entry where
  kind : EntryKind
  pos  : Pos
  mask : Mask
  pend : Nat
  jix  : Jix
  /-- it was there when its warp entered handler mode: its path stays stopped until the end (R210, R213) -/
  held : Bool
  /-- what a pushed path waits for: its barrier generation, its sleep, or its ring (R168, R170, R194, R216) -/
  wait : Wait
  deriving DecidableEq, Repr

/-- Where an agent runs (R5, R61, R62). -/
inductive Core where
  | wide (w q : Nat)
  | narrow (n : Nat)
  deriving DecidableEq, Repr

/-- The kinds of agent. A fragment has a parent agent, the record J of the parent's stack and J's r (R195). -/
inductive AgentKind where
  | grid
  | frag (parent jix : Nat) (rpc : DWord)
  | wave
  deriving DecidableEq, Repr

/-- Handler mode: the slot that entered it (R210, R213). -/
structure Handler where
  slotB : Bool
  deriving DecidableEq, Repr

/-- A register write of an outstanding operation: lane (none: scalar), register, value. -/
structure RegWrite where
  lane : Option Nat
  reg  : Nat
  val  : Word
  deriving DecidableEq, Repr

/-- An outstanding long-latency operation (R52, R89). -/
structure Outstanding where
  id     : Nat
  slotB  : Bool
  flag   : Option Nat
  /-- vector registers that are its destination: first and count -/
  vdst   : List (Nat × Nat)
  /-- scalar registers that are its destination -/
  sdst   : List (Nat × Nat)
  writes : List RegWrite
  /-- floating-point flags that reach FPC at completion (R43, R164) -/
  fflags : BitVec 7
  /-- it has been performed, and may complete; an engine or MU command is made ready by its unit -/
  ready  : Bool
  /-- it may still record a trap (R178) -/
  mayTrap : Bool
  deriving DecidableEq, Repr

/-- A recorded trap of an asynchronous command or task instruction, not yet taken (R178). -/
structure PendingTrap where
  cause : Nat
  addr  : DWord
  lane  : Nat
  /-- the flag the command counts against -/
  flag  : Option Nat
  /-- issue order of the command -/
  seq   : Nat
  /-- time at which it was recorded -/
  time  : Nat
  deriving DecidableEq, Repr

/-- A trap's record (R58). -/
structure TrapInfo where
  cause : Nat
  eng   : Bool
  lane  : Nat
  addr  : DWord
  deriving DecidableEq, Repr

/-- A register granule in a fragment: absent, clean or dirty (R251). -/
inductive GranuleSt where
  | absent | clean | dirty
  deriving DecidableEq, Repr

/-- A warp, fragment or wave. -/
structure Agent where
  kind    : AgentKind
  vf      : Nat
  ctx     : Nat
  launch  : Nat
  /-- the group it belongs to; none for a wave -/
  group   : Option Nat
  /-- index of the warp within its group; group id, threads per group and groups of the launch as the special values show them (R54) -/
  warp    : Nat
  gid     : Word
  gsize   : Nat
  ngroups : Nat
  cluster : Nat
  core    : Core
  /-- slot units (R61), or contexts of the narrow core (R62), it holds -/
  units   : List Nat
  width   : Nat
  /-- lanes that started, and lanes that have not exited -/
  started : Mask
  live    : Mask
  /-- registers allocated (R46) -/
  nregs   : Nat
  /-- v registers: key 64 * register + lane, unlisted zero (R46, R49) -/
  vregs   : NMap Word
  /-- s registers, unlisted zero (R50) -/
  sregs   : NMap Word
  /-- p1 to p7 as sets of lanes, unlisted false (R51) -/
  preds   : NMap Mask
  /-- counters of f0 to f11, unlisted zero (R52) -/
  flags   : NMap Nat
  fpc     : Word
  xth     : Word
  tpc     : DWord
  tix     : Word
  tcause  : Word
  taddr   : DWord
  sbase   : DWord
  sshift  : Word
  sfmt    : Word
  slotA   : Slot
  slotB   : Slot
  /-- the divergence stack, entry 0 first (R189) -/
  stack   : List Entry
  dsb     : DWord
  dsn     : Nat
  handler : Option Handler
  /-- the staging descriptor (R63), and the staged registers that are dirty (R64) -/
  stgBase : Nat
  stgMap  : Word
  /-- the set that the descriptor names is staged: not from a trap's entry until TRET (R66) -/
  staging : Bool
  /-- by register, lanes whose row has a parity error that no duplicate repairs, or is poisoned (R409) -/
  bad     : NMap Mask
  /-- by register, lanes whose staged copy has a double-bit error (R410) -/
  badStg  : NMap Mask
  /-- by register, lanes whose staged copy was loaded from a bad row when the set was staged again (R66, R409) -/
  stgPar  : NMap Mask
  stgDirty : List Nat
  /-- %tickhi's latch (R54) -/
  tickhi  : Option Word
  /-- cycles counted towards the watchdog interval (R265) -/
  wdc     : Nat
  /-- cycles since it started (CYC), and cycles in which a slot of it held a short draw (TOKEN_WAIT), in 32nds of a cycle of the arithmetic clock (R12, R215, R323) -/
  cyc     : Nat
  tokenWait : Nat
  insn    : Nat
  opndSlow : Nat
  regOor  : Nat
  bankWait : Nat
  exports : Nat
  spills  : Nat
  ops     : List Outstanding
  traps   : List PendingTrap
  /-- of a fragment: granule states, unlisted absent (R251) -/
  granules : NMap GranuleSt
  /-- of a fragment: its export has arrived, and it may issue (R250) -/
  begun   : Bool
  /-- of a fragment: granules whose pull request has reached the quadrant, and which are to be sent (R250, R251) -/
  asked   : List Nat
  /-- of a fragment: scalar registers that an operation of the parent, outstanding at export, has still to write: operation, register (R53, R64) -/
  owed    : List (Nat × Nat)
  /-- of a wave: the record of each lane's task (R301) -/
  tasks   : NMap Nat
  /-- of a wave: group-memory granules of its scratch (R292) -/
  gmGran  : List Nat
  /-- ended by a trap (R210, R211, R254) -/
  faulted : Bool
  halted  : Bool
  /-- its image has been spilt and its units freed; register granules not yet filled after resumption, and those whose bytes are in the save area alone; what its spill or fill lost (R400, R402, R407) -/
  spilt   : Bool
  unfilled : List Nat
  saved   : List Nat
  /-- of a wave: granules of its scratch that have been spilt, and those not yet filled, by place in the scratch (R400, R407) -/
  gmSpilt : List Nat
  gmUnfilled : List Nat
  lost    : Option (Nat × DWord)
  /-- what the write of its stack image at the halt met: lost with the agent's units when these are claimed (R189, R402) -/
  stkLost : Option (Nat × DWord)
  deriving DecidableEq, Repr

/-- An open generation of a barrier: its number and, for each warp of the group, the lanes that have arrived (R168). -/
structure Barrier where
  gen     : Nat
  arrived : NMap Mask
  deriving DecidableEq, Repr

/-- A group of a launch (R243, R244, R345). -/
structure Group where
  launch  : Nat
  vf      : Nat
  ctx     : Nat
  gid     : Nat
  cluster : Nat
  /-- group-memory granules of the cluster it holds, in address order (R345) -/
  granules : List Nat
  /-- bytes of group memory, unlisted zero (R151) -/
  gm      : List Host.Cell
  /-- agents that are its warps, by %warp -/
  warps   : NMap Nat
  /-- E: lanes that have not exited, by %warp (R168) -/
  live    : NMap Mask
  /-- barriers 0 to 15; an unlisted one is in generation 0 with no arrival -/
  barriers : NMap Barrier
  /-- what its retired warps still hold until its last one retires: core, slot units, register blocks (R244, R348) -/
  held    : List (Core × List Nat × Nat)
  /-- fault and lost marks (R344) -/
  faulted : Bool
  lost    : Bool
  /-- granule numbers that have been spilt, and those not yet filled; its barrier records have been spilt (R400, R407) -/
  spilt   : List Nat
  unfilled : List Nat
  recOut  : Bool
  deriving DecidableEq, Repr

/-- The owner of a ring: a group, or the task group of a launch on the cluster (R171, R311). -/
inductive RingOwner where
  | group (g : Nat)
  | tasks (launch : Nat)
  deriving DecidableEq, Repr

/-- An open ring (R171). -/
structure Ring where
  owner  : RingOwner
  vf     : Nat
  desc   : DWord
  base   : Nat
  slotb  : Nat
  nslot  : Nat
  rsv    : Nat
  pst    : Nat
  tkn    : Nat
  dne    : Nat
  /-- sequence numbers reserved and posted out of order; taken and done out of order (R172) -/
  posted : List Nat
  dones  : List Nat
  /-- which opening this is -/
  serial : Nat
  deriving DecidableEq, Repr

/-- An amax ring: owner VF, entries as FP32 codes, head (R134). -/
structure AmaxRing where
  owner   : Option Nat
  entries : List Word
  head    : Nat
  deriving DecidableEq, Repr

/-- States of a task record (R293); PAGE is page. -/
inductive RecState where
  | free | ready | waiting | spec | running | irrev | commit | page
  /-- held back from reuse until its release packet arrives (R295) -/
  | held
  deriving DecidableEq, Repr

/-- The space of a buffered access. -/
inductive Space where
  | glob
  /-- group memory: the shared task area or the wave's scratch (R292) -/
  | gm
  deriving DecidableEq, Repr

/-- Atomic operations on a location (R163). -/
inductive AtomOp where
  | addInt | addFp | minI | minN | maxI | maxN | and | or | xor | xchg | cas | inc | dec
  deriving DecidableEq, Repr

/-- Where a translated address lies: device memory by device address, or host memory (R350, R380). -/
inductive Loc where
  | dev (d : Nat)
  | host (t : Nat)
  deriving DecidableEq, Repr

/-- Which bytes a group-memory address names (R151, R292). -/
inductive GmCell where
  | group (g k : Nat)
  | shared (launch cluster k : Nat)
  | scratch (agent k : Nat)
  /-- out of range -/
  | out
  deriving DecidableEq, Repr

/-- Strength, scope and order of an access or a fence (R153, R165); the scope is 0 `.wrp`, 1 `.grp`, 2 `.dev`, 3 `.sys`. -/
structure Access where
  strong : Bool
  scope  : Nat
  acq    : Bool
  rel    : Bool
  sc     : Bool
  deriving DecidableEq, Repr

/-- A thread (R267). -/
inductive Tid where
  /-- a lane of a warp, its fragments included, or of a wave -/
  | lane (agent lane : Nat)
  /-- a command, by the agent that issued it and its flag -/
  | cmd (id agent : Nat) (flag : Option Nat)
  | host
  /-- a thread of another device, by a number (R281) -/
  | peer (n : Nat)
  /-- the device's acceptance and completion of a launch (R288) -/
  | launch (n : Nat)
  /-- a link between events of other threads -/
  | link
  deriving DecidableEq, Repr

/-- A thread and what the scope instances go by: the lanes of a warp or wave share an agent (R268). -/
structure Party where
  tid     : Tid
  vf      : Nat
  launch  : Option Nat
  cluster : Nat
  group   : Option Nat
  agent   : Nat
  deriving DecidableEq, Repr

/-- A location: one byte of device or host memory, of group memory, or of a peer's window, by 64 * device + window (R271, R281). -/
inductive Spot where
  | glob (l : Loc)
  | gm (c : GmCell)
  | peer (key k : Nat)
  deriving DecidableEq, Repr

/-- What direct edges go by (R282, R284, R288): a generation of a barrier, a slot of an opening of a ring, a task record made ready, a launch and its end. -/
inductive Link where
  | bar (group b gen : Nat)
  | post (ring slot : Nat)
  | done (ring slot : Nat)
  | made (record : Nat)
  | opened (launch : Nat)
  | over (launch : Nat)
  /-- a completion sequence number of a queue -/
  | number (vf ctx q n : Nat)
  deriving DecidableEq, Repr

/-- An event (R270). One that reads and writes is an RMW, one that does neither is a fence or a link. -/
structure Ev where
  id     : Nat
  party  : Party
  /-- its place in its thread's program order; the events of one rank of a command are unordered (R279) -/
  rank   : Nat
  time   : Nat
  acc    : Access
  /-- locations read, each with the write that it reads from, none for the initial value (rf, R272) -/
  reads  : List (Spot × Option Nat)
  /-- locations written: the value before, and the value written -/
  writes : List (Spot × Byte × Byte)
  /-- single-copy atomic within each aligned 8 bytes (R154, R271) -/
  sca    : Bool
  /-- threads whose events before a number precede it as if in program order (R279) -/
  follows : List (Tid × Nat)
  /-- events that happen before it by a direct edge -/
  after  : List Nat
  gives  : List Link
  takes  : List Link
  /-- of a store: the agent and the operation, and the time at which its flag was signalled (R278) -/
  op     : Option (Nat × Nat)
  told   : Option Nat
  /-- the step in which it was recorded -/
  turn   : Nat
  /-- places in co that are not those of recording, by location (R272, R277) -/
  ord    : List (Spot × Nat)
  deriving DecidableEq, Repr

/-- An entry of a task's store buffer (R305). -/
inductive BufEntry where
  /-- bytes by the task's address, within one aligned 16-byte block whose translation is blk; a weak one may merge -/
  | store (space : Space) (acc : Access) (bytes : List (Nat × Byte)) (blk : Loc)
  | atom (space : Space) (acc : Access) (op : AtomOp) (w64 : Bool) (addr : Nat) (opnd cmp : Nat) (fz : Bool) (loc : Loc)
  | dep (isAdd : Bool) (addr : Nat) (count : Nat) (loc : Loc)
  | fork (entry : Nat) (args : List Word)
  | renq (dst : Word) (entry : Nat) (args : List Word)
  deriving DecidableEq, Repr

/-- A task record (R293). -/
structure TaskRec where
  st      : RecState
  entry   : Nat
  args    : List Word
  launch  : Nat
  /-- speculative mark -/
  spec    : Bool
  /-- a dependence word holds its handle (R295) -/
  attached : Bool
  /-- trap-abort count (R306) -/
  aborts  : Nat
  buffer  : List BufEntry
  /-- 128-byte lines a speculative task has read (R309) -/
  lines   : List Nat
  /-- addresses that its own lane presented on pages not present, at an abort to PAGE (R357, R358) -/
  pages   : List Nat
  /-- wide core where its wave ran (R293) -/
  core    : Nat
  /-- agent and lane while it runs -/
  agent   : Nat
  lane    : Nat
  /-- its lane has ended the task and waits for the speculative mark to clear (R207) -/
  ended   : Bool
  deriving DecidableEq, Repr

/-- A bin of a wide core: tasks of one entry of one launch (R300). -/
structure Bin where
  launch : Nat
  entry  : Nat
  vf     : Nat
  recs   : List Nat
  /-- since its first task, in 32nds of a cycle of the arithmetic clock -/
  age    : Nat
  closed : Bool
  /-- order of closing -/
  seq    : Nat
  deriving DecidableEq, Repr

/-- The dispatcher of a wide core (R299 to R302): deques by VF (head first), bins, the oldest pending wave's skip count, drain. -/
structure Dispatcher where
  deques : NMap (List Nat)
  bins   : NMap Bin
  skips  : Nat
  skipsOf : Nat
  drain  : Bool
  deriving DecidableEq, Repr

/-- A launch's identity: VF, PASID, queue, sequence number (R291). -/
structure LaunchId where
  vf    : Nat
  pasid : Nat
  q     : Nat
  n     : Nat
  deriving DecidableEq, Repr

/-- A packet on the remote-enqueue channel (R296). -/
structure Packet where
  /-- destination basin id (R203) -/
  dst    : Word
  isNew  : Bool
  ent    : Nat
  handle : Word
  launch : Nat
  args   : List Word
  /-- class of the sender: compute chiplet or 16 + Pass link -/
  src    : Nat
  /-- the operation to signal, agent, operation and lane, and whether that is at acceptance (ACK) or as the packet enters the channel (R208) -/
  ack    : Option (Nat × Nat × Nat)
  onAccept : Bool
  /-- the dependence word of a release -/
  word   : DWord
  /-- 0 waiting for a credit at its sender, 1 in flight or arrived in a slot, 2 sent to another device and not yet acknowledged -/
  place  : Nat
  /-- the acknowledgement tag, 0xFFFF for none -/
  ackid  : Nat
  /-- of a packet that came over a Pass link: the device it came from, and the identity of its launch -/
  peer   : Option (Nat × LaunchId)
  /-- events that happen before what it makes ready (R284) -/
  evs    : List Nat
  /-- its sequence number once it has been sent: the device that gave it, and the number (R421, R422) -/
  num    : Option (Nat × Nat)
  deriving DecidableEq, Repr

/-- Spaces of a CPY (R179). -/
inductive CpySpace where
  | glob | gm | ring | peer
  deriving DecidableEq, Repr

/-- What a matrix command captured (R226, R232, R239, R240). -/
inductive MuOp where
  | mma (x64 pr x7 sat : Bool) (fmt act : Nat) (za asrc : Bool) (wbs aadr ast : Nat) (sp : Bool) (nv mv k arb ablk : Nat)
  | wbLd (gm sp : Bool) (badr bst fmt : Nat) (pr : Bool) (wbs k madr brb bblk mst : Nat)
  | accRd (w64 : Bool) (act addr str : Nat)
  | accWr (w64 : Bool) (act addr str : Nat)
  | accZero (mask : Nat)
  | fence
  deriving DecidableEq, Repr

/-- A matrix command with its captured state (R176, R219). -/
structure MuCmd where
  id     : Nat
  agent  : Nat
  /-- outstanding operation to signal -/
  opId   : Nat
  slotB  : Bool
  flag   : Option Nat
  acq    : Bool
  rel    : Bool
  scope  : Nat
  fz     : Bool
  sbase  : DWord
  sshift : Word
  sfmt   : Word
  op     : MuOp
  /-- ring slot address once taken (R222) -/
  slot   : Option Nat
  started : Bool
  /-- what will be recorded for it: cause and address (R222) -/
  fail   : Option (Nat × Nat)
  /-- the CPY whose follow-on it is: cluster and command -/
  parentCmd : Option Nat
  seq    : Nat
  /-- lanes that were active at its issue (R306), and the number of the next event then (R279) -/
  lanes  : Mask
  stamp  : Nat
  /-- its entry has been claimed while its context was halted: it holds none (R400) -/
  out    : Bool
  deriving DecidableEq, Repr

/-- What a Saddle message carries (R250, R257). -/
inductive SaddleMsg where
  /-- an export -/
  | start (frag : Nat)
  /-- lanes that arrive at barrier b; tok names the wait of a BAR, BAR.ARV has none; stamp is the number of the event after the arrival's -/
  | barArrive (frag group warp b : Nat) (lanes : Mask) (tok : Option Nat) (stamp : Nat)
  /-- generation gen of barrier b has completed -/
  | barDone (frag b gen : Nat)
  /-- granules asked for, granules that answer, and a granule pushed -/
  | pullReq (frag : Nat) (granules : List Nat)
  | pullResp (frag : Nat) (granules : List Nat)
  | push (frag granule : Nat)
  | fragExit (frag group warp : Nat) (lanes : Mask)
  /-- a matrix command for a quadrant; here: it has reached the quadrant, and waits for its tokens or its entry -/
  | matrix (quad : Nat) (vf ctx : Nat) (cmd : MuCmd) (here : Bool)
  deriving DecidableEq, Repr

/-- A message on the Saddle network of a cluster, from port to port: 0 to 7 the quadrants, 8 to 15 the narrow cores (R250). -/
structure Saddle where
  src : Nat
  dst : Nat
  msg : SaddleMsg
  deriving DecidableEq, Repr

/-- An engine command's operation, with its captured operands (R176). -/
inductive EngOp where
  | cpy (src dst rowb rows : Nat) (peer : Nat) (dsp ssp : CpySpace) (sstr dstr : Int) (follow : Option (MuCmd × Nat))
  | gath (gm : Bool) (log : Nat) (d : Nat) (elems : List (Nat × Nat))
  | scat (gm : Bool) (log : Nat) (serial : Nat) (elems : List (Nat × Nat × Nat))
  | walk (merge : Bool) (aadr badr alen blen : Nat) (keys dedup noring : Bool) (ring tag : Nat) (gmDst : Bool) (dst : Nat)
  deriving DecidableEq, Repr

/-- An engine command in a queue (R176 to R178). -/
structure EngCmd where
  id     : Nat
  agent  : Nat
  opId   : Nat
  slotB  : Bool
  flag   : Option Nat
  vf     : Nat
  ctx    : Nat
  prio   : Nat
  /-- the quadrant whose purse pays (R320) -/
  quad   : Nat
  acq    : Bool
  rel    : Bool
  scope  : Nat
  op     : EngOp
  /-- lanes active at its issue whose tasks have not been aborted, and the number of the next event then (R279) -/
  lanes  : Mask
  stamp  : Nat
  /-- chunks paid for (R320) -/
  paid   : Nat
  /-- progress: the byte number of a CPY; for a walk i, j, n and last (R178, R185) -/
  i      : Nat
  j      : Nat
  n      : Nat
  last   : Option Nat
  /-- of a walk: the keys at i and j, once read (R185) -/
  keyA   : Option Nat
  keyB   : Option Nat
  /-- reserved ring slot -/
  slot   : Option Nat
  /-- elements performed, and elements that failed (GATH, SCAT) -/
  done   : Mask
  bad    : Mask
  finished : Bool
  /-- lowest failing element so far: number, cause, address, lane -/
  fail   : Option (Nat × Nat × Nat × Nat)
  /-- the follow-on has been handed over -/
  handed : Bool
  /-- an integrity failure that it met has been reported (R386) -/
  told   : Bool
  /-- it has begun to perform (R397) -/
  begun  : Bool
  seq    : Nat
  /-- its entry has been claimed while its context was halted: it holds none (R400) -/
  out    : Bool
  deriving DecidableEq, Repr

/-- A WB slot: empty, the head of a tile with its record and the tile's contents, or a continuation (R218). Rows holds a column's stored elements as one number, as R226 packs them, and md its metadata; scales stand by column and block. -/
inductive WbSlot where
  | head (fmt : Nat) (pr sp : Bool) (k : Nat) (sc : Bool) (sfmt : Nat) (rows md : List Nat) (scales : List (List Nat)) (slots : Nat)
  | cont
  deriving DecidableEq, Repr

/-- The image of one matrix unit for one context (R218): ACM bytes (unlisted zero), WB slots (unlisted empty), scale cache, queue. -/
structure Mu where
  acm    : List Host.Cell
  wb     : NMap WbSlot
  scache : List Host.Cell
  queue  : List MuCmd
  /-- ACM tiles, WB slots as 16 + slot, and 32 for the scale cache, spilt and not yet filled (R400, R407) -/
  spilt  : List Nat
  unfilled : List Nat
  /-- ACM tiles, WB slots as 16 + slot, and 32 for the scale cache, with a double-bit error (R410) -/
  bad    : List Nat
  deriving DecidableEq, Repr

/-- A task-entry table row (R290). -/
structure TetEntry where
  code    : DWord
  rgn     : Nat
  wgm     : Nat
  nt      : Nat
  gw      : Nat
  nosteal : Bool
  deriving DecidableEq, Repr

/-- A kernel descriptor's snapshot (R341). -/
structure Kernel where
  code    : DWord
  handler : DWord
  tet     : DWord
  save    : DWord
  width   : Nat
  regs    : Nat
  gsize   : Nat
  gmem    : Nat
  fpc     : Word
  en      : Bool
  t       : Nat
  dsn     : Nat
  wdog    : Nat
  entry   : Nat
  deriving DecidableEq, Repr

/-- A launch from its acceptance to its completion (R337 to R348). -/
structure Launch where
  vf      : Nat
  ctx     : Nat
  q       : Nat
  n       : Nat
  arg     : DWord
  ngroups : Nat
  ser     : Bool
  prio    : Nat
  kern    : Kernel
  drn     : Nat
  tsh     : Nat
  tet     : List TetEntry
  hasTet  : Bool
  placed  : Nat
  retired : Nat
  cursor  : Nat
  /-- groups of other launches placed on a cluster since this launch's head group was passed over there (R347) -/
  passed  : NMap Nat
  /-- STATUS (R344) -/
  refused : Bool
  fault   : Bool
  taskFail : Bool
  taskErr : Bool
  lost    : Bool
  first   : Option (Nat × Word × DWord)
  nfault  : Nat
  /-- completion has been reported -/
  done    : Bool
  /-- bytes of the shared task area on each cluster: key cluster, unlisted zero bytes (R292) -/
  tareas  : NMap (List Host.Cell)
  /-- granules that the area holds, by cluster; those that have been spilt, and those not yet filled, by place in the area (R400, R407) -/
  tgran   : NMap (List Nat)
  tspilt  : NMap (List Nat)
  tunfilled : NMap (List Nat)
  deriving DecidableEq, Repr

/-- Which PC slot executes. -/
structure Cur where
  agent : Nat
  slotB : Bool
  deriving DecidableEq, Repr

/-- Why the machine stops. Raised by the shared operations named; each is safe: the machine stops where the manual gives no effect. -/
inductive Fault where
  /-- an instruction executed with no PC slot executing: raised by State.onPath; the step never does this; safe -/
  | noPath
  deriving DecidableEq, Repr

/-- Why the machine refuses. -/
inductive Refusal where
  /-- no meaning has been written for the instruction: raised by its arm of exec; safe -/
  | notModelled (mnemonic : String)
  deriving DecidableEq, Repr

/-- The part of a cluster a VF owns (R372): quadrants, which group-memory banks (log 16), number of L1 banks. -/
structure PartSet where
  qmask : Nat
  gmb   : List Nat
  l1b   : Nat
  deriving DecidableEq, Repr

/-- An entry of a translation cache (R349): tags, translated base, permissions, window. -/
structure TlbEntry where
  vf     : Nat
  pasid  : Nat
  base   : Nat
  size   : Nat
  tbase  : Nat
  r      : Bool
  w      : Bool
  x      : Bool
  win    : Option Nat
  deriving DecidableEq, Repr

/-- Permissions that an access needs (R351). -/
structure Need where
  r : Bool
  w : Bool
  x : Bool
  deriving DecidableEq, Repr

/-- What waits for a translation or a page (R352, R358). -/
inductive Waiter where
  | slot (agent : Nat) (slotB : Bool)
  /-- a path that is parked, by the name of its wait -/
  | park (name : Nat)
  | task (key : Nat)
  | eng (cluster : Nat) (se : Bool) (cmd : Nat)
  | mu (key cmd : Nat)
  /-- the device's own reads and writes for a queue (R338, R344) -/
  | queue (q : QRef)
  /-- a spill or a fill of a context's save area (R402) -/
  | save (vf ctx : Nat)
  deriving DecidableEq, Repr

/-- An outstanding ATS Translation Request (R350, R361). -/
structure AtsReq where
  vf      : Nat
  pasid   : Nat
  /-- 64 KiB page number -/
  page    : Nat
  chiplet : Nat
  exec    : Bool
  /-- invalidations that poisoned it and have not completed -/
  poison  : List Nat
  /-- poisoned, and its completion has not been discarded yet -/
  stale   : Bool
  /-- it has not been sent yet: 256 are outstanding (R350) -/
  queued  : Bool
  waiters : List Waiter
  /-- caches on the way of its requesters, filled by the answer (R349) -/
  fill    : List Nat
  deriving DecidableEq, Repr

/-- A page of an event: the permissions it lacks, the Success responses it has seen, and the group it waits on now (R354, R356). -/
structure WaitPage where
  page : Nat
  need : Need
  succ : Nat
  group : Option Nat
  deriving DecidableEq, Repr

/-- A fault event that waits for page request groups (R352, R354). -/
structure PageWait where
  who   : Waiter
  vf    : Nat
  pasid : Nat
  pages : List WaitPage
  deriving DecidableEq, Repr

/-- A page request group (R352, R353), under a name of the model's own; prgi is none while it waits in the VF's queue. -/
structure PageGroup where
  name  : Nat
  pasid : Nat
  pages : List (Nat × Need)
  prgi  : Option Nat
  /-- the cycle in which its event was detected, and the event's place among those of one cycle (R353, R364) -/
  stamp : Nat
  rank  : List Nat
  deriving DecidableEq, Repr

/-- An outstanding invalidation (R360). -/
structure Inval where
  vf    : Nat
  tag   : Nat
  pasid : Option Nat
  base  : Nat
  size  : Nat
  deriving DecidableEq, Repr

/-- Where a context stands (R395). -/
inductive CtxSt where
  | run | halting | halted | resuming
  deriving DecidableEq, Repr

/-- A registered queue (R337, R338). -/
structure Queue where
  base  : DWord
  caddr : DWord
  en    : Bool
  prio  : Nat
  logn  : Nat
  /-- records accepted, and completions written -/
  accepted : Nat
  completed : Nat
  /-- its completion word is to be rewritten from the journal (R422) -/
  rewrite : Bool
  deriving DecidableEq, Repr

/-- A context of a VF (R370, R395, R403). -/
structure Ctx where
  pasid  : Nat
  st     : CtxSt
  /-- SAVE as snapshotted; none before the first launch (R403) -/
  save   : Option DWord
  queues : NMap Queue
  /-- doorbell of each queue, unlisted 0 (R337, R338) -/
  tails  : NMap Word
  deriving DecidableEq, Repr

/-- A VF's event queue (R371). -/
structure EvQueue where
  addr    : Nat
  loge    : Nat
  seq     : Nat
  dropped : Nat
  deriving DecidableEq, Repr

/-- A virtual function (R367 to R371, R353 to R355, R377, R382, R424). -/
structure Vf where
  enabled : Bool
  /-- which key it holds: a name, never the key (R382) -/
  key     : Nat
  ctxs    : NMap Ctx
  /-- extents in grant order (R385) -/
  extents : List Nat
  /-- L2 slices in order, and the list a change under way will install (R377, R378) -/
  share   : List Nat
  newShare : Option (List Nat)
  /-- milliwatts (R367) -/
  allot   : Nat
  evq     : Option EvQueue
  priEn   : Bool
  priAlloc : Nat
  /-- a Response Failure has stopped its page requests (R355) -/
  priStop : Bool
  groups  : List PageGroup
  /-- dirty tracking, and the dirty 64 KiB pages by number among its extents (R423, R424) -/
  track   : Bool
  dirty   : List Nat
  /-- STOP has been performed: no doorbell is accepted (R425) -/
  stopped : Bool
  /-- the VF time at the halt of STOP (R425, R427) -/
  haltTime : Nat
  deriving DecidableEq, Repr

/-- Owner of an extent (R380). -/
inductive ExtOwner where
  | vf (n : Nat)
  | win (w : Nat)
  deriving DecidableEq, Repr

/-- What the owner tag of a unit of an on-chip array names (R375). -/
inductive Owner where
  | vf (n : Nat)
  | win (w : Nat)
  | dale
  deriving DecidableEq, Repr

/-- A window (R388): members map a VF to 1 (R) or 3 (RW). -/
structure Window where
  home    : Nat
  extents : List Nat
  members : NMap Nat
  key     : Nat
  deriving DecidableEq, Repr

/-- A peer binding (R391). -/
structure PeerBind where
  dev : Nat
  win : Nat
  len : Nat
  deriving DecidableEq, Repr

/-- A request that Dale has taken and not yet finished (R372, R390, R391). -/
inductive Pending where
  | part (cluster vf : Nat) (want : PartSet)
  | winDel (w vf : Nat)
  | peer (vf idx dev win : Nat)
  /-- a share change under way (R378) -/
  | share (vf : Nat)
  deriving DecidableEq, Repr

/-- A management mailbox (R368). -/
structure Mailbox where
  cmd  : Word
  busy : Bool
  result : Nat
  /-- MBDATA0 to MBDATA7, unlisted 0 -/
  data : NMap DWord
  pend : Option Pending
  /-- the arguments of the request, as read at GO -/
  args : NMap DWord
  deriving DecidableEq, Repr

/-- LICINJ of a VF on a chiplet (R316). -/
structure LicInj where
  en  : Bool
  pt  : Nat
  inj : Nat
  deriving DecidableEq, Repr

/-- A licence flit (R315): tokens and the reservation list, each a quadrant 8 * (cluster mod 16) + quad. -/
structure Flit where
  tokens : Nat
  resv   : List Nat
  /-- the next stop it passes -/
  stop   : Nat
  deriving DecidableEq, Repr

/-- A short draw (R319): a PC slot, a forwarded matrix command or an engine chunk. -/
inductive Draw where
  | slot (agent : Nat) (slotB : Bool)
  | fwd (cmd : Nat)
  | eng (se : Bool) (cmd : Nat)
  deriving DecidableEq, Repr

/-- A quadrant's purse (R319, R321): the claimant and its price, the other draws that are short, in the order in which they became so, and the passes at which the claimant was short. -/
structure Purse where
  tokens   : Nat
  claimant : Option (Draw × Nat)
  others   : List (Draw × Nat)
  short    : Nat
  reserved : Bool
  deriving DecidableEq, Repr

/-- A compute chiplet's licence ring and clock (R314 to R316, R325, R326, R412 to R414). Levels 0 to 8 stand for 0.60 to 1.00 GHz. -/
structure Chiplet where
  /-- STEP in effect, and as written for the next lap -/
  step    : Nat
  stepNew : Option Nat
  /-- LICINJ in effect (unlisted 0), and as written for the next lap -/
  inj     : NMap LicInj
  injNew  : NMap LicInj
  fill    : NMap Nat
  flits   : NMap Flit
  lap     : Nat
  /-- spend in this window and in the last lap, the floor, and filler price still to be withheld, by VF -/
  spend   : NMap Nat
  lapSpend : NMap Nat
  floor   : NMap Nat
  debt    : NMap Nat
  /-- shortfall of the last lap, to be met by fillers in the next (R325) -/
  need    : NMap Nat
  votes   : NMap Nat
  level   : Nat
  /-- the level a raise under way steps to -/
  raising : Option Nat
  /-- the run level is held after a vote fell -/
  hold    : Bool
  /-- above 105 and not yet below 100 degrees -/
  hot     : Bool
  fenced  : Bool
  deriving DecidableEq, Repr

/-- Entries of Dale's journal (R421, R427). -/
inductive Jot where
  | accepted (launch : Nat)
  | placed (launch gid : Nat)
  | retired (launch gid : Nat)
  | completed (launch : Nat)
  /-- a packet accepted by a basin: its record, none when it is forwarded, and its sequence number -/
  | packet (cluster : Nat) (record : Option Nat) (num : Option (Nat × Nat))
  | ready (cluster record : Nat)
  | waiting (cluster record : Nat)
  | spec (cluster record : Nat)
  | dispatched (cluster record : Nat)
  | committed (cluster record : Nat)
  | freed (cluster record : Nat)
  | vfTime (vf time : Nat)
  deriving DecidableEq, Repr

/-- A command as a dump shows it: whose it is, and how far it has come. -/
structure CmdState where
  id   : Nat
  vf   : Nat
  ctx  : Nat
  begun : Bool
  finished : Bool
  out  : Bool
  deriving DecidableEq, Repr

/-- A dispatcher as a dump shows it: its bins, each with its number of tasks, its age and whether it is closed; skip count and drain. -/
structure DispState where
  bins  : List (Nat × Nat × Nat × Bool)
  skips : Nat
  drain : Bool
  deriving DecidableEq, Repr

/-- The dump of a fatal error (R420): the errors logged, owner tags, slot tables, the counts of the counter trees' roots, the pointers of queues, basins and journal, and the state of every block's control logic: PC slots, engines, matrix units, Saddle networks, rings, barriers, records, bins, the channel and its credits, stealing, launches, translation and page requests, mailboxes, licence rings, purses, thermal rows, migration. It has no field for a register, a byte of memory, a command's operands or a key. -/
structure Dump where
  number   : Nat
  /-- granules with an integrity failure, and the parts that have failed -/
  poison   : List Nat
  clusters : List Nat
  links    : List Nat
  /-- owners of extents and of parts of clusters -/
  extents  : NMap ExtOwner
  parts    : NMap PartSet
  slotTabs : NMap (List Byte)
  roots    : NMap Nat
  /-- records accepted and completed, by queue -/
  queues   : List (QRef × Nat × Nat)
  /-- entries of each dispatcher's deques, by VF -/
  basins   : NMap (NMap Nat)
  journal  : Nat
  chiplets : NMap Chiplet
  purses   : NMap Purse
  tags     : NMap Owner
  slots    : NMap (Nat × Nat × Core × Wait × Wait)
  engines  : NMap (List CmdState)
  mus      : NMap (List CmdState)
  /-- of each matrix unit, its units that are out, and those not yet filled -/
  muUnits  : NMap (List Nat × List Nat)
  saddle   : NMap (List (Nat × Nat))
  rings    : NMap (Nat × Nat × Nat × Nat)
  barriers : NMap (NMap Nat)
  records  : NMap RecState
  bins     : NMap DispState
  packets  : List (Word × Nat)
  credits  : NMap Nat
  farCredits : NMap Nat
  steals   : NMap (Nat × Nat)
  stealAt  : NMap Nat
  launches : NMap (Nat × Nat)
  ats      : List AtsReq
  waits    : List PageWait
  invals   : List Inval
  /-- page request groups, by VF -/
  groups   : NMap (List PageGroup)
  boxes    : List (Word × Bool)
  slot     : Nat
  hbm      : NMap Nat
  mig      : Word × Bool × Bool
  deriving DecidableEq, Repr

/-- What the device has put on its ports: the model's record (log 10). -/
inductive PortMsg where
  | msix (f : Fn) (vector : Nat)
  | atsRequest (vf pasid page chiplet : Nat) (exec : Bool)
  | pageRequest (vf pasid page : Nat) (need : Need) (last : Bool) (prgi : Nat)
  | invalDone (vf tag : Nat)
  | steal (thief victim vf asked : Nat)
  | peerAsk (vf idx dev win : Nat)
  | peerWrite (dev win off : Nat) (bytes : List Byte)
  | peerData (bytes : List Byte)
  | renq (dst : Word) (ent ackid src : Nat) (launch : LaunchId) (args : List Word)
  | release (h : Word) (word : DWord)
  /-- a basin has accepted, or the device has refused, a peer's packet with an acknowledgement tag (R298) -/
  | packetAck (dev ackid : Nat) (accepted : Bool)
  /-- a slot of a Pass link's class is free again (R297) -/
  | creditBack (link cluster : Nat)
  | spdm (m : SpdmMsg) (payload : List DWord)
  /-- the answer to the PF's request for the dump: the dump, and words of the blocks whose state this model has no names for (R420) -/
  | dumped (d : Dump) (more : List DWord)
  | unavailable
  deriving DecidableEq, Repr

/-- The boot ROM's registers and the firmware (R417, R418). -/
structure Firmware where
  recovery : Bool
  flash    : List Byte
  minSvn   : Nat
  rcvGo    : Bool
  rcvResult : Nat
  rcvAddr  : DWord
  rcvLen   : DWord
  deriving DecidableEq, Repr

/-- What the state records of STOP hold (R425), and the holdings that IMPORT compares (R426). Every ring is among ringsOut: STOP has spilt them all. -/
structure VfImage where
  parts    : NMap PartSet
  share    : Nat
  extents  : Nat
  ctxs     : NMap Ctx
  agents   : NMap Agent
  groups   : NMap Group
  launches : NMap Launch
  ringsOut : NMap Ring
  saddle   : NMap (List Saddle)
  waits    : List PageWait
  engines  : NMap (List EngCmd)
  mus      : NMap Mu
  recs     : NMap TaskRec
  deques   : NMap (List Nat)
  bins     : NMap (NMap Bin)
  packets  : List Packet
  /-- the number of the device it comes from, the old handles that are forwarded there, and the records that wait for a place (R422) -/
  dev      : Nat
  forward  : NMap Nat
  stranded : List (Nat × TaskRec)
  /-- credits in use by its packets at basins of other devices: key 128 * device + cluster (R297) -/
  farUsed  : NMap Nat
  scratch  : NMap (List Host.Cell)
  amax     : NMap AmaxRing
  /-- the VF time at the halt (R427) -/
  time     : Nat
  deriving DecidableEq, Repr

/-- A record of a move, as the host carries it (R423, R425; log 19). -/
inductive MigRecord where
  | page (n round : Nat) (bytes : List Byte)
  | state (img : VfImage)
  /-- a record whose MAC fails (R426) -/
  | altered
  deriving DecidableEq, Repr

/-- The PF's migration block (R423 to R427). -/
structure Migration where
  ctl     : Word
  busy    : Bool
  result  : Nat
  buf     : DWord
  len     : DWord
  cnt     : DWord
  /-- a transport session is open -/
  session : Bool
  /-- round of EXPORT -/
  round   : Nat
  /-- the records in the host's buffer, in order (log 19) -/
  records : List MigRecord
  /-- a VF that has been imported and not started -/
  imported : Option Nat
  deriving DecidableEq, Repr

/-- What a MAC seals in HBM: a granule, or a node of a counter tree; level 0 is a counter block, and tree 64 + w is that of window w (R383, R385; log 33). -/
inductive Sealed where
  | granule (g : Nat)
  | node (tree level i : Nat)
  deriving DecidableEq, Repr

/-- What happens in or around the device and is no event of the opcode table (log 1). -/
inductive Deed where
  /-- L2 gives up a line: the controller writes its granule back (R383, R384) -/
  | writeBack (g : Nat)
  /-- the controller fills a granule, and checks it (R385, R386) -/
  | fill (g : Nat)
  /-- what HBM holds no longer matches its MAC (R386) -/
  | harm (x : Sealed)
  /-- bytes of a peer's window change by the writes of a thread of its device (R281) -/
  | peerWrote (dev win issuer off : Nat) (bytes : List Byte)
  /-- of the 8 bytes of a location, the last but so many write in co takes its place after the next one: no rule has ordered the two (R272, R277) -/
  | reorder (x : Spot) (k : Nat)
  /-- a peer's new-task packet arrives over a Pass link, with its sequence number (R296, R297, R422) -/
  | packetIn (link dev num : Nat) (dst : Word) (ent ackid : Nat) (launch : LaunchId) (args : List Word)
  /-- a peer's release packet arrives over a Pass link (R295 to R297) -/
  | releaseIn (link dev num : Nat) (h : Word)
  /-- a peer acknowledges a packet, or refuses it (R298); a peer's basin returns a credit (R297) -/
  | packetAcked (ackid : Nat) (accepted : Bool)
  | creditIn (dev cluster : Nat)
  /-- the host has filled its migration buffer with the records of a move (R423, R426) -/
  | carried (rs : List MigRecord)
  deriving DecidableEq, Repr

/-- A turn of the machine: a PC slot, a device event, or a deed (log 1). -/
inductive Turn where
  | slot (agent : Nat) (slotB : Bool)
  | event (e : Instr)
  | deed (d : Deed)
  deriving DecidableEq, Repr

/-- The whole machine. -/
structure State where
  /-- the PC slot that executes; none between turns (the model's own, log 1) -/
  cur    : Option Cur
  /-- free values drawn so far (the model's own, log 3) -/
  fresh  : Nat
  /-- steps taken (the model's own, log 1) -/
  turns  : Nat
  /-- device time base in mesh cycles (R54) -/
  time   : Nat
  agents : NMap Agent
  groups : NMap Group
  /-- open rings: key 64 * cluster + id (R171) -/
  rings  : NMap Ring
  /-- rings of halted contexts whose records have been claimed: key 8192 * (16 * VF + context) + 64 * cluster + id (R400, R401) -/
  ringsOut : NMap Ring
  amax   : NMap AmaxRing
  /-- AMAX_LOST and GM_OOR: key 64 * cluster + VF (R215) -/
  amaxLost : NMap Nat
  gmOor  : NMap Nat
  /-- bytes of group memory with a double-bit error, each as 2^20 * cluster + its place in the banks (R410) -/
  gmBad  : List Nat
  /-- commands whose entry in a queue or in an engine's buffers has a double-bit error (R410) -/
  cmdBad : List Nat
  /-- CE and SE queues: key 2 * cluster, plus 1 for the SE (R176) -/
  engines : NMap (List EngCmd)
  /-- matrix units: key ((cluster * 8 + quad) * 64 + vf) * 16 + ctx (R218) -/
  mus    : NMap Mu
  /-- messages on each cluster's Saddle network, oldest first (R250) -/
  saddle : NMap (List Saddle)
  /-- task records: key 4096 * cluster + record (R293) -/
  recs   : NMap TaskRec
  /-- dispatchers: key 2 * cluster + wide core (R299) -/
  disps  : NMap Dispatcher
  packets : List Packet
  launches : NMap Launch
  /-- scratch bytes of waves, by agent (R292) -/
  scratch : NMap (List Host.Cell)
  /-- next names: agent, group, launch, command, ring opening, page request group, parked path (the model's own) -/
  nextId : Nat
  /-- offset of each VF's time, unlisted zero (R427) -/
  vfOffset : NMap Nat
  /-- parts of clusters: key 64 * cluster + VF; an unlisted one is empty (R372) -/
  parts  : NMap PartSet
  /-- owner tags of the units of the on-chip arrays but cache lines, by the unit's key; an unlisted one names Dale (R375; log 33) -/
  tags   : NMap Owner
  /-- tenant memory by device address, an unlisted byte 0 (R380, R384, R387) -/
  mem      : List Host.Cell
  /-- host memory outside BAR2 by translated address, an unlisted byte 0 (R350; log 4) -/
  hostMem  : List Host.Cell
  /-- windows of peer devices: key 64 * device + window, unlisted bytes 0 (R179, R281, R391; log 4) -/
  peerMem  : NMap (List Host.Cell)
  /-- this device's number on the fabric (R203; log 21) -/
  devNum   : Nat
  /-- base of BAR2 (R380; log 21) -/
  bar2     : Nat
  /-- MAJOR and minors: key 65 * block + 64 is MAJOR, 65 * block + i minor i, unlisted 0 (R384) -/
  counters : NMap Nat
  /-- nodes of the counter trees: key 65 * (2^20 * (8 * tree + level) + node) + child, child 64 for MAJOR; level 5 is the root (R385) -/
  nodes    : NMap Nat
  /-- tree nodes that the controller's counter cache holds verified (R385) -/
  verified : List Sealed
  /-- what HBM holds that does not match its MAC (R386) -/
  broken   : List Sealed
  /-- 256-byte granules with a write-back to come, each with what HBM holds of it (R384, R421) -/
  dirty    : NMap (List Byte)
  /-- granules with a write-back to come all of whose bytes one instruction or command has written: no fill of them takes place (R386; log 33) -/
  whole    : List Nat
  /-- poisoned granules, in rising order (R386) -/
  poison   : List Nat
  extents  : NMap ExtOwner
  windows  : NMap Window
  /-- peer bindings: key 64 * VF + index (R391) -/
  peers    : NMap PeerBind
  /-- names given to keys so far (R382) -/
  keys     : Nat
  vfs      : NMap Vf
  pfBox    : Mailbox
  vfBoxes  : NMap Mailbox
  /-- group-memory banks of each cluster, unlisted 8 (R373) -/
  splits   : NMap Nat
  /-- translation caches: ATC of chiplet c at c, cluster cache at 100 + cluster, quadrant cache at 1000 + 8 * cluster + quad, narrow cache at 10000 + 8 * cluster + core (R349) -/
  tlb      : NMap (List TlbEntry)
  ats      : List AtsReq
  waits    : List PageWait
  /-- failed translations that a waiter has yet to meet: waiter, PASID, page (R355, R357) -/
  fails    : List (Waiter × Nat × Nat)
  invals   : List Inval
  /-- slot tables by link id, 1,024 bytes each, an unlisted one all open (R392), and those to be installed at the next frame -/
  slotTabs : NMap (List Byte)
  newTabs  : NMap (List Byte)
  /-- link slots opened since the time base started: the number of the last (R394) -/
  slot     : Nat
  chiplets : NMap Chiplet
  /-- purses: key 8 * cluster + quad (R319) -/
  purses   : NMap Purse
  /-- credits used by each sender class at each basin: key 32 * cluster + class (R297) -/
  credits  : NMap Nat
  /-- credits used at the basins of other devices: key 128 * device + cluster (R297) -/
  farCredits : NMap Nat
  /-- steal requests outstanding: key 64 * cluster + VF, the victim and the number asked for (R304) -/
  steals   : NMap (Nat × Nat)
  /-- next place in the thief's round: key 64 * cluster + VF -/
  stealAt  : NMap Nat
  /-- how long a cluster has been idle for a VF, in 32nds of a cycle of its arithmetic clock: key 64 * cluster + VF (R12, R304) -/
  idleAt   : NMap Nat
  /-- cached copies of ring descriptors: VF, PASID, address, the words (R187, R289) -/
  ringCache : List (Nat × Nat × Nat × List DWord)
  /-- thermal row of each stack, unlisted 0 (R415) -/
  hbm      : NMap Nat
  fencedClusters : List Nat
  fencedLinks : List Nat
  journal  : List (Nat × Jot)
  /-- records of failed basins that wait for a free record: old handle, and the record (R422) -/
  stranded : List (Nat × TaskRec)
  /-- records moved to another basin, or imported, whose old handles are still out: the old handle under its VF, 2^32 * VF + handle, and the key of the record that it names now (R422, R426) -/
  forward  : NMap Nat
  /-- the device has power (R422, R428) -/
  powered  : Bool
  /-- what the dump area holds (R420) -/
  dump     : Option Dump
  fw       : Firmware
  spdm     : Bool
  mig      : Migration
  sent     : List PortMsg
  /-- the bytes of the last host BAR read (R288) -/
  hostRead : List Byte
  /-- memory events so far, the newest first: what R272 to R277 relate (the model's own, log 2) -/
  events   : List Ev
  /-- which turn comes next (the model's own, log 1) -/
  agenda   : List Turn
  deriving DecidableEq, Repr

def Mailbox.reset : Mailbox := ⟨0, false, 0, [], none, []⟩
def Firmware.reset : Firmware := ⟨false, [], 0, false, 0, 0, 0⟩
def Migration.reset : Migration := ⟨0, false, 0, 0, 0, 0, false, 0, [], none⟩

/-- The machine right after it has come up (R428): no VF enabled, nothing owned, every chiplet at 0.60 GHz, the time base at 0. Values that the manual does not give are named in logs 4 and 21. -/
def State.reset : State :=
  { cur := none, fresh := 0, turns := 0, time := 0, agents := [], groups := [], rings := [], ringsOut := [], amax := [], amaxLost := [], gmOor := [], gmBad := [], cmdBad := []
    engines := [], mus := [], saddle := [], recs := [], disps := [], packets := [], launches := [], scratch := []
    nextId := 0, vfOffset := [], parts := [], tags := []
    mem := [], hostMem := [], peerMem := [], devNum := 0, bar2 := 2 ^ 40, counters := [], nodes := [], verified := [], broken := [], dirty := [], whole := [], poison := []
    extents := [], windows := [], peers := [], keys := 0, vfs := [], pfBox := Mailbox.reset, vfBoxes := [], splits := []
    tlb := [], ats := [], waits := [], fails := [], invals := [], slotTabs := [], newTabs := [], slot := 0
    chiplets := [], purses := [], credits := [], farCredits := [], steals := [], stealAt := [], idleAt := [], ringCache := [], hbm := []
    fencedClusters := [], fencedLinks := [], journal := [], stranded := [], forward := [], powered := true, dump := none, fw := Firmware.reset, spdm := false
    mig := Migration.reset, sent := [], hostRead := [], events := [], agenda := [] }

end Sys2Proof.Machine
end

