-- ==== Sys2Proof/Machine/Ops.lean ====
section
/-! DEFINITION. Named operations on agents: registers, predicates, flags, special values, active lanes, paths and join records, and moving past an instruction (R46 to R54, R79, R82, R86, R188 to R192). -/

namespace Sys2Proof.Machine

/-- The slot of an agent. -/
def Agent.slot (a : Agent) (b : Bool) : Slot := if b then a.slotB else a.slotA
/-- The agent with a slot replaced. -/
def Agent.setSlot (a : Agent) (b : Bool) (x : Slot) : Agent := if b then { a with slotB := x } else { a with slotA := x }
/-- The agent with a slot's path replaced. -/
def Agent.setPath (a : Agent) (b : Bool) (p : Option Path) : Agent := a.setSlot b { a.slot b with path := p }

/-- Value of v register r of lane L; zero at or above the allocation (R48). -/
def Agent.v (a : Agent) (r L : Nat) : Word := if r < a.nregs then mapGetD a.vregs (64 * r + L) 0 else 0
/-- The agent with v register r of lane L written; discarded at or above the allocation (R48). -/
def Agent.setV (a : Agent) (r L : Nat) (x : Word) : Agent :=
  if r < a.nregs then { a with vregs := mapPut 0 a.vregs (64 * r + L) x } else a
/-- Value of s register r (R50). -/
def Agent.s (a : Agent) (r : Nat) : Word := mapGetD a.sregs r 0
/-- The agent with s register r written. -/
def Agent.setS (a : Agent) (r : Nat) (x : Word) : Agent := { a with sregs := mapPut 0 a.sregs r x }
/-- Predicate p as a set of lanes; p0 is true (R51). -/
def Agent.p (a : Agent) (p : Nat) : Mask := if p = 0 then BitVec.allOnes 64 else mapGetD a.preds p 0
/-- The agent with predicate p of the given lanes set to a value; a write to p0 is discarded (R51). -/
def Agent.setP (a : Agent) (p : Nat) (lanes val : Mask) : Agent :=
  if p = 0 then a else { a with preds := mapPut 0 a.preds p ((a.p p &&& ~~~lanes) ||| (val &&& lanes)) }
/-- Counter of flag f (R52). -/
def Agent.flag (a : Agent) (f : Nat) : Nat := mapGetD a.flags f 0
def Agent.setFlag (a : Agent) (f n : Nat) : Agent := { a with flags := mapPut 0 a.flags f n }
/-- FST: bit i is set when the counter of fi is not zero (R57). -/
def Agent.fst (a : Agent) : Word := BitVec.ofNat 32 ((List.range 12).foldl (fun n i => if a.flag i ≠ 0 then n + 2 ^ i else n) 0)
/-- n consecutive v registers of a lane as one number, the first lowest (R11). -/
def Agent.vN (a : Agent) (r L : Nat) : Nat → Nat
  | 0 => 0
  | n + 1 => (a.v r L).toNat + 2 ^ 32 * a.vN (r + 1) L n
def Agent.sN (a : Agent) (r : Nat) : Nat → Nat
  | 0 => 0
  | n + 1 => (a.s r).toNat + 2 ^ 32 * a.sN (r + 1) n
def Agent.setVN (a : Agent) (r L n x : Nat) : Agent :=
  match n with
  | 0 => a
  | k + 1 => (a.setV r L (BitVec.ofNat 32 x)).setVN (r + 1) L k (x / 2 ^ 32)
def Agent.setSN (a : Agent) (r n x : Nat) : Agent :=
  match n with
  | 0 => a
  | k + 1 => (a.setS r (BitVec.ofNat 32 x)).setSN (r + 1) k (x / 2 ^ 32)
/-- FPC with sticky flags raised (R41). -/
def Agent.raise (a : Agent) (f : FFlags) : Agent := { a with fpc := a.fpc ||| f.zeroExtend 32 }
/-- FPC.FZ, FPC.CLS and FPC.RM (R56). -/
def Agent.fz (a : Agent) : Bool := a.fpc.getLsbD 10
def Agent.cls (a : Agent) : Bool := a.fpc.getLsbD 11
def Agent.rm (a : Agent) : Nat := (a.fpc.extractLsb' 8 2).toNat

/-- Rounding mode of a code; 7 is DYN (R33). -/
def Agent.mode (a : Agent) (code : Nat) : RMode :=
  match (if code = 7 then a.rm else code) with
  | 1 => .rz | 2 => .ru | 3 => .rd | 4 => .ro | _ => .rn

/-- An agent of the machine. -/
def State.agent? (s : State) (id : Nat) : Option Agent := mapGet? s.agents id
/-- The state with an agent replaced. -/
def State.setAgent (s : State) (id : Nat) (a : Agent) : State := { s with agents := mapSet s.agents id a }
def State.modAgent (s : State) (id : Nat) (f : Agent → Agent) : State := { s with agents := mapMod s.agents id f }

/-- Lanes for which a guard holds (R86). -/
def Agent.guardMask (a : Agent) (g : Guard) : Mask :=
  let m := a.p g.pred.toNat
  if g.neg then ~~~m else m
/-- active(L) (R16). -/
def Agent.active (a : Agent) (p : Path) (g : Guard) : Mask := p.mask &&& a.guardMask g
/-- The guard of an instruction that acts once: always, or never (R86). -/
def guardAlways (g : Guard) : Bool := !g.neg

/-- Quadrant 4w + q; for a narrow core its companion (R5, R54). -/
def Core.quad : Core → Nat
  | .wide w q => 4 * w + q
  | .narrow n => n

def Core.isWide (c : Core) : Bool := match c with | .wide _ _ => true | .narrow _ => false

/-- A slot with a path that has just entered it. -/
def Slot.of (p : Option Path) (w : Wait) (stop : Bool) (rank : Nat) : Slot := ⟨p, w, stop, rank, 0, false⟩
def emptySlot : Slot := Slot.of none .none false 0
/-- The quadrant of an agent; of a fragment, its parent's (R54, R219). -/
def State.muQuad (s : State) (a : Agent) : Nat :=
  match a.kind with
  | .frag parent _ _ => ((s.agent? parent).map (fun p => p.core.quad)).getD a.core.quad
  | _ => a.core.quad

/-- VF time: the device time base and the VF's offset (R54, R427). -/
def State.vfTime (s : State) (vf : Nat) : Nat := s.time + mapGetD s.vfOffset vf 0

/-- A special value for a lane by its number (R54). -/
def specialOf (s : State) (a : Agent) (L n : Nat) : Nat :=
  let ones := 2 ^ 32 - 1
  match n with
  | 0x00 => L
  | 0x01 => a.width
  | 0x02 => a.warp
  | 0x03 => a.gid.toNat
  | 0x04 => a.gsize
  | 0x05 => a.ngroups
  | 0x06 => a.cluster
  | 0x07 => s.muQuad a
  | 0x08 => match a.core with | .narrow k => k | _ => ones
  | 0x09 => match a.kind with | .frag _ _ _ => 1 | _ => 0
  | 0x0A => match a.kind with | .wave => mapGetD a.tasks L ones | _ => ones
  | 0x0B => s.vfTime a.vf
  | 0x0C => match a.tickhi with | some w => w.toNat | none => s.vfTime a.vf / 2 ^ 32
  | 0x0D => a.vf
  | 0x0E => 1
  | _ => 0
/-- A special value is 32 bits wide; zero-extended. -/
def specialValue (s : State) (a : Agent) (L n : Nat) : Nat := specialOf s a L n % 2 ^ 32

/-- How an operand's bits are to be read (R84, R91). -/
inductive OpdTy where
  /-- bits or integer of n registers -/
  | bits (n : Nat)
  /-- floating point of a format -/
  | fp (f : Fmt)
  /-- packed pair of a 16-bit format -/
  | pk (f : Fmt)
  deriving DecidableEq, Repr

def OpdTy.regs : OpdTy → Nat
  | .bits n => n
  | .fp f => regsOfTy f
  | .pk _ => 1

/-- An immediate as an operand of a type (R84). -/
def immValue (t : OpdTy) (i : BitVec 8) : Nat :=
  match t with
  | .bits n => wrapNat i.toInt (32 * n)
  | .fp f => encodeExact f (valOfInt i.toInt)
  | .pk f => let c := encodeExact f (valOfInt i.toInt); c + 2 ^ 16 * c

/-- An FP32 code as the FP64 code of the same value (R91). R91 does not say what a NaN becomes: it keeps its sign and its fraction, so that a signalling NaN stays one (log 33; R21, R120, R121, R126). -/
def widenLit (c : Nat) : Nat :=
  if isNaN (decodeVal FP32 c) then 2 ^ 63 * (c / 2 ^ 31) + 0x7FF * 2 ^ 52 + 2 ^ 29 * (c % 2 ^ 23)
  else (convertCode FP64 FP32 .rn false ⟨false, false⟩ c).1
/-- A literal as an operand of a type (R91). -/
def litValue (t : OpdTy) (w : Word) : Nat :=
  match t with
  | .bits n => wrapNat w.toInt (32 * n)
  | .fp f => if f = FP64 then widenLit w.toNat else w.toNat
  | .pk _ => w.toNat

/-- Operand A or B of a lane. -/
def srcValue (s : State) (a : Agent) (t : OpdTy) (L : Nat) (x : Src) : Nat :=
  match x with
  | .vec r => a.vN r.toNat L t.regs
  | .scal r => a.sN r.toNat t.regs
  | .imm i => immValue t i
  | .spec n => specialValue s a L n.toNat

/-- Operand A, or the literal that replaces it (MOV, SMOV: R113). -/
def valA (s : State) (a : Agent) (o : MOps) (t : OpdTy) (L : Nat) : Nat := srcValue s a t L o.a
/-- Operand B, or the literal that replaces it. -/
def valB (s : State) (a : Agent) (o : MOps) (t : OpdTy) (L : Nat) : Nat :=
  match o.lit with
  | some w => litValue t w
  | none => srcValue s a t L o.b
/-- Operand C of n registers. -/
def valC (a : Agent) (o : MOps) (n L : Nat) : Nat := if o.kc then a.sN o.c.toNat n else a.vN o.c.toNat L n

/-- Bytes of an instruction in code (R71). -/
def instrBytes (i : Instr) : Nat := 4 * (encode i).length

/-- Registers an instruction touches: vector reads, vector writes, scalar reads, scalar writes, each a first register and a count; vo: those of its vector writes whose old value it reads too. -/
structure Uses where
  vr : List (Nat × Nat)
  vo : List (Nat × Nat)
  vw : List (Nat × Nat)
  sr : List (Nat × Nat)
  sw : List (Nat × Nat)
  deriving DecidableEq, Repr

/-- Registers of one source operand. -/
def opdUses (u : Opd) (x : Src) : List (Nat × Nat) × List (Nat × Nat) :=
  match u, x with
  | .val n _ _ _ _, .vec r => ([(r.toNat, n)], [])
  | .val n _ _ _ _, .scal r => ([], [(r.toNat, n)])
  | .block n, .scal r => ([], [(r.toNat, n)])
  | _, _ => ([], [])

/-- An instruction whose result is made of the old value of D too: BITF, and PACK of one element (R118, R131). -/
def readsD (i : Instr) : Bool :=
  match i with
  | .bitf _ => true
  | .pack o => !isDense o
  | _ => false
/-- The registers of an instruction by its operand form. -/
def usesOf (i : Instr) : Uses :=
  match shapeOf (expandShort i) with
  | none => ⟨[], [], [], [], []⟩
  | some (o, sh) =>
    let la := o.lit.isSome && sh.lit == .a
    let lb := o.lit.isSome && (sh.lit == .b || sh.lit == .imm)
    let lc := o.lit.isSome && sh.lit == .c
    let ua := if la then ([], []) else opdUses sh.a o.a
    let ub := if lb then ([], []) else opdUses sh.b o.b
    let uc : List (Nat × Nat) × List (Nat × Nat) :=
      if lc then ([], []) else
      match sh.c with
      | .reg n _ _ _ => if o.kc then ([], [(o.c.toNat, n)]) else ([(o.c.toNat, n)], [])
      | _ => ([], [])
    let d := o.d.toNat
    let (vw, sw) : List (Nat × Nat) × List (Nat × Nat) :=
      match sh.d with
      | .vec n => ([(d, n)], [])
      | .scal n => ([], [(d, n)])
      | .either n => if o.kd then ([], [(d, n)]) else ([(d, n)], [])
      | _ => ([], [])
    ⟨ua.1 ++ ub.1 ++ uc.1, if readsD i then vw else [], vw, ua.2 ++ ub.2 ++ uc.2, sw⟩
/-- Vector registers that an instruction reads. -/
def Uses.reads (u : Uses) : List (Nat × Nat) := u.vr ++ u.vo

/-- Two register ranges share a register. -/
def overlaps (x y : Nat × Nat) : Bool := decide (x.1 < y.1 + y.2) && decide (y.1 < x.1 + x.2)

/-- Registers that the staging descriptor names: the first 16 set bits that name registers within the allocation (R63). -/
def Agent.named (a : Agent) : List Nat :=
  ((List.range 32).filterMap (fun i =>
    if a.stgMap.getLsbD i && decide (a.stgBase + i < a.nregs) && decide (a.stgBase + i ≤ 255) then some (a.stgBase + i) else none)).take 16

/-- Registers staged in the near buffer now (R63, R66). -/
def Agent.staged (a : Agent) : List Nat := if a.staging then a.named else []

/-- Lanes in which the staged copy of a register raises when it is read (R409, R410). -/
def Agent.nearBad (a : Agent) (r : Nat) : Mask := mapGetD a.badStg r 0 ||| mapGetD a.stgPar r 0
/-- Lanes in which a transfer that reads a register finds an error: in the staged copy, where there is one (R64, R409). -/
def Agent.rowBad (a : Agent) (r : Nat) : Mask := if a.staged.contains r then a.nearBad r else mapGetD a.bad r 0
/-- The bad rows once the dirty ones among some staged registers have been written back: a row takes what its copy carried (R64, R409; log 30). -/
def Agent.rowsBack (a : Agent) (out : Nat → Bool) : NMap Mask := (a.stgDirty.filter out).foldl (fun l r => mapPut 0 l r (a.nearBad r)) a.bad
/-- The copies of registers just staged carry what their rows do (R66, R409; log 30). -/
def Agent.parOf (a : Agent) (rs : List Nat) : NMap Mask := a.bad.filter (fun x => rs.contains x.1)
/-- The set that the descriptor names is staged again (R66). -/
def Agent.restage (a : Agent) : Agent := { a with staging := true, badStg := [], stgPar := a.parOf a.named }
/-- Some row or copy of the agent is struck. -/
def Agent.marked (a : Agent) : Bool := !(a.bad.isEmpty && a.badStg.isEmpty && a.stgPar.isEmpty)
/-- A register's row and its copy are sound in lanes. -/
def Agent.soundRow (a : Agent) (r : Nat) (m : Mask) : Agent :=
  let clear (l : NMap Mask) : NMap Mask := mapPut 0 l r (mapGetD l r 0 &&& ~~~m)
  { a with bad := clear a.bad, badStg := clear a.badStg, stgPar := clear a.stgPar }

/-- Counters, staging and %tick's latch of an instruction that issues with some active lane (R48, R54, R64, R65). Where R48 says nothing (log 33): REGION's base register is a number in its encoding, not an operand that REG_OOR counts. -/
def Agent.account (a : Agent) (s : State) (i : Instr) : Agent :=
  let u := usesOf i
  let oor := ((u.vr ++ u.vw).filter (fun x => decide (a.nregs < x.1 + x.2))).length
  let st := a.staged
  let slow :=
    match a.core with
    | .narrow _ => 0
    | .wide _ _ => (u.reads.filter (fun x => (List.range x.2).any (fun k => !(st.contains (x.1 + k))))).length
  let dirty := (u.vw.flatMap (fun x => (List.range x.2).map (fun k => x.1 + k))).filter (fun r => st.contains r && !(a.stgDirty.contains r))
  let tick : Bool := match shapeOf (expandShort i) with
    | some (o, _) => o.a == .spec 0x0B || o.b == .spec 0x0B
    | none => false
  { a with
    regOor := a.regOor + oor
    opndSlow := a.opndSlow + slow
    stgDirty := a.stgDirty ++ dirty
    tickhi := if tick then some (BitVec.ofNat 32 (s.vfTime a.vf / 2 ^ 32)) else a.tickhi }

/-- An instruction that issues is counted (R215), and resets the watchdog (R265). -/
def Agent.issued (a : Agent) (s : State) : Agent :=
  { a with insn := a.insn + 1, wdc := 0, bankWait := a.bankWait + Config.bankGap s.fresh }

/-- Removal of retired entries at the top of the stack (R189). -/
def trimStack (st : List Entry) : List Entry := (st.reverse.dropWhile (fun e => e.kind == .retired)).reverse

/-- An entry marked retired. -/
def Entry.retire (e : Entry) : Entry := { e with kind := .retired }

/-- The entry at an index changed. -/
def modEntry (st : List Entry) (i : Nat) (f : Entry → Entry) : List Entry := st.modify i f

/-- One path fewer for the record a path belonged to (R190). A path of the parent's record only ends with its fragment. -/
def Agent.endPath (a : Agent) (j : Jix) : Agent :=
  match j with
  | .own i => { a with stack := modEntry a.stack i (fun e => { e with pend := e.pend - 1 }) }
  | _ => a

/-- A path that belongs to a handler's stopped rest stays stopped (R210). -/
def Agent.holds (a : Agent) (held : Bool) : Bool := a.handler.isSome && held

/-- A slot given a path, with what it waits for. -/
def Agent.take (a : Agent) (b : Bool) (p : Path) (w : Wait) (stop : Bool) (rank : Nat) : Agent :=
  a.setSlot b (Slot.of (some p) w stop rank)

/-- The wait of a path changed, wherever the path is. -/
def Agent.mapWaits (a : Agent) (f : Wait → Wait) : Agent :=
  { a with slotA := { a.slotA with wait := f a.slotA.wait }, slotB := { a.slotB with wait := f a.slotB.wait }
           stack := a.stack.map (fun e => { e with wait := f e.wait }) }

/-- A free slot: A first. -/
def Agent.freeSlot (a : Agent) : Option Bool :=
  if a.slotA.path.isNone then some false else if a.slotB.path.isNone then some true else none

/-- The path arrives at its own record (R190): it stands at index 0 of the record's r. -/
def Agent.arrives (a : Agent) (p : Path) : Bool :=
  match p.jix with
  | .own i =>
    match a.stack[i]? with
    | some e => (e.kind == .join || e.kind == .call) && p.phase == .header && p.pos.ix == 0 && p.pos.hdr == e.pos.hdr
    | none => false
  | _ => false

/-- A slot whose path ends here: its mask is empty, or it arrives and waits for nothing (R168, R190, R216). -/
def Agent.ends (a : Agent) (b : Bool) : Option Jix :=
  match (a.slot b).path with
  | some p => if p.mask = 0 || ((a.slot b).wait == .none && a.arrives p) then some p.jix else none
  | none => none

/-- The index of a record whose PEND is zero. -/
def Agent.completed (a : Agent) : Option Nat :=
  a.stack.findIdx? (fun e => (e.kind == .join || e.kind == .call) && e.pend == 0)

/-- Completion of record i (R191). -/
def Agent.complete (a : Agent) (i rank : Nat) : Agent :=
  match a.stack[i]? with
  | none => a
  | some e =>
    let m := e.mask &&& a.live
    let st := modEntry a.stack i Entry.retire
    if m = 0 then { a with stack := trimStack st }.endPath e.jix
    else
      let p : Path := ⟨⟨e.pos.hdr, 0⟩, m, e.jix, .header⟩
      match a.freeSlot with
      | some b => { a with stack := trimStack st }.take b p .none (a.holds e.held) rank
      | none => { a with stack := modEntry a.stack i (fun x => { x with kind := .path, mask := m, pend := 0, pos := ⟨x.pos.hdr, 0⟩ }) }

/-- The topmost PATH entry of the stack. -/
def Agent.topPath (a : Agent) : Option Nat :=
  (List.range a.stack.length).reverse.find? (fun i => match a.stack[i]? with | some e => e.kind == .path | none => false)

/-- A PATH entry whose lanes have all left it. -/
def Agent.emptyPath (a : Agent) : Option (Nat × Jix) :=
  (List.range a.stack.length).findSome? (fun i => match a.stack[i]? with
    | some e => if e.kind == .path && e.mask == 0 then some (i, e.jix) else none
    | none => none)

/-- One step of R190 to R192: an ending path, then a completed record, then a restored PATH entry. -/
def Agent.settle1 (a : Agent) (rank : Nat) : Option Agent :=
  match a.ends false with
  | some j => some ((a.setPath false none).endPath j)
  | none =>
  match a.ends true with
  | some j => some ((a.setPath true none).endPath j)
  | none =>
  match a.completed with
  | some i => some (a.complete i rank)
  | none =>
  match a.emptyPath with
  | some (i, j) => some ({ a with stack := trimStack (modEntry a.stack i Entry.retire) }.endPath j)
  | none =>
  match a.freeSlot, a.topPath with
  | some b, some i =>
    match a.stack[i]? with
    | some e => some ({ a with stack := trimStack (modEntry a.stack i Entry.retire) }.take b ⟨e.pos, e.mask, e.jix, .header⟩ e.wait (a.holds e.held) rank)
    | none => none
  | _, _ => none

/-- R190 to R192 until nothing more arrives, completes or is restored. -/
def Agent.settle (a : Agent) (rank : Nat) : Nat → Agent
  | 0 => a
  | fuel + 1 =>
    match a.settle1 rank with
    | some a' => a'.settle rank fuel
    | none => a

/-- Enough rounds for a stack. -/
def Agent.settleFuel (a : Agent) : Nat := 4 * a.stack.length + 8

/-- The rank behind every slot (R247). -/
def State.tail (s : State) : Nat := s.time + s.fresh + 1

/-- An agent put back after its paths have moved (R190 to R192). -/
def State.settle (s : State) (id : Nat) (a : Agent) : State := s.setAgent id (a.settle s.tail a.settleFuel)

/-- Lanes removed from every path and every record of an agent (R200). -/
def Agent.dropLanes (a : Agent) (m : Mask) : Agent :=
  let cut (p : Option Path) : Option Path := p.map (fun x => { x with mask := x.mask &&& ~~~m })
  { a with
    live := a.live &&& ~~~m
    slotA := { a.slotA with path := cut a.slotA.path }
    slotB := { a.slotB with path := cut a.slotB.path }
    stack := a.stack.map (fun e => { e with mask := e.mask &&& ~~~m }) }

/-- The path moved past an instruction of n bytes: to the next index of its clause, or past the last one to the next header position (R76, R79). -/
def Path.past (p : Path) (n : Nat) : Path :=
  match p.phase with
  | .header => p
  | .body pc h =>
    let pc' := pc + BitVec.ofNat 64 n
    if p.pos.ix + 1 < h.len.toNat then { p with pos := ⟨p.pos.hdr, p.pos.ix + 1⟩, phase := .body pc' h }
    else { p with pos := ⟨pc', 0⟩, phase := .header }

/-- The path at a header position, index 0. -/
def Path.goto (p : Path) (t : DWord) : Path := { p with pos := ⟨t, 0⟩, phase := .header }

/-- The byte address of the instruction a path stands at. -/
def Path.pc (p : Path) : DWord :=
  match p.phase with
  | .header => p.pos.hdr
  | .body pc _ => pc

/-- An entry in Dale's journal (R421). -/
def State.jot (s : State) (j : Jot) : State := { s with journal := s.journal ++ [(s.journal.length, j)] }
/-- The newest VF time of a VF in the journal (R427). -/
def State.journaled (s : State) (v : Nat) : Option Nat := s.journal.reverse.findSome? (fun x => match x.2 with | .vfTime w t => if w = v then some t else none | _ => none)
/-- The VF time of every enabled VF is journaled (R427). -/
def State.jotTimes (s : State) : State := (s.vfs.filter (fun v => v.2.enabled)).foldl (fun s v => s.jot (.vfTime v.1 (s.vfTime v.1))) s

/-- The executing agent and path. -/
def State.running (s : State) : Option (Nat × Bool × Agent × Path) :=
  match s.cur with
  | none => none
  | some c =>
    match s.agent? c.agent with
    | none => none
    | some a =>
      match (a.slot c.slotB).path with
      | none => none
      | some p => some (c.agent, c.slotB, a, p)

/-- A meaning over the executing agent and path; without one the machine stops (the step never executes without one). -/
def State.onPath (s : State) (k : Nat → Bool → Agent → Path → Host.Outcome State Fault Refusal) : Host.Outcome State Fault Refusal :=
  match s.running with
  | none => .fault .noPath
  | some (id, b, a, p) => k id b a p

/-- The agent after an instruction has issued and its path has moved past it. -/
def State.finish (s : State) (id : Nat) (b : Bool) (i : Instr) (a : Agent) : State :=
  let a := a.issued s
  match (a.slot b).path with
  | none => s.settle id a
  | some p => s.settle id (a.setPath b (some (p.past (instrBytes i))))

end Sys2Proof.Machine
end

