-- ==== Sys2Proof/Machine/Events.lean ====
section
/-! DEFINITION. Memory events, and the relations and axioms of the consistency model over the events recorded so far (R267 to R287; log 2). A list of events stands newest first; co is the order of recording, but for writes that a deed has exchanged (Ev.ord). -/

namespace Sys2Proof.Machine

/-! Scope instances and reach pairs (R268, R269). -/

/-- A thread of the device. -/
def Party.onDevice (p : Party) : Bool := match p.tid with | .host => false | .peer _ => false | _ => true
/-- The thread's scope instance holds another thread (R268). A command stands where the lowest lane of its issuer stands. -/
def Party.holds (p : Party) (scope : Nat) (q : Party) : Bool :=
  p.tid == q.tid || (match scope with
    | 0 => p.onDevice && q.onDevice && p.agent == q.agent
    | 1 => p.onDevice && q.onDevice && p.launch == q.launch && p.cluster == q.cluster && (p.group.isNone || q.group.isNone || p.group == q.group)
    | 2 => p.onDevice && q.onDevice && p.vf == q.vf
    | _ => true)
/-- Two accesses, or fences, form a reach pair (R269). -/
def Ev.reach (d e : Ev) : Bool :=
  d.acc.strong && e.acc.strong && (d.party.tid == e.party.tid || (d.party.holds d.acc.scope e.party && e.party.holds e.acc.scope d.party))

/-! Program order, synchronization, observation and happens-before (R273 to R276, R279 to R288). -/

def Ev.isWrite (e : Ev) (x : Spot) : Bool := e.writes.any (fun w => w.1 == x)
def Ev.isRead (e : Ev) (x : Spot) : Bool := e.reads.any (fun r => r.1 == x)
/-- A write's place in co of a location (R272). -/
def Ev.coKey (e : Ev) (x : Spot) : Nat := match e.ord.find? (fun y => y.1 == x) with | some y => y.2 | none => e.id
/-- The place of the write that has a number. -/
def coAt (t : List Ev) (x : Spot) (n : Nat) : Nat := match t.find? (fun e => e.id == n) with | some e => e.coKey x | none => n
/-- An event precedes another directly in program order, or as if in program order (R270, R279). -/
def Ev.before (d e : Ev) : Bool :=
  decide (d.id < e.id) && ((d.party.tid == e.party.tid && d.party.tid != .link && decide (d.rank < e.rank))
    || e.follows.any (fun x => x.1 == d.party.tid && decide (d.id < x.2)))
/-- The events from which some of the given ones is reached by edges, those among them; every edge goes to a newer event. -/
def pastOf (edge : Ev → Ev → Bool) (goal : List Ev) : List Ev → List Ev
  | [] => goal
  | d :: r => pastOf edge (if goal.any (fun e => edge d e) then d :: goal else goal) r
/-- An event precedes another in program order. -/
def precedes (t : List Ev) (d e : Ev) : Bool := d.id != e.id && (pastOf Ev.before [e] t).any (fun x => x.id == d.id)
/-- The write w lies in the release sequence of the write c of a location: no other write but RMWs between (R273). -/
def relSeq (t : List Ev) (c w : Ev) (x : Spot) : Bool :=
  c.isWrite x && w.isWrite x && decide (c.coKey x ≤ w.coKey x)
    && t.all (fun v => !(v.isWrite x && decide (c.coKey x < v.coKey x) && decide (v.coKey x ≤ w.coKey x)) || v.isRead x)
/-- The carriers of a release event: itself, or for a fence the strong writes that follow it (R273). -/
def relCarriers (t : List Ev) (d : Ev) : List Ev :=
  if !d.writes.isEmpty then [d] else t.filter (fun c => c.acc.strong && !c.writes.isEmpty && precedes t d c)
/-- The carriers of an acquire event: itself, or for a fence the strong reads before it (R273). -/
def acqCarriers (t : List Ev) (e : Ev) : List Ev :=
  if !e.reads.isEmpty then [e] else t.filter (fun r => r.acc.strong && !r.reads.isEmpty && precedes t r e)
/-- A release event synchronizes with an acquire event, each within the other's scope instance (R268, R273). -/
def syncs (t : List Ev) (d e : Ev) : Bool :=
  d.acc.rel && e.acc.acq && d.party.holds d.acc.scope e.party && e.party.holds e.acc.scope d.party
    && (acqCarriers t e).any (fun r => r.reads.any (fun y => match y.2 with
      | none => false
      | some n => t.any (fun w => w.id == n && r.reach w && (relCarriers t d).any (fun c => relSeq t c w y.1))))
/-- A direct edge that a link names (R282, R284, R288); what makes a record ready concerns the next start alone. -/
def linked (t : List Ev) (d e : Ev) : Bool :=
  e.takes.contains (.over (d.party.launch.getD 0)) && d.party.launch.isSome
    || d.gives.any (fun l => match l with
      | .opened n => e.party.launch == some n
      | .made _ => e.takes.contains l && !(t.any (fun v => v.takes.contains l && decide (d.id < v.id) && decide (v.id < e.id)))
      | l => e.takes.contains l)
/-- The edges of happens-before, but for observation (R275, R276). -/
def ordered (t : List Ev) (d e : Ev) : Bool :=
  decide (d.id < e.id) && (d.before e || e.after.contains d.id || linked t d e || syncs t d e || (d.acc.sc && e.acc.sc && d.reach e))
/-- A write that the thread of an acquire or release event has read happens before that event (R274). -/
def observed (t : List Ev) (w e : Ev) : Bool :=
  (e.acc.acq || e.acc.rel) && t.any (fun r => r.reads.any (fun y => y.2 == some w.id) && (r.id == e.id || precedes t r e))
/-- The events that happen before an event of the list (R276). An observed write brings itself alone: what precedes it in its own thread stays unordered, as the MP table has it (log 2). -/
def happened (t : List Ev) (e : Ev) : List Ev :=
  let p := pastOf (ordered t) [e] t
  (p ++ t.filter (fun w => p.any (fun a => observed t w a))).filter (fun x => x.id != e.id)

/-! The axioms for a read (R271, R277, R278). Events are recorded in an order that contains po, rf, co and S, so that axioms 1, 2, 5 and 6 hold of every list; an exchange in co (State.reorder) keeps all of them. -/

/-- A write follows a read's source in co. -/
def laterThan (t : List Ev) (x : Spot) (w : Ev) (src : Option Nat) : Bool := match src with | none => true | some n => decide (coAt t x n < w.coKey x)
/-- Axiom 3: no later write of the location happens before the read. -/
def visible (t : List Ev) (e : Ev) (x : Spot) (src : Option Nat) : Bool :=
  let e' := { e with reads := [(x, src)] }
  !((happened (e' :: t) e').any (fun w => w.isWrite x && laterThan t x w src))
/-- A strong read whose scope instance holds the thread of a weak write: the CoWW table counts it for axiom 4 (DEDUCED, log 2). -/
def Ev.sees (r w : Ev) : Bool := r.acc.strong && !r.reads.isEmpty && !w.acc.strong && r.party.holds r.acc.scope w.party
/-- An edge of rf, co or fr between events of a reach pair, or of program order between strong accesses of one thread (axiom 4). -/
def cohEdge (t : List Ev) (x : Spot) (a b : Ev) : Bool :=
  a.id != b.id && (
    ((a.reach b || b.sees a) && b.reads.contains (x, some a.id))
    || (a.reach b && a.isWrite x && b.isWrite x && decide (a.coKey x < b.coKey x))
    || ((a.reach b || a.sees b) && b.isWrite x && a.reads.any (fun y => y.1 == x && laterThan t x b y.2))
    || (a.party.tid == b.party.tid && a.acc.strong && b.acc.strong && precedes t a b))
/-- Events of a list reached by edges in so many rounds. -/
def reached (edge : Ev → Ev → Bool) (t : List Ev) (seen : List Ev) : Nat → List Ev
  | 0 => seen
  | n + 1 => reached edge t (t.filter (fun b => seen.any (fun a => a.id == b.id || edge a b))) n
/-- Axiom 4 for a read: no cycle of the location passes through it. -/
def coherent (t : List Ev) (e : Ev) (x : Spot) (src : Option Nat) : Bool :=
  let e' := { e with reads := [(x, src)] }
  let l := e' :: t.filter (fun d => d.isRead x || d.isWrite x)
  let edge := cohEdge (e' :: t) x
  !((reached edge l (l.filter (fun b => edge e' b)) l.length).any (fun d => d.id == e.id))
/-- The aligned 8 bytes of a location (R154). -/
def Spot.block8 (x : Spot) : Nat × Nat × Nat :=
  match x with
  | .glob (.dev d) => (0, 0, d / 8)
  | .glob (.host h) => (1, 0, h / 8)
  | .gm (.group g k) => (2, g, k / 8)
  | .gm (.shared l c k) => (3, 128 * l + c, k / 8)
  | .gm (.scratch a k) => (4, a, k / 8)
  | .gm .out => (5, 0, 0)
  | .peer key k => (6, key, k / 8)
/-- R271: a single-copy atomic read takes all of its bytes that an atomic write wrote from it or from later writes. -/
def whole (t : List Ev) (e : Ev) : Bool :=
  !e.sca || e.reads.all (fun y => match y.2 with
    | none => true
    | some n => t.all (fun w => !(w.id == n && w.sca) || e.reads.all (fun z => !(z.1.block8 == y.1.block8 && w.isWrite z.1) || (match z.2 with | none => false | some m => decide (coAt t z.1 n ≤ coAt t z.1 m)))))
/-- R278: a strong read whose scope holds the writer returns a strong store whose flag was signalled 8,192 mesh cycles before, or a later write. -/
def timely (t : List Ev) (e : Ev) (x : Spot) (src : Option Nat) : Bool :=
  !e.acc.strong || t.all (fun w => !(w.isWrite x && w.acc.strong && laterThan t x w src && e.party.holds e.acc.scope w.party
    && (match w.told with | some n => decide (n + 8192 ≤ e.time) | none => false)))
/-- A read may return the writes that it names. -/
def mayRead (t : List Ev) (e : Ev) : Bool :=
  whole t e && e.reads.all (fun y => visible t e y.1 y.2 && coherent t e y.1 y.2 && timely t e y.1 y.2)

/-! Recording. -/

def Access.weak : Access := ⟨false, 0, false, false, false⟩
/-- A relaxed strong access. -/
def Access.at (scope : Nat) : Access := ⟨true, scope, false, false, false⟩
def Access.release (scope : Nat) : Access := ⟨true, scope, false, true, false⟩
def Access.acquire (scope : Nat) : Access := ⟨true, scope, true, false, false⟩
/-- An event of a thread. -/
def Ev.of (p : Party) (a : Access) : Ev := ⟨0, p, 0, 0, a, [], [], true, [], [], [], [], none, none, 0, []⟩
/-- The number of the next event. -/
def State.nextEv (s : State) : Nat := match s.events with | [] => 0 | e :: _ => e.id + 1
/-- An event as it will be recorded now; a lane's program order is the order of recording (R270). -/
def State.placed (s : State) (e : Ev) : Ev :=
  { e with id := s.nextEv, time := s.time, turn := s.turns, rank := match e.party.tid with | .cmd _ _ _ => e.rank | _ => s.nextEv }
/-- An event recorded. -/
def State.note (s : State) (e : Ev) : State := { s with events := s.placed e :: s.events }
def State.noteAll (s : State) (l : List Ev) : State := l.foldl (fun s e => s.note e) s
/-- The agent whose lanes are the threads of an agent's lanes: its parent for a fragment (R267). -/
def Agent.rootId (a : Agent) (id : Nat) : Nat := match a.kind with | .frag p _ _ => p | _ => id
/-- A lane as a thread. -/
def Agent.party (a : Agent) (id L : Nat) : Party := ⟨.lane (a.rootId id) L, a.vf, some a.launch, a.cluster, a.group, a.rootId id⟩
/-- A fence of lanes, each in its own program order (R166). -/
def State.fenceLanes (s : State) (id : Nat) (a : Agent) (m : Mask) (acc : Access) (gives takes : List Link) : State :=
  s.noteAll ((lanesOf m).map (fun L => { Ev.of (a.party id L) acc with gives := gives, takes := takes }))
/-- An edge between other threads' events. -/
def Ev.link (after : List Nat) (gives takes : List Link) : Ev :=
  { Ev.of ⟨.link, 0, none, 0, none, 0⟩ .weak with after := after, gives := gives, takes := takes }
/-- Something that is waited for under a link has been recorded. -/
def State.offered (s : State) (l : Link) : Bool := s.events.any (fun e => e.gives.contains l)
/-- The threads of the lanes that issued a command, up to its issue (R279). -/
def Agent.issuers (a : Agent) (id : Nat) (m : Mask) (stamp : Nat) : List (Tid × Nat) := (lanesOf m).map (fun L => (.lane (a.rootId id) L, stamp))
/-- A command as a thread, with the scope instances of its issuer's lowest lane (R268). -/
def Agent.command (a : Agent) (id cmd : Nat) (flag : Option Nat) (m : Mask) : Party := { a.party id (lowLane m) with tid := .cmd cmd id flag }
/-- The events of a task that is aborted leave the execution (R285). -/
def State.unsee (s : State) (tid : Tid) : State :=
  if s.events.isEmpty then s else
  { s with events := s.events.map (fun e => if e.party.tid == tid then { e with acc := .weak, reads := [], writes := [], gives := [], takes := [] } else e) }
/-- Locations whose contents a VF's firmware or a reset has replaced start anew. -/
def State.renewSpots (s : State) (p : Spot → Bool) : State :=
  if s.events.isEmpty then s else
  { s with events := s.events.map (fun e => { e with reads := e.reads.filter (fun y => !(p y.1)), writes := e.writes.filter (fun w => !(p w.1)) }) }
/-- The flag of a store has been signalled (R158, R278). -/
def State.tellEvents (s : State) (agent op : Nat) : State :=
  if s.events.isEmpty then s else
  { s with events := s.events.map (fun e => if e.op == some (agent, op) then { e with told := some s.time } else e) }
/-- A clause has waited for flags: what follows comes after the commands that an agent issued against them (R77, R279). -/
def State.joinCommands (s : State) (id : Nat) (a : Agent) (m : Mask) (wait : BitVec 12) : State :=
  let mine := s.events.filterMap (fun e => match e.party.tid with
    | .cmd c ag (some f) => if ag == id && wait.getLsbD f then some (.cmd c ag (some f)) else none
    | _ => none)
  if mine.isEmpty then s
  else s.noteAll ((lanesOf m).map (fun L => { Ev.of (a.party id L) .weak with follows := mine.map (fun c => (c, s.nextEv)) }))

end Sys2Proof.Machine
end

