-- ==== Sys2Proof/Machine/Cells.lean ====
section
/-! DEFINITION. Memory as a list of (address, byte) pairs in one canonical form, and access to the device's memories by translated location (R11, R151, R350, R380, R384, R386, R424). -/

namespace Sys2Proof.Machine

/-- The canonical form of a memory: addresses strictly rising, no byte equal to what an unlisted address reads as. -/
def Memory.wf (m : List Host.Cell) : Bool := mapWf m && m.all (fun x => x.2 != 0)
/-- One byte. -/
def memGet (m : List Host.Cell) (k : Nat) : Byte := mapGetD m k 0
/-- The memory with one byte written. -/
def memSet (m : List Host.Cell) (k : Nat) (b : Byte) : List Host.Cell := mapPut 0 m k b
/-- n bytes from an address. -/
def memRead (m : List Host.Cell) (k : Nat) : Nat → List Byte
  | 0 => []
  | n + 1 => memGet m k :: memRead m (k + 1) n
/-- Bytes written from an address up. -/
def memWrite (m : List Host.Cell) (k : Nat) : List Byte → List Host.Cell
  | [] => m
  | b :: r => memWrite (memSet m k b) (k + 1) r
/-- The bytes of a range cleared. -/
def memClear (m : List Host.Cell) (lo n : Nat) : List Host.Cell := m.filter (fun x => decide (x.1 < lo) || decide (lo + n ≤ x.1))

/-- A number put into a list that rises strictly. -/
def insertNat (l : List Nat) (k : Nat) : List Nat :=
  match l with
  | [] => [k]
  | x :: r => if k < x then k :: x :: r else if k = x then x :: r else x :: insertNat r k

/-- Bytes of tenant memory (R380). -/
def devBytes : Nat := 277 * 2 ^ 30
/-- Size of BAR2 (R380). -/
def bar2Bytes : Nat := 512 * 2 ^ 30
/-- The extent of a device address (R380). -/
def extentOf (d : Nat) : Nat := d / 2 ^ 21
/-- The protection granule of a device address (R383). -/
def granuleOf (d : Nat) : Nat := d / 256

/-- A VF; one never enabled is disabled and owns nothing (R428). -/
def Vf.off : Vf := ⟨false, 0, [], [], [], none, 0, none, false, 0, false, [], false, [], false, 0⟩
def State.vf (s : State) (v : Nat) : Vf := mapGetD s.vfs v Vf.off
/-- A context's slots and commands run (R395, R397). -/
def State.ctxRuns (s : State) (vf ctx : Nat) : Bool :=
  match mapGet? (s.vf vf).ctxs ctx with | some c => c.st == .run | none => true

/-- A context is halting: chunks in progress end (R397). -/
def State.ctxHalting (s : State) (vf ctx : Nat) : Bool :=
  match mapGet? (s.vf vf).ctxs ctx with | some c => c.st == .halting | none => false
/-- A context is halted: its commands are held (R397). -/
def State.ctxHalted (s : State) (vf ctx : Nat) : Bool :=
  match mapGet? (s.vf vf).ctxs ctx with | some c => c.st == .halted | none => false
def State.setVf (s : State) (v : Nat) (x : Vf) : State := { s with vfs := mapPut Vf.off s.vfs v x }
def State.modVf (s : State) (v : Nat) (f : Vf → Vf) : State := s.setVf v (f (s.vf v))

/-- The VF whose extent holds a device address: its owner, or the home of its window. -/
def State.homeOf (s : State) (d : Nat) : Option Nat :=
  match mapGet? s.extents (extentOf d) with
  | some (.vf v) => some v
  | some (.win w) => (mapGet? s.windows w).map (fun x => x.home)
  | none => none

/-- The stack in which a device address lies: H0 to H7 (R380). -/
def stackOf (d : Nat) : Nat := d / 2 ^ 14 % 8
/-- The exclusive or of d[14:7], d[22:15], d[30:23], d[38:31] and d[46:39] (R377). -/
def sliceHash (d : Nat) : Nat := (List.range 5).foldl (fun h k => h ^^^ (d / 2 ^ (7 + 8 * k) % 256)) 0
/-- The L2 slice that holds the line of a device address, and performs its atomics: one of the list of its VF, or of its window's home (R165, R377, R389). -/
def State.sliceOf (s : State) (d : Nat) : Option Nat :=
  (s.homeOf d).bind (fun v => (s.vf v).share[sliceHash d % (s.vf v).share.length]?)

/-- The 64 KiB page of a device address among its owner's extents in grant order (R423). -/
def State.pageNumber (s : State) (v d : Nat) : Option Nat :=
  ((s.vf v).extents.findIdx? (fun e => e == extentOf d)).map (fun k => 32 * k + d % 2 ^ 21 / 2 ^ 16)

/-- A write performed at L2 sets the dirty bit of its page while its VF is tracked (R424). -/
def State.markDirty (s : State) (d : Nat) : State :=
  match s.homeOf d with
  | none => s
  | some v =>
    if (s.vf v).track then
      match s.pageNumber v d with
      | some n => s.modVf v (fun x => { x with dirty := insertNat x.dirty n })
      | none => s
    else s

/-- A granule about to be written in L2: HBM holds what it held (R383, R384). -/
def State.holdLine (s : State) (g : Nat) : State :=
  if (mapGet? s.dirty g).isSome then s else { s with dirty := mapSet s.dirty g (memRead s.mem (256 * g) 256) }
/-- A byte of a location. -/
def State.peek (s : State) (l : Loc) : Byte := match l with | .dev d => memGet s.mem d | .host t => memGet s.hostMem t
/-- A location n bytes on. -/
def Loc.add (l : Loc) (n : Nat) : Loc := match l with | .dev d => .dev (d + n) | .host t => .host (t + n)
/-- n bytes from a location. -/
def State.load (s : State) (l : Loc) (n : Nat) : List Byte := match l with | .dev d => memRead s.mem d n | .host t => memRead s.hostMem t n
/-- Bytes written at a location; its granules will be written back (R383, R384). -/
def State.store (s : State) (l : Loc) (bs : List Byte) : State :=
  match l with
  | .dev d =>
    if bs.isEmpty then s
    else
      let s1 := (List.range (granuleOf (d + bs.length - 1) + 1 - granuleOf d)).foldl (fun s k => (s.holdLine (granuleOf d + k)).markDirty (256 * (granuleOf d + k))) s
      { s1 with mem := memWrite s1.mem d bs }
  | .host t => { s with hostMem := memWrite s.hostMem t bs }
/-- Every granule that n bytes of a location touch is free of poison (R386). -/
def State.sound (s : State) (l : Loc) (n : Nat) : Bool :=
  match l with
  | .dev d => !(s.poison.any (fun g => decide (granuleOf d ≤ g) && decide (g ≤ granuleOf (d + n - 1))))
  | .host _ => true
/-- The 128-byte line of a location, as a number (R309). -/
def Loc.line (l : Loc) : Nat := match l with | .dev d => 2 * (d / 128) | .host t => 2 * (t / 128) + 1
def Loc.granule? (l : Loc) : Option Nat := match l with | .dev d => some (granuleOf d) | .host _ => none

/-- Granules all of whose 256 bytes a set of writes covers (R386). -/
def coveredGranules (ws : List (Loc × Nat)) (poison : List Nat) : List Nat :=
  poison.filter (fun g => (List.range 256).all (fun i =>
    ws.any (fun w => match w.1 with | .dev d => decide (d ≤ 256 * g + i) && decide (256 * g + i < d + w.2) | .host _ => false)))
/-- Poisoned granules that n bytes of a location touch. -/
def State.struckBy (s : State) (l : Loc) (n : Nat) : List Nat :=
  match l with
  | .dev d => s.poison.filter (fun g => decide (granuleOf d ≤ g) && decide (g ≤ granuleOf (d + n - 1)))
  | .host _ => []
/-- A write of part of a poisoned granule meets the failure; one that covers it clears it (R386). -/
def State.writeSound (s : State) (ws : List (Loc × Nat)) (w : Loc × Nat) : Bool :=
  let cov := coveredGranules ws s.poison
  (s.struckBy w.1 w.2).all (fun g => cov.contains g)
/-- The first address of the granule at which n bytes of a location from an address on first meet poison (R386). -/
def State.firstBad (s : State) (va : Nat) (l : Loc) (n : Nat) : Nat :=
  match l, s.struckBy l n with
  | .dev d, g :: _ => 256 * (va / 256 + (g - granuleOf d))
  | _, _ => va / 256 * 256
/-- The first byte of n at a device address whose granule is poisoned and not covered by a set of writes (R386). -/
def State.struckAt (s : State) (ws : List (Loc × Nat)) (d n : Nat) : Nat :=
  match (s.struckBy (.dev d) n).find? (fun g => !((coveredGranules ws s.poison).contains g)) with
  | some g => max d (256 * g)
  | none => d
/-- Granules whose first byte a set of writes holds: those that it may cover whole. -/
def headGranules (ws : List (Loc × Nat)) : List Nat :=
  if (ws.foldl (fun k w => k + w.2) 0) < 256 then []
  else ws.foldl (fun l w => match w.1 with
    | .dev d => ((List.range (granuleOf (d + w.2 - 1) + 1 - granuleOf d)).map (fun k => granuleOf d + k)).foldl (fun l g => if d ≤ 256 * g then insertNat l g else l) l
    | .host _ => l) []
/-- A granule that a write covers whole: its poison is cleared, and L2 holds all of it (R386). -/
def State.renew (s : State) (g : Nat) : State := { s with poison := s.poison.filter (fun x => x != g), whole := insertNat s.whole g }
/-- The granules that a set of writes covers whole are so renewed (R386). -/
def State.clearPoison (s : State) (ws : List (Loc × Nat)) : State := (coveredGranules ws (headGranules ws)).foldl State.renew s

end Sys2Proof.Machine
end

