-- ==== Sys2Proof/Machine/Trap.lean ====
section
/-! DEFINITION. Taking a trap, one shared operation (R18, R58, R210, R211, R254); the return from it (R213); and the abort of a wave's tasks by a trap cause (R306, R307). -/

namespace Sys2Proof.Machine

/-- Trap causes (R18). -/
def cILLOP : Nat := 0x01
def cXLAT : Nat := 0x02
def cMEMINT : Nat := 0x03
def cREGERR : Nat := 0x04
def cALIGN : Nat := 0x05
def cPRIV : Nat := 0x06
def cBKPT : Nat := 0x07
def cDIVERGE : Nat := 0x08
def cRINGERR : Nat := 0x09
def cTASKERR : Nat := 0x0A
def cWDOG : Nat := 0x0B

/-- A trap that belongs to no lane and has no address. -/
def plainTrap (cause : Nat) : TrapInfo := ⟨cause, false, 0, 0⟩

/-- TCAUSE of a trap (R58). -/
def tcauseOf (t : TrapInfo) (frag : Bool) : Word :=
  BitVec.ofNat 32 (t.cause + 2 ^ 16 * t.lane + (if frag then 2 ^ 22 else 0) + (if t.eng then 2 ^ 23 else 0))

def Agent.isFrag (a : Agent) : Bool := match a.kind with | .frag _ _ _ => true | _ => false
def Agent.isWave (a : Agent) : Bool := match a.kind with | .wave => true | _ => false
def Agent.isGrid (a : Agent) : Bool := match a.kind with | .grid => true | _ => false

/-- The launch of an agent. -/
def State.launchOf (s : State) (a : Agent) : Option Launch := mapGet? s.launches a.launch
/-- The handler's header position; 0 for none (R210, R341). -/
def State.handlerOf (s : State) (a : Agent) : DWord := match s.launchOf a with | some l => l.kern.handler | none => 0
/-- The kernel's code base (R189, R341). -/
def State.codeBase (s : State) (a : Agent) : DWord := match s.launchOf a with | some l => l.kern.code | none => 0

/-- A launch changed. -/
def State.modLaunch (s : State) (l : Nat) (f : Launch → Launch) : State := { s with launches := mapMod s.launches l f }

/-- NFAULT saturates (R344). -/
def satCount (n : Nat) : Nat := if n ≥ 2 ^ 32 - 1 then 2 ^ 32 - 1 else n

/-- The first recorded fault of a launch is kept (R344). -/
def Launch.note (l : Launch) (cause : Nat) (ident : Word) (addr : DWord) : Launch :=
  match l.first with
  | some _ => l
  | none => { l with first := some (cause, ident, addr) }

/-- The warp an agent belongs to: a fragment's parent, else itself. -/
def Agent.warpId (a : Agent) (id : Nat) : Nat := match a.kind with | .frag p _ _ => p | _ => id

/-- The live fragments of a warp. -/
def State.fragsOf (s : State) (warp : Nat) : List Nat :=
  s.agents.filterMap (fun x => match x.2.kind with | .frag p _ _ => if p = warp then some x.1 else none | _ => none)

/-- Every path of an agent stops for good; its stack and its handler mode end. -/
def Agent.stop (a : Agent) : Agent :=
  { a with slotA := { a.slotA with path := none, wait := .none }
           slotB := { a.slotB with path := none, wait := .none }
           stack := [], handler := none, faulted := true }

/-- A warp ends with a fault status (R210, R211, R254, R344): its paths and fragments stop, and its group and launch carry the fault. Its lanes stay in E (DEDUCED, log 14). -/
def State.endWarp (s : State) (id : Nat) (a : Agent) (t : TrapInfo) : State :=
  let w := a.warpId id
  let s := (w :: s.fragsOf w).foldl (fun s k => s.modAgent k Agent.stop) s
  match a.group with
  | none => s
  | some g =>
    let already := match mapGet? s.groups g with | some x => x.faulted || x.lost | none => true
    let s := { s with groups := mapMod s.groups g (fun x => { x with faulted := true }) }
    s.modLaunch a.launch (fun l =>
      let l := l.note t.cause a.gid t.addr
      { l with fault := true, nfault := if already then l.nfault else satCount (l.nfault + 1) })

/-- A trap recorded (R66, R210): the staging set is written back, and is staged no more; TPC, TIX, TCAUSE and TADDR are written. -/
def Agent.recordEntry (a : Agent) (pos : Pos) (t : TrapInfo) : Agent :=
  { a with
    tpc := pos.hdr &&& ~~~(3 : DWord)
    tix := BitVec.ofNat 32 pos.ix
    tcause := tcauseOf t a.isFrag
    taddr := t.addr
    staging := false
    bad := a.rowsBack (fun _ => true)
    stgDirty := []
    badStg := []
    stgPar := [] }
/-- Entry of handler mode (R210): the trap is recorded, the other slot and every entry of the stack stop, and the path continues at the handler with its mask and JIX. Its clause has ended, so its slot stands at the tail of its list (R247). -/
def Agent.enterHandler (a : Agent) (b : Bool) (pos : Pos) (t : TrapInfo) (handler : DWord) (tail : Nat) : Agent :=
  let a := { a.recordEntry pos t with handler := some ⟨b⟩, stack := a.stack.map (fun (e : Entry) => { e with held := true }) }
  let o := a.slot (!b)
  let a := a.setSlot (!b) { o with stopped := true }
  let x := a.slot b
  a.setSlot b { x with wait := .none, rank := tail, turn := false, path := x.path.map (fun p => p.goto handler) }

/-- A path re-enters its clause through the header, at the index that it keeps (R81). -/
def Slot.reentered (x : Slot) : Slot := { x with path := x.path.map (fun p => { p with phase := .header }) }
/-- A stopped slot resumes (R81). -/
def Slot.resumed (x : Slot) : Slot := if x.stopped then { x.reentered with stopped := false } else x
/-- The slots resume when handler mode ends (R81, R211, R213). -/
def Agent.leaveHandler (a : Agent) : Agent :=
  { a with handler := none, slotA := a.slotA.resumed, slotB := a.slotB.resumed, stack := a.stack.map (fun e => { e with held := false }) }
/-- No lane of the handler's path is left (R211). -/
def Agent.handlerOver (a : Agent) : Bool :=
  let empty (x : Slot) : Bool := x.stopped || (match x.path with | some p => p.mask == 0 | none => true)
  a.handler.isSome && empty a.slotA && empty a.slotB && a.stack.all (fun e => e.held || e.kind == .retired || e.mask == 0)
/-- Handler mode left once its path is empty (R211). -/
def Agent.endHandler (a : Agent) : Agent := if a.handlerOver then a.leaveHandler else a
/-- The same, once paths have moved: a handler's path also ends by arrival (R190, R211). -/
def State.overHandler (s : State) (id : Nat) : State :=
  match s.agent? id with
  | some a => if a.handlerOver then s.settle id a.leaveHandler else s
  | none => s

/-- Task record of a lane of a wave. -/
def Agent.recKey (a : Agent) (L : Nat) : Option Nat := (mapGet? a.tasks L).map (fun r => 4096 * a.cluster + r)
def State.rec? (s : State) (k : Nat) : Option TaskRec := mapGet? s.recs k
def State.modRec (s : State) (k : Nat) (f : TaskRec → TaskRec) : State := { s with recs := mapMod s.recs k f }

/-- The lane's task is irrevocable (R307). -/
def State.irrevocable (s : State) (a : Agent) (L : Nat) : Bool :=
  match (a.recKey L).bind s.rec? with
  | some r => r.st == .irrev
  | none => false

/-- Lanes of a mask whose tasks are irrevocable, and those whose tasks are not. -/
def State.irrevLanes (s : State) (a : Agent) (m : Mask) : Mask := maskOf (fun L => m.getLsbD L && s.irrevocable a L)

/-- The dispatcher of a wide core. -/
def State.disp (s : State) (cluster core : Nat) : Dispatcher := mapGetD s.disps (2 * cluster + core) ⟨[], [], 0, 0, false⟩
def State.setDisp (s : State) (cluster core : Nat) (d : Dispatcher) : State :=
  { s with disps := mapPut ⟨[], [], 0, 0, false⟩ s.disps (2 * cluster + core) d }
/-- A deque of a VF (R299). -/
def Dispatcher.deque (d : Dispatcher) (vf : Nat) : List Nat := mapGetD d.deques vf []
def Dispatcher.setDeque (d : Dispatcher) (vf : Nat) (q : List Nat) : Dispatcher := { d with deques := mapPut [] d.deques vf q }

/-- A record pushed at the tail, or the head, of a deque. -/
def State.pushTail (s : State) (cluster core vf r : Nat) : State :=
  let d := s.disp cluster core
  s.setDisp cluster core (d.setDeque vf (d.deque vf ++ [r]))
def State.pushHead (s : State) (cluster core vf r : Nat) : State :=
  let d := s.disp cluster core
  s.setDisp cluster core (d.setDeque vf (r :: d.deque vf))

/-- Ways a running task is aborted (R293, R306, R307, R310). -/
inductive AbortHow where
  | requeue
  | trap (t : TrapInfo)
  | fail (t : TrapInfo)
  | page (addrs : List Nat)
  | conflict
  | drop
  deriving DecidableEq, Repr

/-- FREE, or held back from reuse while its handle is attached (R295). -/
def TaskRec.freed (r : TaskRec) : TaskRec :=
  { r with st := if r.attached then .held else .free, buffer := [], lines := [], pages := [], spec := false, aborts := 0, ended := false }

/-- What has made a record ready counts for no later task of it (R284). -/
def State.endMade (s : State) (k : Nat) : State := if s.offered (.made k) then s.note (Ev.link [] [] [.made k]) else s
/-- A record whose task is at its end: free, or held back (R295, R313, R421). -/
def State.endRec (s : State) (k : Nat) : State :=
  let s := s.endMade k
  match s.rec? k with
  | none => s
  | some r => if r.attached then s.modRec k TaskRec.freed else (s.modRec k TaskRec.freed).jot (.freed (k / 4096) (k % 4096))
/-- The record aborted and, when it becomes READY, pushed at the tail of the deque of the wide core where its wave ran (R293); a task that fails is recorded in its launch (R306). -/
def State.abortRec (s : State) (k : Nat) (how : AbortHow) : State :=
  match s.rec? k with
  | none => s
  | some r =>
    let s := if r.st = .irrev then s else s.unsee (.lane r.agent r.lane)
    let clean := { r with buffer := [], lines := [], ended := false }
    let vf := match mapGet? s.launches r.launch with | some l => l.vf | none => 0
    let wait (r : TaskRec) : State := (s.modRec k (fun _ => { r with st := .waiting })).jot (.waiting (k / 4096) (k % 4096))
    let ready (r : TaskRec) : State := ((s.modRec k (fun _ => { r with st := .ready })).pushTail (k / 4096) r.core vf (k % 4096)).jot (.ready (k / 4096) (k % 4096))
    let again (r : TaskRec) : State := if r.spec then wait r else ready r
    let failed (t : TrapInfo) : State :=
      (s.endRec k).modLaunch r.launch (fun l =>
        let l := l.note t.cause (BitVec.ofNat 32 r.entry) t.addr
        { l with taskFail := true, nfault := satCount (l.nfault + 1) })
    match how with
    | .requeue => again clean
    | .trap t => if r.aborts + 1 ≥ 2 then failed t else again { clean with aborts := r.aborts + 1 }
    | .fail t => failed t
    | .page ps => s.modRec k (fun _ => { clean with st := .page, pages := ps })
    | .conflict =>
      -- WAITING with the mark cleared; READY when its packet has been consumed (R310)
      if r.attached then wait { clean with spec := false } else ready { clean with spec := false }
    | .drop => s.endRec k

/-- An operation given up: its flag is signalled and nothing is written. -/
def Agent.cancelOp (a : Agent) (op : Nat) : Agent :=
  match a.ops.find? (fun x => x.id == op) with
  | none => a
  | some x =>
    let a := match x.flag with | some f => a.setFlag f (a.flag f - 1) | none => a
    { a with ops := a.ops.filter (fun y => y.id != op) }
/-- Engine commands on behalf of aborted tasks: their lanes' elements are given up, and a command left with no lane is aborted (R178; log 15). -/
def State.dropCommands (s : State) (id : Nat) (m : Mask) : State :=
  let mine := fun (c : EngCmd) => c.agent == id && !c.handed && (c.lanes &&& m) != 0
  let gone := fun (c : EngCmd) => mine c && (c.lanes &&& ~~~m) == 0
  let ops := s.engines.flatMap (fun q => (q.2.filter gone).map (fun c => c.opId))
  let qs := s.engines.map (fun q => (q.1, (q.2.filter (fun c => !gone c)).map (fun c => if mine c then { c with lanes := c.lanes &&& ~~~m } else c)))
  ops.foldl (fun s op => s.modAgent id (fun a => a.cancelOp op)) { s with engines := qs.filter (fun q => !q.2.isEmpty) }

/-- Lanes of a wave leave it with their tasks aborted. -/
def State.abortLanes (s : State) (id : Nat) (m : Mask) (how : Nat → AbortHow) : State :=
  let s := s.dropCommands id m
  match s.agent? id with
  | none => s
  | some a =>
    let s := (lanesOf m).foldl (fun s L => match a.recKey L with | some k => s.abortRec k (how L) | none => s) s
    let a := { a.dropLanes m with tasks := a.tasks.filter (fun x => !(m.getLsbD x.1)) }
    (s.settle id a).overHandler id

/-- Records whose lanes have ended their tasks in a wave, and which wait there for the speculative mark to clear (R207, R309). -/
def State.endedOf (s : State) (id : Nat) : List Nat := (s.recs.filter (fun x => x.2.agent == id && x.2.st == .running && x.2.ended)).map (fun x => x.1)
/-- Every task of a wave that is not irrevocable is aborted, with those that have ended and wait (R265, R306 to R308); the irrevocable ones as given, or not at all. -/
def State.abortAll (s : State) (id : Nat) (soft : Nat → AbortHow) (hard : Option AbortHow) : State :=
  match s.agent? id with
  | none => s
  | some a =>
    let irr := s.irrevLanes a a.live
    let s1 := (s.endedOf id).foldl (fun s k => s.abortRec k (soft ((s.rec? k).map (fun r => r.lane) |>.getD 0))) s
    match hard with
    | some h => s1.abortLanes id a.live (fun L => if irr.getLsbD L then h else soft L)
    | none => s1.abortLanes id (a.live &&& ~~~irr) soft
/-- A wave ends with a fault status (R307): the irrevocable tasks fail, the others are requeued. -/
def State.endWave (s : State) (id : Nat) (t : TrapInfo) : State := (s.abortAll id (fun _ => .requeue) (some (.fail t))).modAgent id Agent.stop

/-- A trap taken in a slot (R210, R211): a nested one, or one without a handler, ends the agent's warp or wave with a fault status. -/
def State.trapEntry (s : State) (id : Nat) (b : Bool) (pos : Pos) (t : TrapInfo) : State :=
  match s.agent? id with
  | none => s
  | some a =>
    let h := s.handlerOf a
    if a.handler.isSome || h = 0 then
      let a' := if a.handler.isSome then a else a.recordEntry pos t
      if a.isWave then (s.setAgent id a').endWave id t else (s.setAgent id a').endWarp id a' t
    else s.setAgent id (a.enterHandler b pos t h s.tail)

/-- A trap cause met by lanes of an instruction, each with its own lane and address. In a warp or a fragment the trap of the lowest of them is taken. In a wave the tasks that are not irrevocable are aborted, and the trap of the lowest irrevocable lane is taken when one meets it; otherwise the path stays at the instruction with its remaining lanes (R156, R306, R307). -/
def State.raiseAt (s : State) (id : Nat) (b : Bool) (pos : Pos) (lanes : Mask) (t : Nat → TrapInfo) : State :=
  match s.agent? id with
  | none => s
  | some a =>
    if a.isWave then
      let irr := s.irrevLanes a lanes
      let s' := s.abortLanes id (lanes &&& ~~~irr) (fun L => .trap { t L with lane := L })
      if irr = 0 then s' else s'.trapEntry id b pos (t (lowLane irr))
    else s.trapEntry id b pos (t (lowLane lanes))
/-- A trap cause whose lane and address are those of the instruction. -/
def State.raise (s : State) (id : Nat) (b : Bool) (pos : Pos) (lanes : Mask) (t : TrapInfo) : State := s.raiseAt id b pos lanes (fun _ => t)

/-- ILLOP at the instruction a path stands at: in a wave, for the lanes active in it. -/
def State.illop (s : State) (id : Nat) (b : Bool) (p : Path) (lanes : Mask) : State := s.raise id b p.pos lanes (plainTrap cILLOP)

/-- A path runs in a slot that is not stopped. -/
def Agent.runs (a : Agent) (b : Bool) : Bool := (a.slot b).path.isSome && !(a.slot b).stopped
/-- The slot in which the path that entered the handler runs: the slot it entered in, or the other one when only there a path of the handler is left (R213). -/
def Agent.handlerSlot (a : Agent) (h : Handler) : Bool := if a.runs (!h.slotB) && !a.runs h.slotB then !h.slotB else h.slotB
/-- A record or a path that the handler pushed is not retired (R213). -/
def Agent.handlerRecords (a : Agent) : Bool := a.stack.any (fun e => e.kind != .retired && !e.held)

end Sys2Proof.Machine
end

