-- ==== Sys2Proof/Machine/Group.lean ====
section
/-! DEFINITION. Groups: the expected count E, arrivals, withdrawal and completion of barrier generations (R168, R257). -/

namespace Sys2Proof.Machine

def emptyBarrier : Barrier := ⟨0, []⟩
/-- A barrier of a group; one never used is in generation 0 with no arrival. -/
def Group.bar (g : Group) (b : Nat) : Barrier := mapGetD g.barriers b emptyBarrier
def Group.setBar (g : Group) (b : Nat) (x : Barrier) : Group := { g with barriers := mapPut emptyBarrier g.barriers b x }
/-- Lanes of all warps counted. -/
def countLanes (m : NMap Mask) : Nat := (m.map (fun x => popMask x.2)).foldl (· + ·) 0
/-- E: lanes that have not exited (R168). -/
def Group.expected (g : Group) : Nat := countLanes g.live
/-- The open generation's arrival count. -/
def Barrier.count (x : Barrier) : Nat := countLanes x.arrived
/-- A generation completes when its count is at least 1 and equals E (R168). -/
def Group.closeBar (g : Group) (b : Nat) : Group :=
  let x := g.bar b
  if x.count ≥ 1 ∧ x.count = g.expected then g.setBar b ⟨x.gen + 1, []⟩ else g
/-- Lanes of a warp arrive; a lane that has arrived does not arrive again (R168). -/
def Group.arrive (g : Group) (b warp : Nat) (m : Mask) : Group :=
  let x := g.bar b
  (g.setBar b { x with arrived := mapPut 0 x.arrived warp (mapGetD x.arrived warp 0 ||| m) }).closeBar b
/-- Lanes of a warp exit: they leave E and lose their arrivals in open generations (R168). -/
def Group.exit (g : Group) (warp : Nat) (m : Mask) : Group :=
  let g := { g with live := mapPut 0 g.live warp (mapGetD g.live warp 0 &&& ~~~m) }
  (List.range 16).foldl (fun g b =>
    let x := g.bar b
    (g.setBar b { x with arrived := mapPut 0 x.arrived warp (mapGetD x.arrived warp 0 &&& ~~~m) }).closeBar b) g

def State.modGroup (s : State) (g : Nat) (f : Group → Group) : State := { s with groups := mapMod s.groups g f }
/-- The group of an agent. -/
def State.groupOf (s : State) (a : Agent) : Option Group := a.group.bind (fun g => mapGet? s.groups g)

/-- The port of a core on its cluster's Saddle network: 0 to 7 the quadrants, 8 to 15 the narrow cores (R250). -/
def Core.port (c : Core) : Nat := match c with | .wide w q => 4 * w + q | .narrow n => 8 + n
/-- A message sent on a cluster's Saddle network (R250). -/
def State.sendSaddle (s : State) (cluster : Nat) (m : Saddle) : State :=
  { s with saddle := mapPut [] s.saddle cluster (mapGetD s.saddle cluster [] ++ [m]) }
/-- A message from a fragment to its quadrant, and from there to it. The barrier unit is reached through the quadrant's port (log 33). -/
def State.sendUp (s : State) (f : Agent) (m : SaddleMsg) : State := s.sendSaddle f.cluster ⟨f.core.port, s.muQuad f, m⟩
def State.sendDown (s : State) (f : Agent) (m : SaddleMsg) : State := s.sendSaddle f.cluster ⟨s.muQuad f, f.core.port, m⟩

/-- Of messages in the order in which they were sent, those that may be delivered now: none to the same port from the same port was sent before them and has still to be (R250). -/
def Saddle.free (m : Saddle) (before : List Saddle) : Bool :=
  !(before.any (fun x => x.src == m.src && x.dst == m.dst && (match x.msg with | .matrix _ _ _ _ h => !h | _ => true)))
/-- The place of the first message that may be delivered and that a test accepts. -/
def firstFree (p : SaddleMsg → Bool) (l : List Saddle) : Option Nat :=
  (List.range l.length).find? (fun i => match l[i]? with | some m => p m.msg && m.free (l.take i) | none => false)
/-- That message taken from the network of its cluster. -/
def State.takeMsg (s : State) (p : SaddleMsg → Bool) : Option (SaddleMsg × State) :=
  s.saddle.findSome? (fun x => (firstFree p x.2).bind (fun i => (x.2[i]?).map (fun m =>
    (m.msg, { s with saddle := mapPut [] s.saddle x.1 (x.2.eraseIdx i) }))))

/-- A wait for a generation of a barrier that has completed. -/
def Wait.overBar (w : Wait) (b gen : Nat) : Bool :=
  match w with | .bar k n => k == b && decide (n ≤ gen) | .barArv k n _ => k == b && decide (n ≤ gen) | _ => false
/-- A path of the agent, in a slot or pushed, waits for a generation of a barrier. -/
def Agent.awaitsBar (a : Agent) (b gen : Nat) : Bool :=
  a.slotA.wait.overBar b gen || a.slotB.wait.overBar b gen || a.stack.any (fun e => e.wait.overBar b gen)
/-- The fragments of a group that wait for a generation that has completed are told so (R257). -/
def State.tellDone (s : State) (g : Nat) (old new : Group) : State :=
  (List.range 16).foldl (fun s b =>
    let gen := (old.bar b).gen
    if (new.bar b).gen > gen then
      s.agents.foldl (fun s x => if x.2.isFrag && x.2.group == some g && x.2.awaitsBar b gen then s.sendDown x.2 (.barDone x.1 b gen) else s) s
    else s) s
/-- A fragment that resumes is told of the generations that have completed while it was halted (R257, R408). -/
def State.tellAgain (s : State) (id : Nat) : State :=
  match s.agent? id with
  | none => s
  | some f => match f.isFrag, s.groupOf f with
    | true, some g => (List.range 16).foldl (fun s b =>
        let gen := (g.bar b).gen
        if gen > 0 ∧ f.awaitsBar b (gen - 1) = true then s.sendDown f (.barDone id b (gen - 1)) else s) s
    | _, _ => s
/-- A change of a group's barriers at the barrier unit (R168, R257). -/
def State.atBarrier (s : State) (g : Nat) (f : Group → Group) : State :=
  match mapGet? s.groups g with
  | none => s
  | some x => (s.modGroup g (fun _ => f x)).tellDone g x (f x)

/-- Exiting lanes leave the barrier count: at once from a wide core, by a message from a fragment (R257). -/
def State.exitGroup (s : State) (id : Nat) (a : Agent) (m : Mask) : State :=
  match a.group with
  | none => s
  | some g => if a.isFrag then s.sendUp a (.fragExit id g a.warp m) else s.atBarrier g (fun x => x.exit a.warp m)

/-- The record of a cluster in a context's save area; SAVE[23:0] is ignored (R403). -/
def State.saveRecord (s : State) (vf ctx cluster : Nat) : DWord :=
  let save := ((mapGet? (s.vf vf).ctxs ctx).bind (fun c => c.save)).getD 0
  (save &&& ~~~(0xFFFFFF : DWord)) + BitVec.ofNat 64 (0x11000000 * cluster)
/-- The record index of slot unit u of a quadrant, or of a context of a narrow core (R403). -/
def recordIndex (core : Core) (first : Nat) : Nat :=
  match core with
  | .wide w q => 24 * (4 * w + q) + first
  | .narrow n => 192 + 8 * n + first
/-- DSB of an agent on a core with its first unit (R189, R403). -/
def State.dsbAt (s : State) (vf ctx cluster : Nat) (core : Core) (first : Nat) : DWord :=
  s.saveRecord vf ctx cluster + 0x1000000 + BitVec.ofNat 64 (0x100000 * recordIndex core first)
/-- Base of the divergence stack of a fragment, in the save-area region of its context (R195, R403). -/
def State.fragStackBase (s : State) (a : Agent) (n : Nat) (ctxs : List Nat) : DWord :=
  s.dsbAt a.vf a.ctx a.cluster (.narrow n) ((ctxs.head?).getD 0)

end Sys2Proof.Machine
end

