-- ==== Sys2Proof/Machine/Sight.lean ====
section
/-! DEFINITION. Group memory by cell, and what accesses read and write as memory events (R151, R271, R272, R277, R292). -/

namespace Sys2Proof.Machine

/-! Group memory (R151, R292). -/

/-- Bytes of a launch's shared task area on a cluster (R290, R292). -/
def State.tshOf (s : State) (a : Agent) : Nat := match s.launchOf a with | some l => l.tsh | none => 0
/-- The byte that a group-memory address names (R151, R292). -/
def State.gmCell (s : State) (id : Nat) (a : Agent) (k : Nat) : GmCell :=
  match a.group with
  | some g => if k < 4096 * ((s.groupOf a).map (fun x => x.granules.length)).getD 0 then .group g k else .out
  | none =>
    if k < 0x80000 then (if k < s.tshOf a then .shared a.launch a.cluster k else .out)
    else if k - 0x80000 < 4096 * a.gmGran.length then .scratch id (k - 0x80000) else .out
def State.gmPeek (s : State) (c : GmCell) : Byte :=
  match c with
  | .group g k => match mapGet? s.groups g with | some x => memGet x.gm k | none => 0
  | .shared l cl k => match mapGet? s.launches l with | some x => memGet (mapGetD x.tareas cl []) k | none => 0
  | .scratch id k => memGet (mapGetD s.scratch id []) k
  | .out => 0
def State.gmPoke (s : State) (c : GmCell) (v : Byte) : State :=
  match c with
  | .group g k => { s with groups := mapMod s.groups g (fun x => { x with gm := memSet x.gm k v }) }
  | .shared l cl k => { s with launches := mapMod s.launches l (fun x => { x with tareas := mapPut [] x.tareas cl (memSet (mapGetD x.tareas cl []) k v) }) }
  | .scratch id k => { s with scratch := mapPut [] s.scratch id (memSet (mapGetD s.scratch id []) k v) }
  | .out => s
/-- n bytes of group memory from an address modulo 2^32; bytes out of range read zero (R151). -/
def State.gmRead (s : State) (id : Nat) (a : Agent) (k n : Nat) : List Byte :=
  (List.range n).map (fun i => s.gmPeek (s.gmCell id a ((k + i) % 2 ^ 32)))
/-- Where a byte lies among the banks of its cluster, as 2^20 * cluster + place; none when it is out of range (R292, R345). -/
def State.gmPlace (s : State) (a : Agent) (c : GmCell) : Option Nat :=
  let at' (l : List Nat) (k : Nat) : Option Nat := (l[k / 4096]?).map (fun p => 2 ^ 20 * a.cluster + 4096 * p + k % 4096)
  match c with
  | .group g k => (mapGet? s.groups g).bind (fun x => at' x.granules k)
  | .shared l cl k => (mapGet? s.launches l).bind (fun x => at' (mapGetD x.tgran cl []) k)
  | .scratch id k => (s.agent? id).bind (fun x => at' x.gmGran k)
  | .out => none
/-- Some of n bytes has a double-bit error (R410). -/
def State.gmHit (s : State) (id : Nat) (a : Agent) (k n : Nat) : Bool :=
  !s.gmBad.isEmpty && (List.range n).any (fun i => match s.gmPlace a (s.gmCell id a ((k + i) % 2 ^ 32)) with | some x => s.gmBad.contains x | none => false)
/-- MEMINT of lanes that read a byte of group memory with a double-bit error; TADDR holds the group-memory address (R410). -/
def State.gmInt (s : State) (id : Nat) (b : Bool) (p : Path) (hit : List (Nat × Nat)) : State :=
  let m := maskOf (fun L => hit.any (fun x => x.1 == L))
  if hit.isEmpty then s
  else s.raiseAt id b p.pos m (fun L => ⟨cMEMINT, false, L, BitVec.ofNat 64 (((hit.find? (fun x => x.1 == L)).map (fun x => x.2)).getD 0)⟩)

/-- Bytes written to group memory; those out of range are discarded, and the others are sound again (R151; log 30). -/
def State.gmWrite (s : State) (id : Nat) (a : Agent) (k : Nat) (bs : List Byte) : State :=
  let t := (bs.zipIdx).foldl (fun s x => s.gmPoke (s.gmCell id a ((k + x.2) % 2 ^ 32)) x.1) s
  if s.gmBad.isEmpty then t
  else { t with gmBad := t.gmBad.filter (fun y => !((List.range bs.length).any (fun i => s.gmPlace a (s.gmCell id a ((k + i) % 2 ^ 32)) == some y))) }
/-- Granules newly allocated show nothing of what was there, errors included (R292, R376). -/
def State.freshGranules (s : State) (cluster : Nat) (l : List Nat) : State :=
  if s.gmBad.isEmpty then s else { s with gmBad := s.gmBad.filter (fun y => !(l.any (fun p => y / 4096 == 256 * cluster + p))) }
/-- An access that touches bytes out of range is counted (R151, R215). -/
def State.gmCount (s : State) (id : Nat) (a : Agent) (k n : Nat) : State :=
  if (List.range n).any (fun i => s.gmCell id a ((k + i) % 2 ^ 32) == .out) then
    { s with gmOor := mapPut 0 s.gmOor (64 * a.cluster + a.vf) (mapGetD s.gmOor (64 * a.cluster + a.vf) 0 + 1) }
  else s
/-- No granule of the access is still to be filled after resumption (R407). -/
def State.gmFilled (s : State) (a : Agent) (k n : Nat) : Bool :=
  match s.groupOf a with
  | some g => g.unfilled.isEmpty || (List.range n).all (fun i => !(g.unfilled.contains ((k + i) % 2 ^ 32 / 4096)))
  | none =>
    let area := ((s.launchOf a).map (fun l => mapGetD l.tunfilled a.cluster [])).getD []
    (a.gmUnfilled.isEmpty && area.isEmpty) || (List.range n).all (fun i =>
      let x := (k + i) % 2 ^ 32
      if x < 0x80000 then !(area.contains (x / 4096)) else !(a.gmUnfilled.contains ((x - 0x80000) / 4096)))

/-! Reads and writes as events (R270 to R272, R277). -/

/-- The locations of n bytes. -/
def Loc.spots (l : Loc) (n : Nat) : List Spot := (List.range n).map (fun i => .glob (l.add i))
/-- The locations of n bytes of group memory that lie in range. -/
def State.gmSpots (s : State) (id : Nat) (a : Agent) (k n : Nat) : List Spot :=
  ((List.range n).map (fun i => s.gmCell id a ((k + i) % 2 ^ 32))).filterMap (fun c => if c == .out then none else some (.gm c))
/-- The byte of a location's last write in co. -/
def State.spotByte (s : State) (x : Spot) : Byte := match x with | .glob l => s.peek l | .gm c => s.gmPeek c | .peer key k => memGet (mapGetD s.peerMem key []) k
/-- The byte of a location changed. -/
def State.spotPut (s : State) (x : Spot) (v : Byte) : State :=
  match x with
  | .glob l => s.store l [v]
  | .gm c => s.gmPoke c v
  | .peer key k => { s with peerMem := mapPut [] s.peerMem key (memSet (mapGetD s.peerMem key []) k v) }
/-- A write among writes of a location that stand last in co first. -/
def coInsert (x : Spot) (e : Ev) : List Ev → List Ev
  | [] => [e]
  | d :: r => if d.coKey x ≤ e.coKey x then e :: d :: r else d :: coInsert x e r
/-- The recorded writes of a location, the last in co first. -/
def State.writersAt (s : State) (x : Spot) : List Ev := (s.events.filter (fun e => e.isWrite x)).foldr (coInsert x) []
/-- The write k places before the last one of a location; none is the initial value. -/
def State.writeBack (s : State) (x : Spot) (k : Nat) : Option Ev := ((s.writersAt x).drop k).head?
/-- The byte that it wrote, or the initial value. -/
def State.byteBack (s : State) (x : Spot) (k : Nat) : Byte :=
  let of (e : Option Ev) (f : Spot × Byte × Byte → Byte) : Byte := ((e.bind (fun e => e.writes.find? (fun w => w.1 == x))).map f).getD (s.spotByte x)
  match s.writeBack x k with
  | some e => of (some e) (fun w => w.2.2)
  | none => of (s.writersAt x).getLast? (fun w => w.2.1)
/-- A read of locations as an event, each the given number of writes back. -/
def State.readEv (s : State) (e : Ev) (xs : List Spot) (back : Spot → Nat) : Ev :=
  { s.placed e with reads := xs.map (fun x => (x, (s.writeBack x (back x)).map (fun w => w.id))) }
/-- The reads of one instruction, each by its own thread, may return what they name. -/
def State.lawful (s : State) (back : Spot → Nat) : List (Ev × List Spot) → Bool
  | [] => true
  | y :: r =>
    let e := s.readEv y.1 y.2 back
    mayRead s.events e && (s.note e).lawful back r
/-- The bytes that reads return where they are not those of the last write. -/
abbrev View := List (Spot × Byte)
/-- The thread is that of a speculative task (R286). -/
def State.specParty (s : State) (p : Party) : Bool :=
  match p.tid with
  | .lane ag L => (((s.agent? ag).bind (fun a => a.recKey L)).bind s.rec?).any (fun r => r.spec)
  | _ => false
/-- The thread is that of a task. -/
def Party.isTask (p : Party) : Bool := match p.tid with | .lane _ _ => p.group.isNone | _ => false
/-- A speculative task's read passes no write of another task: it returns what it could have returned had the task started at the moment its count reached zero, and a later moment may bring any task's write before that (R286; DEDUCED, log 2). -/
def State.stays (s : State) (y : Ev × List Spot) (back : Spot → Nat) : Bool :=
  !(s.specParty y.1.party) || y.2.all (fun x => !(((s.writersAt x).take (back x)).any (fun w => w.party.isTask)))
/-- Reads of one instruction, each by a thread: recorded, with the older values that they return. One location gives all of them one value (R154). A read before every other event constrains nothing, and is not recorded. Which write is returned is free among those that the rules allow (R277; log 2). -/
def State.sight (s : State) (l : List (Ev × List Spot)) : State × View :=
  if s.events.isEmpty then (s, [])
  else
  let l := l.filter (fun y => !y.2.isEmpty)
  let old := (l.flatMap (fun y => y.2)).filter (fun x => !(s.writersAt x).isEmpty)
  let last : Spot → Nat := fun _ => 0
  let rec' (back : Spot → Nat) : State := l.foldl (fun s y => s.note (s.readEv y.1 y.2 back)) s
  if old.isEmpty then (rec' last, [])
  else
    let back : Spot → Nat := fun x => if old.contains x then Config.readBack s.nextEv (old.idxOf x) else 0
    let ks := old.filter (fun x => back x != 0)
    if ks.isEmpty || !(l.all (fun y => s.stays y back)) || !(s.lawful back l) then (rec' last, [])
    else (rec' back, ks.map (fun x => (x, s.byteBack x (back x))))
/-- A byte as a view has it. -/
def State.byteIn (s : State) (v : View) (x : Spot) : Byte := ((v.find? (fun y => y.1 == x)).map (fun y => y.2)).getD (s.spotByte x)
/-- n bytes from a location, as a view has them. -/
def State.loadIn (s : State) (v : View) (l : Loc) (n : Nat) : List Byte := if v.isEmpty then s.load l n else (l.spots n).map (s.byteIn v)
/-- n bytes of group memory, as a view has them. -/
def State.gmReadIn (s : State) (v : View) (id : Nat) (a : Agent) (k n : Nat) : List Byte :=
  if v.isEmpty then s.gmRead id a k n else (List.range n).map (fun i => s.byteIn v (.gm (s.gmCell id a ((k + i) % 2 ^ 32))))
/-- A write recorded; it is the last in co. -/
def State.wrote (s : State) (e : Ev) (l : List (Spot × Byte)) : State := s.note { e with writes := l.map (fun x => (x.1, s.spotByte x.1, x.2)) }
/-- An RMW recorded: it reads the last write (axiom 5). -/
def State.rewrote (s : State) (e : Ev) (xs : List Spot) (l : List (Spot × Byte)) : State :=
  s.wrote { e with reads := xs.map (fun x => (x, (s.writeBack x 0).map (fun w => w.id))) } l
/-- Bytes written at a location by a thread. -/
def State.put (s : State) (e : Ev) (l : Loc) (bs : List Byte) : State := (s.wrote e ((l.spots bs.length).zip bs)).store l bs
/-- Bytes read and written at a location by an RMW of a thread. -/
def State.putRmw (s : State) (e : Ev) (l : Loc) (bs : List Byte) : State := (s.rewrote e (l.spots bs.length) ((l.spots bs.length).zip bs)).store l bs
/-- The locations that bytes of group memory go to; none for those out of range. -/
def State.gmTargets (s : State) (id : Nat) (a : Agent) (k : Nat) (bs : List Byte) : List (Spot × Byte) :=
  (bs.zipIdx).filterMap (fun x => match s.gmCell id a ((k + x.2) % 2 ^ 32) with | .out => none | c => some (Spot.gm c, x.1))
/-- Bytes written to group memory by a thread; those out of range are no event. -/
def State.gmPut (s : State) (e : Ev) (id : Nat) (a : Agent) (k : Nat) (bs : List Byte) : State :=
  let ws := s.gmTargets id a k bs
  (if ws.isEmpty then s else s.wrote e ws).gmWrite id a k bs
/-- Bytes read and written in group memory by an RMW of a thread. -/
def State.gmPutRmw (s : State) (e : Ev) (id : Nat) (a : Agent) (k : Nat) (bs : List Byte) : State :=
  let ws := s.gmTargets id a k bs
  (if ws.isEmpty then s else s.rewrote e (ws.map (fun x => x.1)) ws).gmWrite id a k bs

/-! Writes that no rule has ordered (R272, R277). -/

/-- Two writes exchanged in co of some locations: each has the other's place there, and its value is what the other finds or leaves. -/
def State.swapped (s : State) (xs : List Spot) (w u : Ev) : State :=
  let old (e : Ev) (x : Spot) : Byte := ((e.writes.find? (fun y => y.1 == x)).map (fun y => y.2.1)).getD 0
  let new (e : Ev) (x : Spot) : Byte := ((e.writes.find? (fun y => y.1 == x)).map (fun y => y.2.2)).getD 0
  let place (e : Ev) (k : Spot → Nat) : List (Spot × Nat) := xs.map (fun x => (x, k x)) ++ e.ord.filter (fun y => !(xs.contains y.1))
  { s with events := s.events.map (fun e =>
      if e.id == w.id then { e with ord := place e u.coKey, writes := e.writes.map (fun y => if xs.contains y.1 then (y.1, new u y.1, y.2.2) else y) }
      else if e.id == u.id then { e with ord := place e w.coKey, writes := e.writes.map (fun y => if xs.contains y.1 then (y.1, old w y.1, y.2.2) else y) }
      else e) }
/-- Every read recorded may return what it names. -/
def State.readsHold (s : State) : Bool := s.events.all (fun e => e.reads.isEmpty || !e.writes.isEmpty || mayRead s.events e)
/-- The next to last but k write of a location takes its place in co after the write that follows it, at the locations of those 8 bytes that both write. Nothing has ordered the two: they are writes of two threads and not of one store, neither is an RMW nor stands before one, neither happens before the other (DEDUCED, log 2), and every read stays one that the axioms allow (R271, R272, R277). -/
def State.reorder (s : State) (x : Spot) (k : Nat) : State :=
  match (s.writersAt x).drop k with
  | u :: w :: _ =>
    let xs := (w.writes.map (fun y => y.1)).filter (fun y => y.block8 == x.block8 && u.isWrite y)
    let at' (y : Spot) : Nat := ((s.writersAt y).map (fun e => e.id)).idxOf u.id
    let near (y : Spot) : Bool := (((s.writersAt y)[at' y + 1]?).map (fun e => e.id)) == some w.id
    let under (y : Spot) : Bool := at' y = 0 || !((((s.writersAt y)[at' y - 1]?).map (fun e => e.isRead y)).getD false)
    let free := u.reads.isEmpty && w.reads.isEmpty && u.party.tid != w.party.tid && !(u.party.agent == w.party.agent && u.turn == w.turn)
      && !((happened s.events u).any (fun e => e.id == w.id)) && !((happened s.events w).any (fun e => e.id == u.id))
    let t := s.swapped xs w u
    if free && xs.all near && xs.all under && t.readsHold then
      (xs.filter (fun y => at' y == 0)).foldl (fun t y => match w.writes.find? (fun z => z.1 == y) with | some z => t.spotPut y z.2.2 | none => t) t
    else s
  | _ => s

/-- A location of a window: its accesses are strong at `.sys` (R153). -/
def State.inWindow (s : State) (l : Loc) : Bool :=
  match l with
  | .dev d => match mapGet? s.extents (extentOf d) with | some (.win _) => true | _ => false
  | .host _ => false
/-- An access at a location: strong at `.sys` in a window, with the acquire or release that it carries (R153). -/
def State.accAt (s : State) (c : Access) (l : Loc) : Access := if s.inWindow l then { c with strong := true, scope := 3 } else c

end Sys2Proof.Machine
end

