-- ==== Sys2Proof/Machine/Xlate.lean ====
section
/-! DEFINITION. Translation through the ATS caches, requests and page request groups, and what an access meets (R156, R349 to R358, R378, R380). -/

namespace Sys2Proof.Machine

/-- The 64 KiB page of an address (R350). -/
def pageOf (va : Nat) : Nat := va / 2 ^ 16

def needR : Need := ⟨true, false, false⟩
def needW : Need := ⟨false, true, false⟩
def needRW : Need := ⟨true, true, false⟩
def needX : Need := ⟨true, false, true⟩
def Need.any (n : Need) : Bool := n.r || n.w || n.x
def Need.or (a b : Need) : Need := ⟨a.r || b.r, a.w || b.w, a.x || b.x⟩
/-- Every permission of a is in b. -/
def Need.le (a b : Need) : Bool := (!a.r || b.r) && (!a.w || b.w) && (!a.x || b.x)
/-- What an entry lacks (R351). -/
def TlbEntry.lacks (e : TlbEntry) (n : Need) : Need := ⟨n.r && !e.r, n.w && !e.w, n.x && !e.x⟩

/-- The caches that serve an agent, nearest first (R349). -/
def Agent.caches (a : Agent) : List Nat :=
  [match a.core with | .wide w q => 1000 + 8 * a.cluster + (4 * w + q) | .narrow n => 10000 + 8 * a.cluster + n,
   100 + a.cluster, a.cluster / 16]
/-- The caches that serve a cluster's engines and matrix units (R349). -/
def clusterCaches (cluster : Nat) : List Nat := [100 + cluster, cluster / 16]

def TlbEntry.covers (e : TlbEntry) (vf pasid va : Nat) : Bool :=
  e.vf == vf && e.pasid == pasid && decide (e.base ≤ va) && decide (va < e.base + e.size)
/-- A cached translation: the nearest cache that holds one (R349). -/
def State.lookup (s : State) (caches : List Nat) (vf pasid va : Nat) : Option TlbEntry :=
  caches.findSome? (fun k => (mapGetD s.tlb k []).find? (fun e => e.covers vf pasid va))

/-- Where a VF's access to a translated address lands; none when no extent of its own or of a window it may use holds it (R380, R388). -/
def State.locate (s : State) (vf t : Nat) (need : Need) : Option Loc :=
  if s.bar2 ≤ t ∧ t < s.bar2 + bar2Bytes then
    let d := t - s.bar2
    if d ≥ devBytes then none
    else match mapGet? s.extents (extentOf d) with
      | some (.vf v) => if v = vf then some (.dev d) else none
      | some (.win w) =>
        match (mapGet? s.windows w).bind (fun x => mapGet? x.members vf) with
        | some perm => if need.w && perm ≠ 3 then none else some (.dev d)
        | none => none
      | none => none
  else some (.host t)

/-- A VF's not-present pages may be asked for (R353, R355). -/
def State.priReady (s : State) (vf : Nat) : Bool :=
  let v := s.vf vf
  v.priEn && !v.priStop && decide (v.priAlloc > 0)

/-- Success responses that a waiter has seen for a page (R356). -/
def State.successes (s : State) (who : Waiter) (pasid page : Nat) : Nat :=
  match s.waits.find? (fun w => w.who == who && w.pasid == pasid) with
  | some w => ((w.pages.find? (fun p => p.page == page)).map (fun p => p.succ)).getD 0
  | none => 0

/-- What one access meets. -/
inductive Xl where
  | ok (l : Loc) (win : Option Nat)
  | miss
  | absent (lack : Need)
  | failed
  deriving DecidableEq, Repr

/-- Translation of one access (R349 to R351, R355, R356, R380). -/
def State.xlate (s : State) (who : Waiter) (caches : List Nat) (vf pasid va : Nat) (need : Need) : Xl :=
  if s.fails.contains (who, pasid, pageOf va) then .failed
  else match s.lookup caches vf pasid va with
    | none => .miss
    | some e =>
      let lack := e.lacks need
      if lack.any then
        if !s.priReady vf || decide (s.successes who pasid (pageOf va) ≥ 4) then .failed else .absent lack
      else match s.locate vf (e.tbase + (va - e.base)) need with
        | some l => .ok l e.win
        | none => .failed

/-- One access of an instruction: lane, address, bytes. -/
structure Acc where
  lane : Nat
  va   : Nat
  n    : Nat
  deriving DecidableEq, Repr

/-- The trap of a lane whose access meets a cause, with the address of its first such access (R156). -/
def laneTrap (cause : Nat) (bad : List Acc) (L : Nat) : TrapInfo :=
  ⟨cause, false, L, BitVec.ofNat 64 (((bad.find? (fun x => x.lane == L)).map (fun x => x.va)).getD 0)⟩

/-- What the accesses of an instruction meet together. -/
inductive Plan where
  | fail (l : List Acc)
  | miss (l : List Acc)
  | absent (l : List (Acc × Need))
  | go (l : List (Acc × Loc))
  deriving DecidableEq, Repr

/-- The first outcome of R156 that some access meets, translations still to come counting before pages not present. -/
def State.plan (s : State) (who : Waiter) (caches : List Nat) (vf pasid : Nat) (need : Need) (l : List Acc) : Plan :=
  let rs := l.map (fun x => (x, s.xlate who caches vf pasid x.va need))
  let failed := rs.filterMap (fun x => match x.2 with | .failed => some x.1 | _ => none)
  let missing := rs.filterMap (fun x => match x.2 with | .miss => some x.1 | _ => none)
  let absent := rs.filterMap (fun x => match x.2 with | .absent k => some (x.1, k) | _ => none)
  if !failed.isEmpty then .fail failed
  else if !missing.isEmpty then .miss missing
  else if !absent.isEmpty then .absent absent
  else .go (rs.filterMap (fun x => match x.2 with | .ok loc _ => some (x.1, loc) | _ => none))

/-- A message put on a port (log 10). -/
def State.emit (s : State) (m : PortMsg) : State := { s with sent := s.sent ++ [m] }

/-- An ATS Translation Request, or another waiter on one outstanding; with 256 outstanding on a chiplet it waits to be sent (R350). -/
def State.ask (s : State) (who : Waiter) (caches : List Nat) (vf pasid page : Nat) (exec : Bool) : State :=
  let chiplet := (caches.getLast?).getD 0
  match s.ats.findIdx? (fun r => r.vf == vf && r.pasid == pasid && r.page == page && r.chiplet == chiplet) with
  | some i => { s with ats := s.ats.modify i (fun r =>
      { r with waiters := if r.waiters.contains who then r.waiters else r.waiters ++ [who], fill := caches.foldl insertNat r.fill }) }
  | none =>
    let full := decide ((s.ats.filter (fun r => r.chiplet == chiplet && !r.queued)).length ≥ 256)
    let s1 : State := { s with ats := s.ats ++ [(⟨vf, pasid, page, chiplet, exec, [], false, full, [who], caches.foldl insertNat []⟩ : AtsReq)] }
    if full then s1 else s1.emit (.atsRequest vf pasid page chiplet exec)

/-- A page with its needs put into a list that rises by page. -/
def insertPage (l : List (Nat × Need)) (p : Nat × Need) : List (Nat × Need) :=
  match l with
  | [] => [p]
  | q :: r => if p.1 < q.1 then p :: q :: r else if p.1 = q.1 then (q.1, q.2.or p.2) :: r else q :: insertPage r p
/-- Lists of at most n, in order; the first argument bounds their number. -/
def chunksOf {α : Type} (fuel n : Nat) (l : List α) : List (List α) :=
  match fuel with
  | 0 => []
  | k + 1 => if l.isEmpty then [] else l.take n :: chunksOf k n (l.drop n)

/-- A request already sent covers what an access lacks: one for W covers a read too (R354). -/
def Need.covers (sent need : Need) : Bool := (!need.r || sent.r || sent.w) && (!need.w || sent.w) && (!need.x || sent.x)
/-- The outstanding or queued group that already asks for a page (R354). -/
def Vf.groupFor (v : Vf) (pasid : Nat) (p : Nat × Need) : Option Nat :=
  (v.groups.find? (fun g => g.pasid == pasid && g.pages.any (fun q => q.1 == p.1 && q.2.covers p.2))).map (fun g => g.name)
/-- Numbers in order, as words are. -/
def listLt : List Nat → List Nat → Bool
  | _, [] => false
  | [], _ :: _ => true
  | x :: l, y :: m => decide (x < y) || (x == y && listLt l m)
/-- A group's event was detected before another's (R353). -/
def PageGroup.before (g h : PageGroup) : Bool := decide (g.stamp < h.stamp) || (g.stamp == h.stamp && listLt g.rank h.rank)
/-- A new group in its place: behind every group but the queued ones whose events come after its own (R353). -/
def insertGroup (g : PageGroup) (l : List PageGroup) : List PageGroup :=
  match l with
  | [] => [g]
  | h :: r => if h.prgi.isNone && g.before h then g :: h :: r else h :: insertGroup g r
/-- The place of an agent's events among those of one cycle: quadrants' agents by `%quad`, first slot unit and slot, then the narrow cores' (R353). -/
def Agent.eventRank (a : Agent) (b : Bool) : List Nat :=
  match a.core with
  | .wide w q => [a.cluster, 0, 4 * w + q, (a.units.head?).getD 0, if b then 1 else 0]
  | .narrow n => [a.cluster, 1, n, (a.units.head?).getD 0, if b then 1 else 0]
/-- The place of a waiter's event among those of one cycle: after the agents the CE, the SE and the MUs, each by issue order (R353). -/
def State.eventRank (s : State) (who : Waiter) : List Nat :=
  match who with
  | .slot id b => match s.agent? id with | some a => a.eventRank b | none => [128]
  | .park _ => [128]
  | .task key => [key / 4096, 5, key]
  | .eng cl se cmd => [cl, if se then 3 else 2, cmd]
  | .mu k cmd => [k / 8192, 4, k / 1024 % 8, cmd]
  | .queue q => [129, q.vf, q.ctx, q.q]
  | .save vf ctx => [130, vf, ctx]
/-- A fault event: its pages that no group asks for yet form groups in the VF's queue (R352 to R354). -/
def State.pageEvent (s : State) (who : Waiter) (vf pasid : Nat) (ps : List (Nat × Need)) : State :=
  let v := s.vf vf
  let new := ps.filter (fun p => (v.groupFor pasid p).isNone)
  let gs := ((chunksOf new.length (min 64 v.priAlloc) new).zipIdx).map (fun c => (⟨s.nextId + c.2, pasid, c.1, none, s.time, s.eventRank who⟩ : PageGroup))
  State.setVf { s with nextId := s.nextId + gs.length } vf { v with groups := gs.foldl (fun l g => insertGroup g l) v.groups }

/-- A waiter's pages: each waits on the group that asks for it, with the responses it has already seen; what it has seen of other pages is kept (R354, R356). -/
def State.await (s : State) (who : Waiter) (vf pasid : Nat) (ps : List (Nat × Need)) : State :=
  let old := ((s.waits.find? (fun w => w.who == who)).map (fun w => w.pages)).getD []
  let pages := ps.map (fun p => (⟨p.1, p.2, s.successes who pasid p.1, (s.vf vf).groupFor pasid p⟩ : WaitPage))
  { s with waits := s.waits.filter (fun w => w.who != who) ++ [⟨who, vf, pasid, old.filter (fun p => !(ps.any (fun q => q.1 == p.page))) ++ pages⟩] }
/-- A waiter under another name, with all that it has seen. -/
def State.rename (s : State) (who new : Waiter) : State :=
  { s with waits := (s.waits.filter (fun w => w.who != new)).map (fun w => if w.who = who then { w with who := new } else w)
           fails := (s.fails.filter (fun f => f.1 != new)).map (fun f => if f.1 = who then (new, f.2) else f) }
/-- A page of a waiter waits for a response. -/
def State.pageWaits (s : State) (who : Waiter) (pasid page : Nat) : Bool :=
  s.waits.any (fun w => w.who == who && w.pasid == pasid && w.pages.any (fun p => p.page == page && p.group.isSome))
/-- Some page of a waiter waits for a response (R355). -/
def State.pageHeld (s : State) (who : Waiter) : Bool := s.waits.any (fun w => w.who == who && w.pages.any (fun p => p.group.isSome))
/-- A waiter waits no more. -/
def State.forget (s : State) (who : Waiter) : State :=
  if s.waits.isEmpty && s.fails.isEmpty then s
  else { s with waits := s.waits.filter (fun w => w.who != who), fails := s.fails.filter (fun f => f.1 != who) }

/-- An answer that makes pages usable: the responses that waiters have seen for them count no more (R356). -/
def State.usable (s : State) (e : TlbEntry) : State :=
  { s with waits := s.waits.map (fun w => { w with pages := w.pages.map (fun p =>
      if p.group.isNone && e.covers w.vf w.pasid (p.page * 2 ^ 16) && !(e.lacks p.need).any then { p with succ := 0 } else p) }) }
/-- What a slot has met of its pages goes with its path when the path leaves the slot: under a new name, at which the path then waits (R355, R356). -/
def State.keepPages (s : State) (id : Nat) (b : Bool) (w : Wait) : State × Wait :=
  let who : Waiter := .slot id b
  let page : Option (Nat × Nat) := match s.fails.find? (fun f => f.1 == who) with
    | some f => some (f.2.1, f.2.2)
    | none => (s.waits.find? (fun x => x.who == who)).bind (fun x => x.pages.head?.map (fun p => (x.pasid, p.page)))
  match w, page with
  | .none, some (pasid, page) => ({ (s.rename who (.park s.nextId)) with nextId := s.nextId + 1 }, .page s.nextId pasid page)
  | w, _ => (s.forget who, w)

/-- The context of an agent, and the PASID its accesses translate under (R370). -/
def State.ctxOf (s : State) (a : Agent) : Option Ctx := mapGet? (s.vf a.vf).ctxs a.ctx
def State.pasidOf (s : State) (vf ctx : Nat) : Nat := ((mapGet? (s.vf vf).ctxs ctx).map (fun c => c.pasid)).getD 0

/-- Pages of accesses, ascending. -/
def pagesOf (l : List (Acc × Need)) : List (Nat × Need) := l.foldl (fun acc x => insertPage acc (pageOf x.1.va, x.2)) []

/-- A slot parks at its position for pages: its event, and a wait that stays with the path wherever it goes (R352, R358). -/
def State.parkOn (s : State) (id : Nat) (b : Bool) (vf pasid : Nat) (ps : List (Nat × Need)) : State :=
  let s1 := (s.pageEvent (.slot id b) vf pasid ps).await (.slot id b) vf pasid ps
  let s2 : State := { (s1.rename (.slot id b) (.park s1.nextId)) with nextId := s1.nextId + 1 }
  s2.modAgent id (fun a => a.setSlot b { a.slot b with wait := .page s1.nextId pasid (((ps.head?).map (fun p => p.1)).getD 0) })
/-- An instruction parks, or its tasks go to PAGE: the tasks that it aborts are one event, and the slot that parks for the irrevocable lanes another (R156, R306, R352, R358). -/
def State.park (s : State) (id : Nat) (b : Bool) (pasid : Nat) (l : List (Acc × Need)) : State :=
  match s.agent? id with
  | none => s
  | some a =>
    let stop (s : State) (l : List (Acc × Need)) : State := s.parkOn id b a.vf pasid (pagesOf l)
    if a.isWave then
      let irr := l.filter (fun x => s.irrevocable a x.1.lane)
      let soft := l.filter (fun x => !s.irrevocable a x.1.lane)
      let lanePages := fun (L : Nat) => pagesOf (soft.filter (fun x => x.1.lane == L))
      let lanes := maskOf (fun L => soft.any (fun x => x.1.lane == L))
      let s2 := (lanesOf lanes).foldl (fun s L => match a.recKey L with
        | some k => s.await (.task k) a.vf pasid (lanePages L) | none => s) (s.pageEvent (.slot id b) a.vf pasid (pagesOf soft))
      let s3 := s2.abortLanes id lanes (fun L => .page ((soft.filter (fun x => x.1.lane == L)).map (fun x => x.1.va)))
      if irr.isEmpty then s3 else stop s3 irr
    else stop s l

/-- A parked slot goes on: its whole instruction executes again under R81, and what it has seen of its pages goes with it (R356, R358). -/
def State.unpark (s : State) (id : Nat) (b : Bool) : State :=
  match s.agent? id with
  | none => s
  | some a =>
    match (a.slot b).wait with
    | .page n _ _ =>
      (s.rename (.park n) (.slot id b)).setAgent id (a.setSlot b { a.slot b with wait := .none, path := (a.slot b).path.map (fun p => { p with phase := .header }) })
    | _ => s

/-- Lines of a VF whose L2 share is changing are held at their source (R378). -/
def State.heldLoc (s : State) (l : Loc) : Bool :=
  match l with
  | .dev d => match s.homeOf d with | some v => (s.vf v).newShare.isSome | none => false
  | .host _ => false

/-- The accesses of a synchronous instruction (R156): a failed translation traps, a missing one is asked for, a page not present parks, and otherwise the rest goes on with every location. -/
def State.access (s : State) (id : Nat) (b : Bool) (a : Agent) (p : Path) (need : Need) (l : List Acc)
    (k : State → List (Acc × Loc) → State) : State :=
  let who : Waiter := .slot id b
  let pasid := s.pasidOf a.vf a.ctx
  match s.plan who a.caches a.vf pasid need l with
  | .fail bad =>
    let m := maskOf (fun L => bad.any (fun x => x.lane == L))
    (s.forget who).raiseAt id b p.pos m (laneTrap cXLAT bad)
  | .miss l => l.foldl (fun s x => s.ask who a.caches a.vf pasid (pageOf x.va) need.x) s
  | .absent l => s.park id b pasid l
  | .go locs => if locs.any (fun x => s.heldLoc x.2) then s else k (s.forget who) locs

/-- One entry written to a VF's event queue, and MSI-X vector 1; none when the entry is not consumed (R371). -/
def State.putEvent (s : State) (vf : Nat) (q : EvQueue) (kind info : Nat) : Option (State × EvQueue) :=
  let at' := q.addr + 16 * (q.seq % 2 ^ q.loge)
  if memRead s.hostMem (at' + 4) 4 = List.replicate 4 0 then
    let s := State.renewSpots { s with hostMem := memWrite s.hostMem at' (bytesOf kind 4 ++ bytesOf (q.seq + 1) 4 ++ bytesOf info 8) }
      (fun x => match x with | .glob (.host t) => decide (at' ≤ t) && decide (t < at' + 16) | _ => false)
    some (s.emit (.msix (.vf vf) 1), { q with seq := q.seq + 1 })
  else none
/-- An event reported in a VF's event queue; after a loss the next successful write is preceded by one LOST entry (R371). -/
def State.postEvent (s : State) (vf kind info : Nat) : State :=
  match (s.vf vf).evq with
  | none => s
  | some q =>
    let drop (s : State) (q : EvQueue) : State := s.modVf vf (fun v => { v with evq := some { q with dropped := q.dropped + 1 } })
    let write (s : State) (q : EvQueue) : State :=
      match s.putEvent vf q kind info with
      | none => drop s q
      | some (s, q) => s.modVf vf (fun v => { v with evq := some q })
    if q.dropped = 0 then write s q
    else match s.putEvent vf q 5 q.dropped with
      | none => drop s q
      | some (s, q) => write s { q with dropped := 0 }

/-- An integrity failure met: one MEMINT event, with the extent, to the VF that owns it, or for a window to the member whose access met it (R371, R386). -/
def State.reportPoison (s : State) (vf : Nat) (l : Loc) : State :=
  match l with
  | .dev d => match mapGet? s.extents (extentOf d) with
    | some (.vf v) => s.postEvent v 1 (extentOf d)
    | some (.win _) => s.postEvent vf 1 (extentOf d)
    | none => s
  | .host _ => s

/-- MEMINT of the lanes whose access meets a poisoned granule (R156, R386): the event goes to the VF, or for a window to the member that met it. -/
def State.memint (s : State) (id : Nat) (b : Bool) (p : Path) (bad : List (Acc × Loc)) : State :=
  let m := maskOf (fun L => bad.any (fun x => x.1.lane == L))
  match bad.find? (fun x => x.1.lane == lowLane m) with
  | none => s
  | some x =>
    let vf := ((s.agent? id).map (fun a => a.vf)).getD 0
    (s.reportPoison vf x.2).raiseAt id b p.pos m (laneTrap cMEMINT (bad.map (fun y => { y.1 with va := y.1.va / 256 * 256 })))

/-- Misaligned accesses trap before any translation (R152, R156). -/
def State.alignAll (s : State) (id : Nat) (b : Bool) (p : Path) (l : List Acc) (k : State) : State :=
  let bad := l.filter (fun x => decide (x.va % x.n ≠ 0))
  let m := maskOf (fun L => bad.any (fun x => x.lane == L))
  if bad.isEmpty then k else s.raiseAt id b p.pos m (laneTrap cALIGN bad)

end Sys2Proof.Machine
end

