-- ==== Sys2Proof/Machine/TaskOps.lean ====
section
/-! DEFINITION. Operations on atomics, dependence words, task records, store buffers and the remote-enqueue channel (R163, R164, R205, R206, R293 to R298, R305 to R310). -/

namespace Sys2Proof.Machine

/-! Atomic operations (R163, R164). -/

/-- The new value, and the flags, of an atomic on an old value; n is 4 or 8 bytes. -/
def atomNew (op : AtomOp) (w64 fz : Bool) (old c cmp : Nat) : Nat × FFlags :=
  let w := if w64 then 64 else 32
  let sg := fun x => sextNat x w
  match op with
  | .addInt => ((old + c) % 2 ^ w, fNone)
  | .addFp =>
    let f := if w64 then FP64 else FP32
    fpAdd f (binOf f) .rn fz (readVal f fz old) (readVal f fz c)
  | .minI => (if sg c < sg old then c else old, fNone)
  | .minN => (min old c, fNone)
  | .maxI => (if sg old < sg c then c else old, fNone)
  | .maxN => (max old c, fNone)
  | .and => (old &&& c, fNone)
  | .or => (old ||| c, fNone)
  | .xor => (old ^^^ c, fNone)
  | .xchg => (c, fNone)
  | .cas => (if old = cmp then c else old, fNone)
  | .inc => (if old ≥ c then 0 else old + 1, fNone)
  | .dec => (if old = 0 ∨ old > c then c else old - 1, fNone)

/-! Task records and the remote-enqueue channel (R203, R205, R206, R293 to R298). -/

/-- The handle none (R203). -/
def noHandle : Word := 0xFFFFFFFF
def State.handleOf (s : State) (cluster r : Nat) : Word := BitVec.ofNat 32 (2 ^ 24 * s.devNum + 2 ^ 12 * cluster + r)
def handleDev (h : Word) : Nat := field h.toNat 24 8
def handleCl (h : Word) : Nat := field h.toNat 12 7
def handleRec (h : Word) : Nat := field h.toNat 0 12
/-- The basin of a handle (R203). -/
def basinOf (h : Word) : Word := h &&& 0xFF07F000

/-- A record is free, and its handle is not out under another's name (R293, R295, R422). -/
def State.recFree (s : State) (k : Nat) : Bool := (match s.rec? k with | some r => r.st == .free | none => true) && !(s.forward.any (fun x => x.1 % 2 ^ 32 == 2 ^ 24 * s.devNum + k))
/-- A free record of a basin; which one is not stated (R205). -/
def State.freeRec (s : State) (cluster : Nat) : Option Nat :=
  ((List.range 4096).map (fun i => (Config.recordHint s.fresh + i) % 4096)).find? (fun r => s.recFree (4096 * cluster + r))
/-- Free records of a basin. -/
def State.freeCount (s : State) (cluster : Nat) : Nat := ((List.range 4096).filter (fun r => s.recFree (4096 * cluster + r))).length

/-- A new record's fields. -/
def newRec (entry : Nat) (args : List Word) (launch core : Nat) (st : RecState) (spec attached : Bool) : TaskRec :=
  ⟨st, entry, args, launch, spec, attached, 0, [], [], [], core, 0, 0, false⟩
/-- A record taken from a basin. -/
def State.takeRec (s : State) (cluster : Nat) (r : TaskRec) : Option (State × Nat) :=
  (s.freeRec cluster).map (fun i =>
    (({ s with recs := mapSet s.recs (4096 * cluster + i) r, fresh := s.fresh + 1 }).jot
      (match r.st with | .waiting => .waiting cluster i | .spec => .spec cluster i | _ => .ready cluster i), i))
/-- Wide cores of a cluster on which a VF owns a quadrant. -/
def State.coresOf (s : State) (cluster vf : Nat) : List Nat :=
  let q := (mapGetD s.parts (64 * cluster + vf) ⟨0, [], 0⟩).qmask
  (if q % 16 ≠ 0 then [0] else []) ++ (if q / 16 % 16 ≠ 0 then [1] else [])
/-- The deque a record goes to that becomes READY other than by FORK (R298). -/
def State.chooseCore (s : State) (cluster vf : Nat) : Nat :=
  match s.coresOf cluster vf with
  | [0, 1] => if ((s.disp cluster 1).deque vf).length < ((s.disp cluster 0).deque vf).length then 1 else 0
  | [c] => c
  | _ => 0

/-- A packet handed to the channel; it waits at its sender until it holds a credit (R296, R297). -/
def State.sendPacket (s : State) (p : Packet) : State := { s with packets := s.packets ++ [p] }
/-- The handle of the record that a moved or imported record's old handle now names, to a VF or, with none given, to any (R422, R426). -/
def State.forwarded (s : State) (vf : Option Nat) (h : Word) : Word :=
  match s.forward.find? (fun x => x.1 % 2 ^ 32 == h.toNat && (match vf with | some v => x.1 / 2 ^ 32 == v | none => true)) with
  | some x => s.handleOf (x.2 / 4096) (x.2 % 4096)
  | none => h
/-- The release packet of a handle (R295). -/
def releaseOf (h : Word) (launch chiplet : Nat) (word : DWord) : Packet := ⟨basinOf h, false, 0, h, launch, [], chiplet, none, false, word, 0, 0xFFFF, none, [], none⟩
/-- The new-task packet of a lane's RENQ (R208, R296). -/
def taskPacket (dst : Word) (entry launch : Nat) (args : List Word) (chiplet : Nat) (ack : Option (Nat × Nat × Nat)) (onAccept : Bool) : Packet :=
  ⟨basinOf dst, true, entry, 0, launch, args, chiplet, ack, onAccept, 0, 0, 0xFFFF, none, [], none⟩

/-- The releases in the unbroken run of RMWs at the end of a location's writes: the DEP.DECs that happen before the start of the task that the word releases (R273, R284). -/
def State.decsAt (s : State) (x : Spot) : List Nat := (((s.writersAt x).takeWhile (fun e => e.isRead x)).filter (fun e => e.acc.rel)).map (fun e => e.id)
/-- An RMW of a dependence word, which writes bytes from a location within it on (R270). -/
def State.depEv (s : State) (p : Party) (c : Access) (l at' : Loc) (bs : List Byte) : State :=
  (s.rewrote (Ev.of p (s.accAt c l)) (l.spots 8) ((at'.spots bs.length).zip bs)).store at' bs
/-- DEP.DEC on the word at a location: the state, the old COUNT, and whether it is an error (R206, R284). One that leaves the word unchanged, and a DEP.ADD or an attach that does, is no RMW event, where R270 does not say (log 33). -/
def State.depDec (s : State) (p : Party) (l : Loc) (va launch chiplet : Nat) : State × Nat × Bool :=
  let w := ofBytes (s.load l 8)
  let count := w % 2 ^ 32
  let task := BitVec.ofNat 32 (w / 2 ^ 32)
  if count = 0 then (s, count, true)
  else if count = 1 ∧ task ≠ noHandle then
    let s1 := s.depEv p (.release 2) l l (bytesOf (2 ^ 32 * noHandle.toNat) 8)
    (s1.sendPacket { releaseOf task launch chiplet (BitVec.ofNat 64 va) with evs := s1.decsAt (.glob l) }, count, false)
  else (s.depEv p (.release 2) l l (bytesOf (count - 1) 4), count, false)
/-- DEP.ADD (R206). -/
def State.depAdd (s : State) (p : Party) (l : Loc) (n : Nat) : State × Nat × Bool :=
  let count := ofBytes (s.load l 4)
  if count + n > 2 ^ 32 - 1 then (s, count, true) else (s.depEv p (.at 2) l l (bytesOf (count + n) 4), count, false)
/-- `attach` (R205, R284): false when the word already names a task. -/
def State.attach (s : State) (p : Party) (l : Loc) (va : Nat) (h : Word) (launch chiplet : Nat) : State × Bool :=
  let w := ofBytes (s.load l 8)
  let count := w % 2 ^ 32
  let task := BitVec.ofNat 32 (w / 2 ^ 32)
  if task ≠ noHandle then (s, false)
  else if count = 0 then
    let s1 := s.rewrote (Ev.of p (s.accAt (.release 2) l)) (l.spots 8) (((l.add 4).spots 4).zip (bytesOf task.toNat 4))
    (s1.sendPacket { releaseOf h launch chiplet (BitVec.ofNat 64 va) with evs := s.nextEv :: s1.decsAt (.glob l) }, true)
  else (s.depEv p (.release 2) l (l.add 4) (bytesOf h.toNat 4), true)

/-- The wide core that a lane's FORK pushes to: its own, or its companion quadrant's (R205). -/
def Agent.wideCore (a : Agent) : Nat := a.core.quad / 4

/-! Store buffers (R305, R307, R309, R310). -/

def BufEntry.isStore (e : BufEntry) (sp : Space) (blk : Nat) : Bool :=
  match e with
  | .store sp' c bs _ => !c.strong && sp' == sp && (match bs with | x :: _ => x.1 / 16 == blk | [] => false)
  | _ => false
/-- A weak store that merges into the youngest entry (R305). -/
def TaskRec.merges (r : TaskRec) (e : BufEntry) : Bool :=
  match e, r.buffer.getLast? with
  | .store sp c (x :: _) _, some y => !c.strong && y.isStore sp (x.1 / 16)
  | _, _ => false
/-- The entry fits without a 33rd. -/
def TaskRec.room (r : TaskRec) (e : BufEntry) : Bool := r.merges e || decide (r.buffer.length < 32)
def TaskRec.push (r : TaskRec) (e : BufEntry) : TaskRec :=
  if r.merges e then
    match e, r.buffer.getLast? with
    | .store sp w bs _, some (.store _ _ old blk) =>
      { r with buffer := r.buffer.dropLast ++ [.store sp w (bs.foldl (fun m x => mapSet m x.1 x.2) old) blk] }
    | _, _ => r
  else { r with buffer := r.buffer ++ [e] }

/-- The bytes a task's buffered entries leave in a space, applied in order to memory (R157, R285; log 20). Reads and buffered bytes overlap by virtual address, where R150, R157 and R285 do not say (log 33). -/
def State.overlay (s : State) (id : Nat) (a : Agent) (sp : Space) (r : TaskRec) : NMap Byte :=
  let under (m : NMap Byte) (va : Nat) (l : Loc) (n : Nat) : Nat :=
    let base := match sp with | .glob => s.load l n | .gm => s.gmRead id a va n
    ofBytes ((base.zipIdx).map (fun x => (mapGet? m (va + x.2)).getD x.1))
  let put (m : NMap Byte) (va : Nat) (bs : List Byte) : NMap Byte := (bs.zipIdx).foldl (fun m x => mapSet m (va + x.2) x.1) m
  -- bytes of group memory out of range are discarded (R151)
  let keep (m : NMap Byte) : NMap Byte := match sp with | .glob => m | .gm => m.filter (fun x => s.gmCell id a x.1 != .out)
  r.buffer.foldl (fun m e =>
    match e with
    | .store sp' _ bs _ => if sp' = sp then keep (bs.foldl (fun m x => mapSet m x.1 x.2) m) else m
    | .atom sp' _ op w64 va c cmp fz l =>
      let n := if w64 then 8 else 4
      if sp' = sp then keep (put m va (bytesOf (atomNew op w64 fz (under m va l n) c cmp).1 n)) else m
    | .dep isAdd va n l =>
      if sp = .glob then
        let c := under m va l 4
        let t := under m (va + 4) (l.add 4) 4
        if isAdd then (if c + n > 2 ^ 32 - 1 then m else put m va (bytesOf (c + n) 4))
        else if c = 0 then m
        else put m va (bytesOf (c - 1) 4 ++ bytesOf (if c = 1 then noHandle.toNat else t) 4)
      else m
    | _ => m) []
/-- The bytes that a lane's task has buffered in a space. -/
def State.ownBytes (s : State) (id : Nat) (a : Agent) (L : Nat) (sp : Space) : NMap Byte :=
  match (a.recKey L).bind s.rec? with
  | some r => if r.buffer.isEmpty then [] else s.overlay id a sp r
  | none => []
/-- Bytes read by a lane: its task's buffered bytes where they overlap, and memory elsewhere (R157). -/
def State.readLane (s : State) (id : Nat) (a : Agent) (L : Nat) (sp : Space) (va : Nat) (base : List Byte) : List Byte :=
  let m := s.ownBytes id a L sp
  if m.isEmpty then base else (base.zipIdx).map (fun x => (mapGet? m (va + x.2)).getD x.1)
/-- A lane's read as an event, with the locations that it reads from memory (R270, R285). -/
def State.laneRead (s : State) (id : Nat) (a : Agent) (L : Nat) (sp : Space) (c : Access) (va : Nat) (xs : List Spot) : Ev × List Spot :=
  let m := s.ownBytes id a L sp
  (Ev.of (a.party id L) c, if m.isEmpty then xs else (xs.zipIdx.filter (fun x => (mapGet? m (va + x.2)).isNone)).map (fun x => x.1))

/-- A speculative task that tracks a written line is discarded (R310). -/
def State.discard (s : State) (k : Nat) : State :=
  match s.rec? k with
  | none => s
  | some r => if r.ended then s.abortRec k .conflict else s.abortLanes r.agent (laneBit r.lane) (fun _ => .conflict)
/-- Writes of another task's commit, or of an irrevocable task, to tracked lines (R310). -/
def State.conflict (s : State) (writer : Nat) (lines : List Nat) : State :=
  (s.recs.filter (fun x => x.1 != writer && x.2.st == .running && x.2.spec && x.2.lines.any (fun l => lines.contains l))).foldl
    (fun s x => s.discard x.1) s

/-- A trap recorded for a command or a task instruction after it issued (R178, R204, R306): in a wave the tasks that are not irrevocable are aborted; the rest is pending. -/
def State.recordTrap (s : State) (id : Nat) (flag : Option Nat) (seq cause addr lane : Nat) (lanes : Mask) : State :=
  match s.agent? id with
  | none => s
  | some a =>
    let pend (s : State) : State :=
      s.modAgent id (fun a => { a with traps := a.traps ++ [⟨cause, BitVec.ofNat 64 addr, lane, flag, seq, s.time⟩] })
    if a.isWave then
      let m := lanes &&& a.live
      let irr := s.irrevLanes a m
      let how (L : Nat) : AbortHow := .trap ⟨cause, true, L, BitVec.ofNat 64 addr⟩
      -- the tasks that have ended and wait for their marks are the command's too
      let past := (lanesOf (lanes &&& ~~~a.live)).filterMap (fun L => (a.recKey L).bind (fun k => if (s.endedOf id).contains k then some (L, k) else none))
      let s' := (past.foldl (fun s x => s.abortRec x.2 (how x.1)) s).abortLanes id (m &&& ~~~irr) how
      if irr = 0 then s' else pend s'
    else pend s

/-- The global location of a buffered entry. -/
def BufEntry.loc? (e : BufEntry) : Option Loc :=
  match e with
  | .store .glob _ _ l => some l
  | .atom .glob _ _ _ _ _ _ _ l => some l
  | .dep _ _ _ l => some l
  | _ => none
/-- The bytes of group memory that a buffered entry reads or writes. -/
def BufEntry.gmBytes (e : BufEntry) : List (Nat × Nat) :=
  match e with
  | .store .gm _ bs _ => bs.map (fun x => (x.1, 1))
  | .atom .gm _ _ w64 va _ _ _ _ => [(va, if w64 then 8 else 4)]
  | _ => []
/-- FORK and RENQ: a release fence at `.dev`, before the enqueue (R270, R284). -/
def State.enqueued (s : State) (id : Nat) (a : Agent) (L : Nat) (gives : List Link) : State := s.fenceLanes id a (laneBit L) (.release 2) gives []
/-- One buffered entry performed as its instruction would have performed it; none while a FORK finds no free record, its line is held at its source, or its granule is still to be filled (R305, R378, R407). -/
def State.performEntry (s : State) (k : Nat) (r : TaskRec) (e : BufEntry) : Option State :=
  let cluster := k / 4096
  match s.agent? r.agent with
  | none => some s
  | some a =>
    if (e.loc?.map s.heldLoc).getD false || !(e.gmBytes.all (fun x => s.gmCell r.agent a x.1 == .out || s.gmFilled a x.1 x.2)) then none
    else
    let p := a.party r.agent r.lane
    match e with
    | .store .glob c bs blk =>
      let s1 := s.wrote (Ev.of p c) (bs.map (fun x => (.glob (blk.add (x.1 % 16)), x.2)))
      some ((bs.foldl (fun s x => s.store (blk.add (x.1 % 16)) [x.2]) s1).conflict k [blk.line])
    | .store .gm c bs _ =>
      let bs := bs.filter (fun x => s.gmCell r.agent a x.1 != .out)
      if bs.isEmpty then some s else
      let s1 := s.wrote (Ev.of p c) (bs.map (fun x => (.gm (s.gmCell r.agent a x.1), x.2)))
      some (bs.foldl (fun s x => s.gmWrite r.agent a x.1 [x.2]) s1)
    | .atom sp acc op w64 va c cmp fz l =>
      let n := if w64 then 8 else 4
      let old := ofBytes (match sp with | .glob => s.load l n | .gm => s.gmRead r.agent a va n)
      let v := atomNew op w64 fz old c cmp
      let s1 := match sp with
        | .glob => (s.putRmw (Ev.of p (s.accAt acc l)) l (bytesOf v.1 n)).conflict k [l.line]
        | .gm => s.gmPutRmw (Ev.of p acc) r.agent a va (bytesOf v.1 n)
      some (s1.modAgent r.agent (fun a => a.raise v.2))
    | .dep isAdd va n l =>
      let x := if isAdd then s.depAdd p l n else s.depDec p l va r.launch (cluster / 16)
      let s1 := if x.2.2 then s.recordTrap r.agent none s.nextId cTASKERR va r.lane (laneBit r.lane) else x.1.conflict k [l.line]
      some s1
    | .fork entry args =>
      (s.takeRec cluster (newRec entry args r.launch a.wideCore .ready false false)).map (fun x => (x.1.enqueued r.agent a r.lane [.made (4096 * cluster + x.2)]).pushHead cluster a.wideCore a.vf x.2)
    | .renq dst entry args =>
      some ((s.enqueued r.agent a r.lane []).sendPacket { taskPacket dst entry r.launch args (cluster / 16) none false with evs := [s.nextEv] })

/-- Entries performed in order until one must wait; the rest (R305). -/
def State.performAll (s : State) (k : Nat) (r : TaskRec) : List BufEntry → State × List BufEntry
  | [] => (s, [])
  | e :: l =>
    match s.performEntry k r e with
    | none => (s, e :: l)
    | some s' => s'.performAll k r l
/-- A task's buffer performed as far as it goes, after a release fence at `.dev` (R285). -/
def State.commitBuffer (s : State) (k : Nat) : State :=
  match s.rec? k with
  | none => s
  | some r =>
    let s1 := match s.agent? r.agent with | some a => s.fenceLanes r.agent a (laneBit r.lane) (.release 2) [] [] | none => s
    let x := s1.performAll k r r.buffer
    if !r.buffer.isEmpty && x.2.length == r.buffer.length then s else x.1.modRec k (fun q => { q with buffer := x.2 })

/-- A task that is irrevocable and has entries of its buffer still to be performed (R307). -/
def TaskRec.unperformed (r : TaskRec) : Bool := r.st == .irrev && !r.buffer.isEmpty
/-- Tasks of lanes become irrevocable, once none is speculative, and their buffers are performed; the answer says whether they have been (R307, R309). -/
def State.makeIrrev (s : State) (id : Nat) (lanes : Mask) : State × Bool :=
  match s.agent? id with
  | none => (s, true)
  | some a =>
    if !a.isWave then (s, true)
    else
      let ks := (lanesOf lanes).filterMap a.recKey
      if ks.any (fun k => match s.rec? k with | some r => r.spec | none => false) then (s, false)
      else ks.foldl (fun x k =>
        match x.1.rec? k with
        | some r =>
          if r.st = .running ∨ r.unperformed then
            let s' := (x.1.modRec k (fun q => { q with st := .irrev })).commitBuffer k
            (s', x.2 && ((s'.rec? k).map (fun q => !q.unperformed)).getD true)
          else x
        | none => x) (s, true)
/-- Lanes of a wave whose tasks are irrevocable and wait for their buffers to be performed (R307). -/
def State.pendingLanes (s : State) (a : Agent) (m : Mask) : Mask :=
  if a.isWave then maskOf (fun L => m.getLsbD L && (((a.recKey L).bind s.rec?).map TaskRec.unperformed).getD false) else 0

/-- Lanes of a wave whose effects are buffered: their tasks run and are not irrevocable (R305). -/
def State.softLanes (s : State) (a : Agent) (m : Mask) : Mask :=
  if a.isWave then m &&& ~~~(s.irrevLanes a m) else 0
/-- Tasks of lanes whose speculative mark is set. -/
def State.specLanes (s : State) (a : Agent) (m : Mask) : Mask :=
  if a.isWave then maskOf (fun L => m.getLsbD L && (((a.recKey L).bind s.rec?).map (fun r => r.spec)).getD false) else 0
/-- The lines that speculative tasks read are tracked; none when one would track a 65th (R309). -/
def State.trackLines (s : State) (a : Agent) (reads : List (Nat × Nat)) : Option State :=
  let soft := s.specLanes a (maskOf (fun L => reads.any (fun x => x.1 == L)))
  (lanesOf soft).foldl (fun acc L =>
    match acc, a.recKey L with
    | some s, some k =>
      match s.rec? k with
      | some r =>
        let ls := (reads.filter (fun x => x.1 == L)).foldl (fun l x => insertNat l x.2) r.lines
        if ls.length > 64 then none else some (s.modRec k (fun r => { r with lines := ls }))
      | none => some s
    | acc, _ => acc) (some s)

end Sys2Proof.Machine
end

