-- ==== Sys2Proof/Machine/Long.lean ====
section
/-! DEFINITION. Long-latency operations: issue against a flag (R52, R78, R89), completion (R43, R52), addresses of memory operands (R87, R151), and the frame of an instruction that makes tasks irrevocable (R307). -/

namespace Sys2Proof.Machine

/-- The flag an instruction counts against: FX or FY of its clause's header, none for 15 (R78). -/
def Path.flagOf (p : Path) (fs : Bool) : Option Nat :=
  match p.phase with
  | .body _ h => let f := (if fs then h.fy else h.fx).toNat; if f < 12 then some f else none
  | .header => none
/-- An operation counted against its flag (R52). -/
def Agent.startOp (a : Agent) (op : Outstanding) : Agent :=
  let a := match op.flag with | some f => a.setFlag f (a.flag f + 1) | none => a
  { a with ops := a.ops ++ [op] }
/-- A flag signalled (R52). -/
def Agent.signal (a : Agent) (flag : Option Nat) : Agent :=
  match flag with | some f => a.setFlag f (a.flag f - 1) | none => a
/-- An operation of an instruction, with what it will write. -/
def opOf (s : State) (b : Bool) (flag : Option Nat) (vdst sdst : List (Nat × Nat)) (writes : List RegWrite) : Outstanding :=
  ⟨s.nextId, b, flag, vdst, sdst, writes, 0, true, false⟩
/-- A long-latency instruction issues with an operation (R78, R89). -/
def State.issueOp (s : State) (id : Nat) (b : Bool) (i : Instr) (a : Agent) (op : Outstanding) : State :=
  State.finish { s with nextId := s.nextId + 1 } id b i ((a.account s i).startOp op)
/-- An operation completes: its destinations are written, and their rows are sound (log 30), its flags reach FPC, its flag is signalled (R43, R52, R158). -/
def Agent.completeOp (a : Agent) (op : Outstanding) : Agent :=
  let a := op.writes.foldl (fun a w => match w.lane with | some L => a.setV w.reg L w.val | none => a.setS w.reg w.val) a
  let a := if a.marked then op.writes.foldl (fun a w => match w.lane with | some L => a.soundRow w.reg (laneBit L) | none => a) a else a
  let a := ((a.raise op.fflags).signal op.flag)
  { a with ops := a.ops.filter (fun x => x.id != op.id) }

/-- Writes of n registers of a lane. -/
def laneWrites (L reg n v : Nat) : List RegWrite :=
  (List.range n).map (fun k => ⟨some L, reg + k, BitVec.ofNat 32 (v / 2 ^ (32 * k))⟩)
/-- Writes of n scalar registers. -/
def scalWrites (reg n v : Nat) : List RegWrite :=
  (List.range n).map (fun k => ⟨none, reg + k, BitVec.ofNat 32 (v / 2 ^ (32 * k))⟩)

/-- A global address: A + sext(B) modulo 2^64 (R151, R159). -/
def globAddr (s : State) (a : Agent) (o : MOps) (L : Nat) : Nat :=
  wrapNat ((valA s a o (.bits 2) L : Int) + sextNat (valB s a o (.bits 1) L) 32) 64
/-- A group-memory address: A + sext(B) modulo 2^32 (R151, R161). -/
def gmAddr (s : State) (a : Agent) (o : MOps) (L : Nat) : Nat :=
  wrapNat ((valA s a o (.bits 1) L : Int) + sextNat (valB s a o (.bits 1) L) 32) 32

/-- An instruction waits until tasks of some of its active lanes have become irrevocable, and until no active lane's task has entries still to be performed; then it goes on (R307). -/
def State.irrevThen (s : State) (id : Nat) (b : Bool) (act lanes : Mask) (k : State → Agent → Path → State) : State :=
  let waits : Mask := match s.agent? id with | some a => s.pendingLanes a act | none => 0
  let x := s.makeIrrev id (lanes ||| waits)
  if !x.2 then x.1
  else match x.1.agent? id with
    | none => x.1
    | some a => match (a.slot b).path with
      | none => x.1
      | some p => k x.1 a p

/-- Lanes whose task has no room for an entry (R307). -/
def State.overflow (s : State) (a : Agent) (act : Mask) (e : Nat → BufEntry) : Mask :=
  let soft := s.softLanes a act
  maskOf (fun L => soft.getLsbD L && (match (a.recKey L).bind s.rec? with | some r => !(r.room (e L)) | none => false))
/-- A lane's entry put into its task's buffer. -/
def State.bufferLane (s : State) (a : Agent) (L : Nat) (e : BufEntry) : State :=
  match a.recKey L with | some k => s.modRec k (fun r => r.push e) | none => s
/-- The record of a lane of a wave, as a name; none elsewhere. -/
def Agent.writerKey (a : Agent) (L : Nat) : Nat := (a.recKey L).getD (2 ^ 32)

/-- After a direct write by a lane: an irrevocable task's discards the tasks that track its line (R310). -/
def State.clash (s : State) (a : Agent) (L : Nat) (l : Loc) : State := if a.isWave then s.conflict (a.writerKey L) [l.line] else s
/-- A direct write by a lane; its flag will be signalled by the operation that is about to be made (R278, R310). -/
def State.storeLane (s : State) (id : Nat) (a : Agent) (L : Nat) (c : Access) (l : Loc) (bs : List Byte) : State :=
  (s.put { Ev.of (a.party id L) (s.accAt c l) with op := some (id, s.nextId) } l bs).clash a L l

end Sys2Proof.Machine
end

