-- ==== Sys2Proof/Machine/Mem.lean ====
section
/-! DEFINITION. Global loads, stores and prefetch, and the scalar load (R150, R151 to R160). -/

namespace Sys2Proof.Machine

/-- Strength, scope and order from an order field coded 00 weak, 01 strong, 10 an acquire of a load or a release of a store (R90, R153). -/
def orderOf (order scope : Nat) (isStore : Bool) : Access :=
  match order with
  | 0 => .weak
  | 1 => .at scope
  | _ => if isStore then .release scope else .acquire scope
/-- That of a global load or store (R90). -/
def memAcc (o : MOps) (isStore : Bool) : Access := orderOf (o.mod.toNat / 16 % 4) (o.mod.toNat / 64 % 4) isStore

/-- The lanes' values once every access has its location: MEMINT, the line limit of speculative tasks, then the reads (R156, R157, R309). -/
def State.loadGo (s : State) (id : Nat) (b : Bool) (i : Instr) (o : MOps) (a : Agent) (p : Path) (n regs : Nat) (ext : Nat → Nat)
    (locs : List (Acc × Loc)) : State :=
  let bad := locs.filter (fun x => !s.sound x.2 n)
  if !bad.isEmpty then s.memint id b p bad
  else match s.trackLines a (locs.map (fun x => (x.1.lane, x.2.line))) with
    | none => s
    | some s =>
      let r := s.sight (locs.map (fun x => s.laneRead id a x.1.lane .glob (s.accAt (memAcc o false) x.2) x.1.va (x.2.spots n)))
      let w := locs.flatMap (fun x => laneWrites x.1.lane o.d.toNat regs (ext (ofBytes (s.readLane id a x.1.lane .glob x.1.va (s.loadIn r.2 x.2 n)))))
      r.1.issueOp id b i a (opOf s b (p.flagOf o.fs) [(o.d.toNat, regs)] [] w)

/-- A global load of n bytes a lane (R159). -/
def loadOp (i : Instr) (o : MOps) (n regs : Nat) (ext : Nat → Nat) (s : State) : Host.Outcome State Fault Refusal :=
  s.onPath fun id b a p =>
    let act := a.active p o.g
    if act = 0 then .next (s.finish id b i a)
    else
      let accs := (lanesOf act).map (fun L => (⟨L, globAddr s a o L, n⟩ : Acc))
      .next (s.alignAll id b p accs (s.access id b a p needR accs (fun s locs => s.loadGo id b i o a p n regs ext locs)))

/-- Sign extension of n bits into a register. -/
def sextReg (n x : Nat) : Nat := wrapNat (sextNat x n) 32

/-- LD.B32 (R159). -/
def execLdB32 (o : MOps) (s : State) : Host.Outcome State Fault Refusal := loadOp (.ldB32 o) o 4 1 id s
/-- LD.B64 (R159). -/
def execLdB64 (o : MOps) (s : State) : Host.Outcome State Fault Refusal := loadOp (.ldB64 o) o 8 2 id s
/-- LD.B128 (R159). -/
def execLdB128 (o : MOps) (s : State) : Host.Outcome State Fault Refusal := loadOp (.ldB128 o) o 16 4 id s
/-- LD.N8 (R159). -/
def execLdN8 (o : MOps) (s : State) : Host.Outcome State Fault Refusal := loadOp (.ldN8 o) o 1 1 id s
/-- LD.I8 (R159). -/
def execLdI8 (o : MOps) (s : State) : Host.Outcome State Fault Refusal := loadOp (.ldI8 o) o 1 1 (sextReg 8) s
/-- LD.N16 (R159). -/
def execLdN16 (o : MOps) (s : State) : Host.Outcome State Fault Refusal := loadOp (.ldN16 o) o 2 1 id s
/-- LD.I16 (R159). -/
def execLdI16 (o : MOps) (s : State) : Host.Outcome State Fault Refusal := loadOp (.ldI16 o) o 2 1 (sextReg 16) s

/-- Bytes that a lane stores: the low n bytes of C. -/
def storeBytes (a : Agent) (o : MOps) (n regs L : Nat) : List Byte := bytesOf (valC a o regs L) n
/-- The buffer entry of a store of bytes at an address (R305). -/
def storeEntry (sp : Space) (c : Access) (va : Nat) (bs : List Byte) (blk : Loc) : BufEntry :=
  .store sp c ((bs.zipIdx).map (fun x => (va + x.2, x.1))) blk
/-- The location of the aligned 16-byte block that holds a location. -/
def Loc.block (l : Loc) : Loc := match l with | .dev d => .dev (d / 16 * 16) | .host t => .host (t / 16 * 16)

/-- The lanes' writes once every access has its location: in a task that is not irrevocable into its buffer, otherwise performed in lane order, so that the highest lane stays (R154, R156, R157). A store that turns out strong, and so cannot merge, makes a task with a full buffer irrevocable and is tried again (R153, R305, R307). -/
def State.storeGo (s : State) (id : Nat) (b : Bool) (i : Instr) (o : MOps) (a : Agent) (p : Path) (n regs : Nat)
    (locs : List (Acc × Loc)) : State :=
  let ws := locs.map (fun x => (x.2, n))
  let bad := locs.filter (fun x => !s.writeSound ws (x.2, n))
  if !bad.isEmpty then s.memint id b p bad
  else
    let lanes := maskOf (fun L => locs.any (fun x => x.1.lane == L))
    let entry := fun (x : Acc × Loc) => storeEntry .glob (s.accAt (memAcc o true) x.2) x.1.va (storeBytes a o n regs x.1.lane) x.2.block
    let tight := s.overflow a lanes (fun L => match locs.find? (fun x => x.1.lane == L) with | some x => entry x | none => storeEntry .glob (.at 0) 0 [] (.dev 0))
    if tight ≠ 0 then (s.makeIrrev id tight).1
    else
    let soft := s.softLanes a lanes
    let hard := locs.filter (fun x => !(soft.getLsbD x.1.lane))
    let s1 := (locs.filter (fun x => soft.getLsbD x.1.lane)).foldl (fun s x => s.bufferLane a x.1.lane (entry x)) s
    let s2 := hard.foldl (fun s x => s.storeLane id a x.1.lane (memAcc o true) x.2 (storeBytes a o n regs x.1.lane)) (s1.clearPoison (hard.map (fun x => (x.2, n))))
    match s2.agent? id with
    | none => s2
    | some a => s2.issueOp id b i a (opOf s2 b (p.flagOf o.fs) [] [] [])

/-- A global store of n bytes a lane (R159). -/
def storeOp (i : Instr) (o : MOps) (n regs : Nat) (s : State) : Host.Outcome State Fault Refusal :=
  s.onPath fun id b a p =>
    let act := a.active p o.g
    if act = 0 then .next (s.finish id b i a)
    else
      let full := s.overflow a act (fun L => storeEntry .glob (memAcc o true) (globAddr s a o L) [0] (.dev 0))
      .next (s.irrevThen id b act full (fun s a p =>
        let accs := (lanesOf (a.active p o.g)).map (fun L => (⟨L, globAddr s a o L, n⟩ : Acc))
        s.alignAll id b p accs (s.access id b a p needW accs (fun s locs => s.storeGo id b i o a p n regs locs))))

/-- ST.B8 (R159). -/
def execStB8 (o : MOps) (s : State) : Host.Outcome State Fault Refusal := storeOp (.stB8 o) o 1 1 s
/-- ST.B16 (R159). -/
def execStB16 (o : MOps) (s : State) : Host.Outcome State Fault Refusal := storeOp (.stB16 o) o 2 1 s
/-- ST.B32 (R159). -/
def execStB32 (o : MOps) (s : State) : Host.Outcome State Fault Refusal := storeOp (.stB32 o) o 4 1 s
/-- ST.B64 (R159). -/
def execStB64 (o : MOps) (s : State) : Host.Outcome State Fault Refusal := storeOp (.stB64 o) o 8 2 s
/-- ST.B128 (R159). -/
def execStB128 (o : MOps) (s : State) : Host.Outcome State Fault Refusal := storeOp (.stB128 o) o 16 4 s

/-- PRF: an operation that writes nothing; lines are placement only (R158, R160). -/
def execPrf (o : MOps) (s : State) : Host.Outcome State Fault Refusal :=
  s.onPath fun id b a p =>
    if a.active p o.g = 0 then .next (s.finish id b (.prf o) a)
    else .next (s.issueOp id b (.prf o) a (opOf s b (p.flagOf o.fs) [] [] []))

/-- SLD: one read for the agent, by the thread of the lowest active lane (R150; in a grid warp DEDUCED, log 2). -/
def execSld (o : MOps) (s : State) : Host.Outcome State Fault Refusal :=
  s.onPath fun id b a p =>
    if !guardAlways o.g then .next (s.finish id b (.sld o) a)
    else
      let regs := if o.c.toNat % 2 = 1 then 2 else 1
      let L := lowLane p.mask
      let accs := [(⟨L, globAddr s a o L, 4 * regs⟩ : Acc)]
      .next (s.alignAll id b p accs (s.access id b a p needR accs (fun s locs =>
        match locs with
        | [] => s
        | x :: _ =>
          if !s.sound x.2 (4 * regs) then s.memint id b p [x]
          else match s.trackLines a ((lanesOf p.mask).map (fun L => (L, x.2.line))) with
            | none => s
            | some s =>
              let r := s.sight [s.laneRead id a L .glob (s.accAt (memAcc o false) x.2) x.1.va (x.2.spots (4 * regs))]
              let v := ofBytes (s.readLane id a L .glob x.1.va (s.loadIn r.2 x.2 (4 * regs)))
              r.1.issueOp id b (.sld o) a (opOf s b (p.flagOf o.fs) [] [(o.d.toNat, regs)] (scalWrites o.d.toNat regs v)))))

end Sys2Proof.Machine
end

