-- ==== Sys2Proof/Machine/Rings.lean ====
section
/-! DEFINITION. Group-memory rings (R171 to R175, R311, R312). -/

namespace Sys2Proof.Machine

/-- The owner that an agent's ring operations act for: its group, or for a wave the task group of its launch (R174, R311). -/
def Agent.ringOwner (a : Agent) : RingOwner := match a.group with | some g => .group g | none => .tasks a.launch
def State.ring? (s : State) (cluster id : Nat) : Option Ring := mapGet? s.rings (64 * cluster + id)
/-- The VF and the context of a ring's owner. -/
def State.ownerCtx (s : State) (o : RingOwner) : Option (Nat × Nat) :=
  match o with
  | .group g => (mapGet? s.groups g).map (fun x => (x.vf, x.ctx))
  | .tasks l => (mapGet? s.launches l).map (fun x => (x.vf, x.ctx))
/-- A ring's record is kept by a halted context of the VF of an owner, another than the owner's own (R400). -/
def State.ringKept (s : State) (o : RingOwner) (r : Ring) : Bool :=
  match s.ownerCtx r.owner, s.ownerCtx o with
  | some x, some y => x.1 == y.1 && x.2 != y.2 && s.ctxHalted x.1 x.2
  | _, _ => false
/-- The ring that an owner finds under an id: its own context's image, never a halted context's (R171, R401). -/
def State.ringSeen (s : State) (cluster id : Nat) (o : RingOwner) : Option Ring :=
  (s.ring? cluster id).bind (fun r => if s.ringKept o r then none else some r)
def State.setRing (s : State) (cluster id : Nat) (r : Ring) : State := { s with rings := mapSet s.rings (64 * cluster + id) r }
/-- Counters modulo 2^32 (R171). -/
def ctr (x : Nat) : Nat := x % 2 ^ 32
def Ring.inUse (r : Ring) : Nat := ctr (r.rsv + 2 ^ 32 - r.dne)
def Ring.free (r : Ring) : Nat := r.nslot - r.inUse
def Ring.filled (r : Ring) : Nat := ctr (r.pst + 2 ^ 32 - r.tkn)
/-- The address of slot q (R171). -/
def Ring.slotAddr (r : Ring) (q : Nat) : Nat := r.base + q % r.nslot * r.slotb

/-- Advance over the prefix (R172). -/
def advance (fuel at' : Nat) (marks : List Nat) : Nat × List Nat :=
  match fuel with
  | 0 => (at', marks)
  | k + 1 => if marks.contains at' then advance k (ctr (at' + 1)) (marks.filter (fun x => x != at')) else (at', marks)

/-- RSV (R172): none while free = 0. -/
def Ring.reserve (r : Ring) : Option (Nat × Ring) :=
  if r.free = 0 then none else some (r.slotAddr r.rsv, { r with rsv := ctr (r.rsv + 1) })
/-- TAKE (R172): none while filled = 0. -/
def Ring.take (r : Ring) : Option (Nat × Ring) :=
  if r.filled = 0 then none else some (r.slotAddr r.tkn, { r with tkn := ctr (r.tkn + 1) })
/-- The sequence number at an address among n from a start that satisfy a test. -/
def Ring.seqAt (r : Ring) (start n addr : Nat) (p : Nat → Bool) : Option Nat :=
  ((List.range n).map (fun i => ctr (start + i))).find? (fun q => r.slotAddr q == addr && p q)
/-- The sequence number of the reserved, unposted slot at an address, and of the taken slot that is not yet done. -/
def Ring.postSeq (r : Ring) (addr : Nat) : Option Nat := r.seqAt r.pst (ctr (r.rsv + 2 ^ 32 - r.pst)) addr (fun q => !(r.posted.contains q))
def Ring.doneSeq (r : Ring) (addr : Nat) : Option Nat := r.seqAt r.dne (ctr (r.tkn + 2 ^ 32 - r.dne)) addr (fun q => !(r.dones.contains q))
/-- What a RSV and a TAKE wait for, and what a POST and a DONE of an address offer (R282). -/
def Ring.rsvLinks (r : Ring) : List Link := [.done r.serial (ctr (r.rsv + 2 ^ 32 - r.nslot))]
def Ring.takeLinks (r : Ring) : List Link := [.post r.serial r.tkn]
def Ring.postLinks (r : Ring) (addr : Nat) : List Link := ((r.postSeq addr).map (fun q => Link.post r.serial q)).toList
def Ring.doneLinks (r : Ring) (addr : Nat) : List Link := ((r.doneSeq addr).map (fun q => Link.done r.serial q)).toList
/-- POST of the reserved, unposted slot at an address (R172, R174). -/
def Ring.post (r : Ring) (addr : Nat) : Option Ring :=
  (r.postSeq addr).map (fun q =>
    let x := advance 256 r.pst (r.posted ++ [q])
    { r with pst := x.1, posted := x.2 })
/-- DONE of the taken slot at an address that is not yet done (R172, R174). -/
def Ring.done (r : Ring) (addr : Nat) : Option Ring :=
  (r.doneSeq addr).map (fun q =>
    let x := advance 256 r.dne (r.dones ++ [q])
    { r with dne := x.1, dones := x.2 })

/-- Bytes of the allocation that a ring must lie in (R174, R311). -/
def State.gmBytes (s : State) (a : Agent) : Nat :=
  match s.groupOf a with | some g => 4096 * g.granules.length | none => s.tshOf a

def ringId (o : MOps) : Nat := o.c.toNat % 64
/-- RINGERR, with its address (R174). -/
def State.ringErr (s : State) (id : Nat) (b : Bool) (p : Path) (addr : DWord) : State :=
  s.raise id b p.pos p.mask ⟨cRINGERR, false, 0, addr⟩

/-- A ring operation: in a wave its tasks become irrevocable first (R312); then the ring, open and owned, or RINGERR (R174). -/
def ringOp (i : Instr) (o : MOps) (k : State → Nat → Bool → Agent → Path → Ring → State) (s : State) : Host.Outcome State Fault Refusal :=
  s.onPath fun id b a p =>
    if !guardAlways o.g then .next (s.finish id b i a)
    else .next (s.irrevThen id b p.mask (s.softLanes a p.mask) (fun s a p =>
      match s.ringSeen a.cluster (ringId o) a.ringOwner with
      | none => s.ringErr id b p 0
      | some r => if r.owner = a.ringOwner then k s id b a p r else s.ringErr id b p r.desc))

/-- The slot waits at a ring, and remembers which opening (R172, R174). -/
def State.ringWait (s : State) (id : Nat) (b : Bool) (a : Agent) (r : Ring) (o : MOps) : State :=
  s.setAgent id (a.setSlot b { a.slot b with wait := .ring (ringId o) r.serial r.desc })

/-- The slot waits no more. -/
def Agent.unwait (a : Agent) (b : Bool) : Agent := a.setSlot b { a.slot b with wait := .none }
/-- The 16-byte descriptor (R171): NSLOT, SLOTB and BASE. -/
def descNslot (w : Nat) : Nat := field w 48 8
def descSlotb (w : Nat) : Nat := field w 32 16
def descBase (w : Nat) : Nat := field w 0 20
/-- A descriptor that R174 refuses. -/
def descBad (w gm : Nat) : Bool :=
  descNslot w == 0 || descSlotb w == 0 || decide (descSlotb w % 16 ≠ 0) || decide (descBase w % 16 ≠ 0)
    || decide (descBase w + descNslot w * descSlotb w > gm)

/-- The ring opened on a descriptor. -/
def State.openRing (s : State) (id : Nat) (b : Bool) (i : Instr) (o : MOps) (a : Agent) (p : Path) (va w : Nat) : State :=
  if descBad w (s.gmBytes a) then s.ringErr id b p (BitVec.ofNat 64 va)
  else
    let r : Ring := ⟨a.ringOwner, a.vf, BitVec.ofNat 64 va, descBase w, descSlotb w, descNslot w, 0, 0, 0, 0, [], [], s.nextId⟩
    State.finish { (s.setRing a.cluster (ringId o) r) with nextId := s.nextId + 1 } id b i a

/-- RING.OPEN (R172, R174, R175): a copy cached for the VF serves it, or memory (R289). An id that is open comes before an address that is not aligned, where R174 gives no order (log 33). -/
def execRingOpen (o : MOps) (s : State) : Host.Outcome State Fault Refusal :=
  s.onPath fun id b a p =>
    if !guardAlways o.g then .next (s.finish id b (.ringOpen o) a)
    else .next (s.irrevThen id b p.mask (s.softLanes a p.mask) (fun s a p =>
      match s.ring? a.cluster (ringId o) with
      -- a halted context's record is claimed first (R400)
      | some r => if s.ringKept a.ringOwner r then s else s.ringErr id b p r.desc
      | none =>
        let L := lowLane p.mask
        let va := globAddr s a o L
        let pasid := s.pasidOf a.vf a.ctx
        s.alignAll id b p [⟨L, va, 16⟩] (
          match s.ringCache.find? (fun x => x.1 == a.vf && x.2.1 == pasid && x.2.2.1 == va) with
          | some x => s.openRing id b (.ringOpen o) o a p va (ofBytes (x.2.2.2.flatMap (fun d => bytesOf d.toNat 8)))
          | none => s.access id b a p needR [⟨L, va, 16⟩] (fun s locs =>
            match locs with
            | [] => s
            | x :: _ =>
              if !s.sound x.2 16 then (s.reportPoison a.vf x.2).raiseAt id b p.pos (laneBit L) (laneTrap cMEMINT [x.1])
              else
                let v := s.sight [(Ev.of (a.party id L) (s.accAt .weak x.2), x.2.spots 16)]
                let w := ofBytes (s.loadIn v.2 x.2 16)
                let s := v.1
                -- the device keeps a copy for the VF, or does not (R289)
                let s := if Config.freeBool s.fresh then
                    { s with ringCache := s.ringCache ++ [(a.vf, pasid, va, [BitVec.ofNat 64 w, BitVec.ofNat 64 (w / 2 ^ 64)])] } else s
                State.openRing { s with fresh := s.fresh + 1 } id b (.ringOpen o) o a p va w))))

/-- Paths that wait at a ring that RING.CLOSE closes: their RINGERR has the address 0 (R174). -/
def State.ringShut (s : State) (serial : Nat) : State :=
  { s with agents := s.agents.map (fun x => (x.1, x.2.mapWaits (fun w => match w with | .ring k n d => .ring k n (if n = serial then 0 else d) | w => w))) }
/-- RING.CLOSE (R172, R174). -/
def execRingClose (o : MOps) (s : State) : Host.Outcome State Fault Refusal :=
  ringOp (.ringClose o) o (fun s id b a p r =>
    if r.free ≠ r.nslot then s.ringErr id b p r.desc
    else
      let t := State.ringShut { s with rings := mapErase s.rings (64 * a.cluster + ringId o) } r.serial
      match t.agent? id with
      | none => t
      | some a => t.finish id b (.ringClose o) a) s

/-- RING.RSV (R172, R270, R282). -/
def execRingRsv (o : MOps) (s : State) : Host.Outcome State Fault Refusal :=
  ringOp (.ringRsv o) o (fun s id b a p r =>
    match r.reserve with
    | none => s.ringWait id b a r o
    | some x => ((s.fenceLanes id a p.mask (.acquire 1) [] r.rsvLinks).setRing a.cluster (ringId o) x.2).finish id b (.ringRsv o) (((a.unwait b).account s (.ringRsv o)).setSN o.d.toNat 1 x.1)) s

/-- RING.POST (R172, R270, R282). -/
def execRingPost (o : MOps) (s : State) : Host.Outcome State Fault Refusal :=
  ringOp (.ringPost o) o (fun s id b a p r =>
    match r.post (valA s a o (.bits 1) 0) with
    | none => s.ringErr id b p r.desc
    | some r' => ((s.fenceLanes id a p.mask (.release 1) (r.postLinks (valA s a o (.bits 1) 0)) []).setRing a.cluster (ringId o) r').finish id b (.ringPost o) a) s

/-- RING.TAKE (R172, R270, R282). -/
def execRingTake (o : MOps) (s : State) : Host.Outcome State Fault Refusal :=
  ringOp (.ringTake o) o (fun s id b a p r =>
    match r.take with
    | none => s.ringWait id b a r o
    | some x => ((s.fenceLanes id a p.mask (.acquire 1) [] r.takeLinks).setRing a.cluster (ringId o) x.2).finish id b (.ringTake o) (((a.unwait b).account s (.ringTake o)).setSN o.d.toNat 1 x.1)) s

/-- RING.DONE (R172, R270, R282). -/
def execRingDone (o : MOps) (s : State) : Host.Outcome State Fault Refusal :=
  ringOp (.ringDone o) o (fun s id b a p r =>
    match r.done (valA s a o (.bits 1) 0) with
    | none => s.ringErr id b p r.desc
    | some r' => ((s.fenceLanes id a p.mask (.release 1) (r.doneLinks (valA s a o (.bits 1) 0)) []).setRing a.cluster (ringId o) r').finish id b (.ringDone o) a) s

/-- RING.QRY (R172): a ring that is not open reads 0, and one of another owner raises RINGERR. -/
def execRingQry (o : MOps) (s : State) : Host.Outcome State Fault Refusal :=
  s.onPath fun id b a p =>
    if !guardAlways o.g then .next (s.finish id b (.ringQry o) a)
    else .next (s.irrevThen id b p.mask (s.softLanes a p.mask) (fun s a p =>
      match s.ringSeen a.cluster (ringId o) a.ringOwner with
      | none => s.finish id b (.ringQry o) ((a.account s (.ringQry o)).setSN o.d.toNat 1 0)
      | some r =>
        if r.owner = a.ringOwner then
          s.finish id b (.ringQry o) ((a.account s (.ringQry o)).setSN o.d.toNat 1 (2 ^ 31 + 2 ^ 16 * r.nslot + 2 ^ 8 * r.free + r.filled))
        else s.ringErr id b p r.desc))

/-- Rings that an owner leaves behind close (R174, R244, R311). -/
def State.closeRings (s : State) (o : RingOwner) : State :=
  { s with rings := s.rings.filter (fun x => x.2.owner != o), ringsOut := s.ringsOut.filter (fun x => x.2.owner != o) }

end Sys2Proof.Machine
end

