-- ==== Sys2Proof/Machine/EngineOps.lean ====
section
/-! DEFINITION. Accesses of engine and matrix commands: ranges of addresses, their translation, and the signal of a command (R43, R177, R178, R221, R352). -/

namespace Sys2Proof.Machine

/-- The Pass link by which traffic for a device leaves; none when every route is fenced (R422). -/
def State.linkTo (s : State) (dev : Nat) : Option Nat := (Config.linkTo dev s.fencedLinks).filter (fun l => decide (l < 16) && !(s.fencedLinks.contains l))

/-- A range of addresses as accesses within 64 KiB pages; addresses wrap modulo 2^64 (R151). -/
def rangeAccs (lane va n : Nat) : List Acc :=
  if n = 0 then []
  else (List.range (pageOf (va + n - 1) + 1 - pageOf va)).map (fun i =>
    let p := pageOf va + i
    let lo := max va (p * 2 ^ 16)
    ⟨lane, lo % 2 ^ 64, min (va + n) ((p + 1) * 2 ^ 16) - lo⟩)

/-- What a command's accesses meet. -/
inductive EngPlan where
  /-- an answer is awaited: the state with what was asked for -/
  | wait (s : State)
  /-- the first access that fails -/
  | fail (x : Acc)
  | go (l : List (Acc × Loc))

/-- The accesses of a command that performs only when every one is usable (R178, R222, R352). -/
def State.engPlan (s : State) (who : Waiter) (cluster vf ctx : Nat) (need : Need) (l : List Acc) : EngPlan :=
  let pasid := s.pasidOf vf ctx
  let caches := clusterCaches cluster
  if s.pageHeld who then .wait s
  else match s.plan who caches vf pasid need l with
    | .fail bad => match bad with | x :: _ => .fail x | [] => .wait s
    | .miss l => .wait (l.foldl (fun s x => s.ask who caches vf pasid (pageOf x.va) false) s)
    | .absent l => .wait ((s.pageEvent who vf pasid (pagesOf l)).await who vf pasid (pagesOf l))
    | .go locs => if locs.any (fun x => s.heldLoc x.2) then .wait s else .go locs

/-- Bytes of a range whose translations are usable, as a view has them; a byte without one reads zero. -/
def State.readRange (s : State) (v : View) (who : Waiter) (cluster vf ctx va n : Nat) : List Byte :=
  (rangeAccs 0 va n).flatMap (fun x =>
    match s.xlate who (clusterCaches cluster) vf (s.pasidOf vf ctx) x.va needR with
    | .ok l _ => s.loadIn v l x.n
    | _ => List.replicate x.n 0)

/-- An event of an engine command by the rank of its step: 1 its acquire, 2 a ring reservation, 3 its accesses, 4 its ring post, 5 its release (R177, R279). -/
def EngCmd.ev (c : EngCmd) (a : Agent) (rank : Nat) (acc : Access) : Ev :=
  { Ev.of (a.command c.agent c.id c.flag c.lanes) acc with rank := rank, follows := a.issuers c.agent c.lanes c.stamp }
/-- An event of a matrix command by the rank of its step; those of a follow-on come after its CPY's (R221, R279, R280). -/
def MuCmd.ev (c : MuCmd) (a : Agent) (rank : Nat) (acc : Access) : Ev :=
  { Ev.of (a.command c.agent c.id c.flag c.lanes) acc with
    rank := if c.parentCmd.isSome then rank + 5 else rank, follows := a.issuers c.agent c.lanes c.stamp }
/-- A command's acquire, and its release, where its flags ask for them (R177, R279). -/
def EngCmd.acquires (c : EngCmd) (s : State) : State :=
  match s.agent? c.agent with | some a => if c.acq then s.note (c.ev a 1 (.acquire c.scope)) else s | none => s
def EngCmd.releases (c : EngCmd) (s : State) : State :=
  match s.agent? c.agent with | some a => if c.rel then s.note (c.ev a 5 (.release c.scope)) else s | none => s
def MuCmd.acquires (c : MuCmd) (s : State) : State :=
  match s.agent? c.agent with | some a => if c.acq then s.note (c.ev a 1 (.acquire c.scope)) else s | none => s
def MuCmd.releases (c : MuCmd) (s : State) : State :=
  match s.agent? c.agent with | some a => if c.rel then s.note (c.ev a 5 (.release c.scope)) else s | none => s

/-- The agent whose FPC takes a command's flags: the parent for a fragment's matrix command (R44). -/
def State.fpcAgent (s : State) (id : Nat) (matrix : Bool) : Nat :=
  match s.agent? id with
  | some a => if matrix then a.warpId id else id
  | none => id

/-- A command signals: its flags reach FPC, its destinations are written, its operation ends and its flag is signalled (R43, R177, R221). -/
def State.signalCmd (s : State) (id op : Nat) (matrix : Bool) (f : FFlags) : State :=
  let s := s.modAgent (s.fpcAgent id matrix) (fun a => a.raise f)
  s.modAgent id (fun a => match a.ops.find? (fun x => x.id == op) with | some x => a.completeOp x | none => a)

/-- The granules of an operation's destinations have been filled: a write pulls its granule first (R407). -/
def Agent.opFilled (a : Agent) (op : Nat) : Bool :=
  match a.ops.find? (fun x => x.id == op) with
  | some x => a.unfilled.isEmpty || x.vdst.all (fun d => (List.range d.2).all (fun k => !(a.unfilled.contains ((d.1 + k) / 8))))
  | none => true
/-- Nothing of the group memory that an agent reaches is still to be filled (R407). -/
def State.groupFilled (s : State) (id : Nat) : Bool :=
  match s.agent? id with
  | none => true
  | some a => match s.groupOf a with
    | some g => g.unfilled.isEmpty
    | none => a.gmUnfilled.isEmpty && (((s.launchOf a).map (fun l => mapGetD l.tunfilled a.cluster [])).getD []).isEmpty

end Sys2Proof.Machine
end

