-- ==== Sys2Proof/Machine/Alu.lean ====
section
/-! DEFINITION. The shared frame of synchronous register instructions: one result per active lane, or one for the warp (R15, R82, R86, R112, R148). -/

namespace Sys2Proof.Machine

/-- A synchronous vector instruction: each active lane's result, of n registers, computed on the state before the instruction, is written to vD; flags are the OR over the active lanes (R15, R42, R82). -/
def vecOp (i : Instr) (o : MOps) (n : Nat) (f : State → Agent → Nat → Res) (s : State) : Host.Outcome State Fault Refusal :=
  s.onPath fun id b a p =>
    let act := a.active p o.g
    if act = 0 then .next (s.finish id b i a)
    else
      let rs := (lanesOf act).map (fun L => (L, f s a L))
      let a' := rs.foldl (fun x r => (x.setVN o.d.toNat r.1 n r.2.1).raise r.2.2) (a.account s i)
      .next (s.finish id b i a')

/-- A synchronous instruction with a predicate destination (R51, R112). -/
def predOp (i : Instr) (o : MOps) (f : State → Agent → Nat → Bool × FFlags) (s : State) : Host.Outcome State Fault Refusal :=
  s.onPath fun id b a p =>
    let act := a.active p o.g
    if act = 0 then .next (s.finish id b i a)
    else
      let rs := (lanesOf act).map (fun L => (L, f s a L))
      let val := rs.foldl (fun m r => if r.2.1 then m ||| laneBit r.1 else m) (0 : Mask)
      let a' := rs.foldl (fun x r => x.raise r.2.2) (a.account s i)
      .next (s.finish id b i (a'.setP o.d.toNat act val))

/-- An instruction of the scalar group: one result of n registers for the warp (R86, R148). -/
def scalOp (i : Instr) (o : MOps) (n : Nat) (f : State → Agent → Path → Res) (s : State) : Host.Outcome State Fault Refusal :=
  s.onPath fun id b a p =>
    if guardAlways o.g then
      let r := f s a p
      .next (s.finish id b i (((a.account s i).setSN o.d.toNat n r.1).raise r.2))
    else .next (s.finish id b i a)

/-- The type, its registers and its operand reading. -/
def tyRegs (o : MOps) : Nat := regsOfTy (tyOf o)
def intTy (o : MOps) : OpdTy := .bits (tyRegs o)

/-- Operands of an integer type as integers. -/
def intA (s : State) (a : Agent) (o : MOps) (L : Nat) : Int := intOfCode (tyOf o) (valA s a o (intTy o) L)
def intB (s : State) (a : Agent) (o : MOps) (L : Nat) : Int := intOfCode (tyOf o) (valB s a o (intTy o) L)
def intC (a : Agent) (o : MOps) (L : Nat) : Int := intOfCode (tyOf o) (valC a o (tyRegs o) L)

/-- `.sat` of an integer type (R90). -/
def satOf (o : MOps) : Bool := o.mod.getLsbD 0

/-- An integer vector instruction: the exact result, wrapped or clamped (R116). -/
def intOp (i : Instr) (o : MOps) (f : State → Agent → Nat → Int) (s : State) : Host.Outcome State Fault Refusal :=
  vecOp i o (tyRegs o) (fun s a L => clampInt (tyOf o) (satOf o) (f s a L)) s

/-- A bits vector instruction: no flag (R118). -/
def bitsOp (i : Instr) (o : MOps) (n : Nat) (f : State → Agent → Nat → Nat) (s : State) : Host.Outcome State Fault Refusal :=
  vecOp i o n (fun s a L => (f s a L, fNone)) s

/-- The short instruction's M operands. -/
def shortOps (i : Instr) : MOps :=
  match shapeOf (expandShort i) with
  | some (o, _) => o
  | none => ⟨⟨0, false⟩, 0, false, 0, 0, false, .vec 0, .vec 0, 0, false, none⟩

end Sys2Proof.Machine
end

