-- ==== Sys2Proof/Machine/Control.lean ====
section
/-! DEFINITION. Control flow: branches, export, calls, joins, YIELD, REGION, SLEEP (R188 to R202, R216). -/

namespace Sys2Proof.Machine

/-- Bytes above the code base that code may occupy (R189). -/
def codeSpan : Nat := 2 ^ 27
/-- A transfer's target is a multiple of 4 within the code's range (R72, R189). -/
def State.targetOk (s : State) (a : Agent) (t : DWord) : Bool :=
  t.toNat % 4 == 0 && decide ((t - s.codeBase a).toNat < codeSpan)
/-- ALIGN of a transfer, with the target in TADDR (R72). -/
def State.badTarget (s : State) (id : Nat) (b : Bool) (p : Path) (m : Mask) (t : DWord) : State :=
  s.raiseAt id b p.pos m (fun L => ⟨cALIGN, false, L, t⟩)

/-- The literal offset of a transfer from its own address (R194, R197, R198). -/
def litTarget (p : Path) (o : MOps) : DWord := p.pc + ((o.lit.getD 0).signExtend 64)

/-- A path moved by a transfer that every lane takes (R79, R197). -/
def State.moveAll (s : State) (id : Nat) (b : Bool) (a : Agent) (p : Path) (t : DWord) : State :=
  s.settle id ((a.issued s).setSlot b { a.slot b with path := some (p.goto t), rank := s.tail })

/-- How an agent's units are held: 0 not at all, its image spilt by a claim; 1 by a halted context, until they are claimed; 2 held (R400, R406). -/
def State.unitUse (s : State) (a : Agent) : Nat :=
  match s.ctxOf a with
  | some c => if c.st = .halted then (if a.spilt then 0 else 1) else 2
  | none => 2
/-- Contexts of a narrow core that agents hold in a given way. -/
def State.ctxUse (s : State) (cluster n use : Nat) : List Nat :=
  s.agents.flatMap (fun x => if x.2.cluster = cluster ∧ x.2.core = .narrow n ∧ s.unitUse x.2 = use then x.2.units else [])
/-- Free contexts of a narrow core; those that halted contexts keep count as free (R62, R400). -/
def State.freeCtx (s : State) (cluster n : Nat) : List Nat := (List.range 8).filter (fun k => !((s.ctxUse cluster n 2).contains k))
/-- An agent that is halted, or that waits to be placed again, keeps its units: its image has not been spilt (R400, R406). -/
def Agent.keeps (a : Agent) : Bool := a.halted && !a.spilt
/-- No halted context keeps any of the contexts of a narrow core: they have been claimed (R400). -/
def State.ctxClear (s : State) (cluster n : Nat) (ks : List Nat) : Bool :=
  !(s.agents.any (fun x => x.2.cluster == cluster && x.2.core == .narrow n && x.2.keeps && x.2.units.any (fun u => ks.contains u)))
/-- The part of a cluster a VF owns. -/
def State.part (s : State) (cluster vf : Nat) : PartSet := mapGetD s.parts (64 * cluster + vf) ⟨0, [], 0⟩
/-- A quadrant, or its companion narrow core, is the VF's (R5). -/
def State.ownsQuad (s : State) (cluster vf q : Nat) : Bool := (s.part cluster vf).qmask.testBit q

/-- The narrow core and contexts an export takes: the companion of the issuing quadrant first, then N0 to N7 (R195). -/
def State.exportPlace (s : State) (a : Agent) (lanes : Nat) : Option (Nat × List Nat) :=
  let need := if lanes ≤ 4 then 1 else 2
  (a.core.quad :: List.range 8).findSome? (fun n =>
    let f := s.freeCtx a.cluster n
    if s.ownsQuad a.cluster a.vf n && decide (f.length ≥ need) then some (n, f.take need) else none)

/-- `exportable` but for the narrow core (R195): a grid warp on a wide core, EN, at most T lanes, NOEXP clear, not at r. -/
def Agent.mayExport (a : Agent) (noexp atR : Bool) (lanes : Nat) : Bool :=
  a.isGrid && (match a.core with | .wide _ _ => true | .narrow _ => false) && a.xth.getLsbD 8
    && decide (lanes ≤ (a.xth.extractLsb' 0 4).toNat) && !noexp && !atR

/-- The fragment that an export makes (R44, R53, R195, R251). -/
def Agent.fragment (a : Agent) (parent j : Nat) (r : DWord) (pos : Pos) (m : Mask) (n : Nat) (ctxs : List Nat) (rank : Nat) (dsb : DWord) : Agent :=
  { a with
    kind := .frag parent j r, core := .narrow n, units := ctxs
    started := m, live := m
    vregs := [], preds := (a.preds.map (fun x => (x.1, x.2 &&& m))).filter (fun x => x.2 != 0), flags := []
    fpc := a.fpc &&& 0xF00, tpc := 0, tix := 0, tcause := 0, taddr := 0
    slotA := Slot.of (some ⟨pos, m, .parent j, .header⟩) .none false rank, slotB := emptySlot
    stack := [], dsb := dsb, handler := none
    stgBase := 0, stgMap := 0, staging := true, bad := [], badStg := [], stgPar := [], stgDirty := [], tickhi := none, wdc := 0, cyc := 0, tokenWait := 0
    insn := 0, opndSlow := 0, regOor := 0, bankWait := 0, exports := 0, spills := 0
    ops := [], traps := [], granules := [], begun := false, asked := [], tasks := [], gmGran := [], owed := a.ops.flatMap (fun x => x.sdst.flatMap (fun d => (List.range d.2).map (fun k => (x.id, d.1 + k)))), halted := false, spilt := false, unfilled := [], saved := [], gmSpilt := [], gmUnfilled := [], lost := none, stkLost := none }

/-- DIVERGE: TADDR is the entry that would be written (R193). -/
def State.diverge (s : State) (id : Nat) (b : Bool) (a : Agent) (p : Path) (m : Mask) : State :=
  s.raise id b p.pos m ⟨cDIVERGE, false, 0, a.dsb + BitVec.ofNat 64 (16 * a.dsn)⟩

/-- What a divergent branch decides (R194). -/
structure BraPlan where
  /-- the record J -/
  j     : Nat
  stack : List Entry
  tArr  : Bool
  nArr  : Bool
  /-- the exported side is T -/
  exp   : Option (Bool × Nat × List Nat)
  deriving DecidableEq, Repr

/-- The plan of a divergent BRA before any effect (R194). -/
def State.braPlan (s : State) (a : Agent) (p : Path) (t n : Mask) (target r : DWord) (np : Path) (noexp : Bool) : BraPlan :=
  let reuse : Option Nat := match p.jix with
    | .own i => match a.stack[i]? with
      | some e => if (e.kind == .join || e.kind == .call) && e.pos.hdr == r then some i else none
      | none => none
    | _ => none
  let (j, st) : Nat × List Entry := match reuse with
    | some i => (i, modEntry a.stack i (fun e => { e with pend := e.pend + 1 }))
    | none => (a.stack.length, a.stack ++ [⟨.join, ⟨r, 0⟩, p.mask, 2, p.jix, false, .none⟩])
  let tArr := target == r
  let nArr := np.phase == .header && np.pos.ix == 0 && np.pos.hdr == r
  -- X: the smaller of the remaining sides, T on a tie
  let xIsT := if tArr then false else if nArr then true else decide (popMask t ≤ popMask n)
  let x := if xIsT then t else n
  let place := if tArr && nArr then none
    else if a.mayExport noexp false (popMask x) then s.exportPlace a (popMask x) else none
  ⟨j, st, tArr, nArr, place.map (fun q => (xIsT, q.1, q.2))⟩

/-- BRA (R194 to R196). Where its fragment takes contexts that a halted one keeps, the fragment waits for their claim, the BRA does not (R264, R400). -/
def execBra (o : MOps) (s : State) : Host.Outcome State Fault Refusal :=
  s.onPath fun id b a p =>
    let t := a.active p o.g
    let n := p.mask &&& ~~~t
    let target := litTarget p o
    let r := target + (((o.c ++ o.d : BitVec 16).signExtend 64) <<< 2)
    if target.toNat % 4 ≠ 0 then .next (s.badTarget id b p (if t = 0 then p.mask else t) target)
    else if t = 0 then .next (s.finish id b (.bra o) a)
    else if !s.targetOk a target then .next (s.badTarget id b p t target)
    else if n = 0 then .next (s.moveAll id b a p target)
    else
      let np := { p with mask := n }.past (instrBytes (.bra o))
      let pl := s.braPlan a p t n target r np (o.mod.getLsbD 0)
      let tStay := !pl.tArr && !(match pl.exp with | some (true, _, _) => true | _ => false)
      let nStay := !pl.nArr && !(match pl.exp with | some (false, _, _) => true | _ => false)
      let other := a.slot (!b)
      let spill := tStay && nStay && other.path.isSome
      if pl.stack.length + (if spill then 1 else 0) > a.dsn then .next (s.diverge id b a p t)
      else
        let kept := if spill then s.keepPages id (!b) other.wait else (s, other.wait)
        let s := kept.1
        let a1 := { (a.issued s) with stack := pl.stack }
        let a1 := if pl.tArr then a1.endPath (.own pl.j) else a1
        let a1 := if pl.nArr then a1.endPath (.own pl.j) else a1
        let tp : Path := { (p.goto target) with mask := t, jix := .own pl.j }
        let nq : Path := { np with jix := .own pl.j }
        let a2 : Agent :=
          if tStay && nStay then
            let a1 := match other.path with
              | some q => { a1 with stack := a1.stack ++ [(⟨.path, q.pos, q.mask, 0, q.jix, other.stopped, kept.2⟩ : Entry)], spills := a1.spills + 1 }
              | none => a1
            (a1.setPath b (some nq)).setSlot (!b) (Slot.of (some tp) .none false s.tail)
          else if tStay then a1.setSlot b (Slot.of (some tp) .none false s.tail)
          else if nStay then a1.setPath b (some nq)
          else a1.setPath b none
        match pl.exp with
        | none => .next (s.settle id a2)
        | some (isT, k, ctxs) =>
          let f := a.fragment id pl.j r (if isT then ⟨target, 0⟩ else np.pos) (if isT then t else n) k ctxs s.tail
            (s.fragStackBase a k ctxs)
          let s1 := s.settle id { a2 with exports := a2.exports + 1 }
          .next { (s1.setAgent s.nextId f).sendDown f (.start s.nextId) with nextId := s.nextId + 1 }

def jmpOp (i : Instr) (o : MOps) (s : State) : Host.Outcome State Fault Refusal :=
  s.onPath fun id b a p =>
    let t := litTarget p o
    if t.toNat % 4 ≠ 0 then .next (s.badTarget id b p p.mask t)
    else if !guardAlways o.g then .next (s.finish id b i a)
    else
      if s.targetOk a t then .next (s.moveAll id b a p t) else .next (s.badTarget id b p p.mask t)

/-- JMP (R197). -/
def execJmp (o : MOps) (s : State) : Host.Outcome State Fault Refusal := jmpOp (.jmp o) o s
/-- JMP.S (R94). -/
def execJmpS (off : BitVec 20) (s : State) : Host.Outcome State Fault Refusal := jmpOp (.jmpS off) (shortOps (.jmpS off)) s

/-- BRX: an absolute target in a scalar pair (R197). -/
def execBrx (o : MOps) (s : State) : Host.Outcome State Fault Refusal :=
  s.onPath fun id b a p =>
    if !guardAlways o.g then .next (s.finish id b (.brx o) a)
    else
      let t := BitVec.ofNat 64 (valA s a o (.bits 2) 0)
      if s.targetOk a t then .next (s.moveAll id b a p t) else .next (s.badTarget id b p p.mask t)

/-- The path stands at the last instruction of its clause. -/
def Path.last (p : Path) : Bool := match p.phase with | .body _ h => decide (p.pos.ix + 1 = h.len.toNat) | .header => false

/-- CALL of a target, lit when the encoding alone gives it (R82): one push of a CALL record whose r is the header position after the clause (R198). -/
def callOp (i : Instr) (o : MOps) (lit : Bool) (target : Agent → Path → DWord) (s : State) : Host.Outcome State Fault Refusal :=
  s.onPath fun id b a p =>
    let t := a.active p o.g
    let tg := target a p
    if !p.last then .next (s.illop id b p (if t = 0 then p.mask else t))
    else if lit = true ∧ tg.toNat % 4 ≠ 0 then .next (s.badTarget id b p (if t = 0 then p.mask else t) tg)
    else if t = 0 then .next (s.finish id b i a)
    else if !s.targetOk a tg then .next (s.badTarget id b p t tg)
    else if a.stack.length + 1 > a.dsn then .next (s.diverge id b a p t)
    else
      let q := (p.past (instrBytes i)).pos
      let j := a.stack.length
      let a1 := { (a.issued s) with stack := a.stack ++ [(⟨.call, q, p.mask, 1, p.jix, false, .none⟩ : Entry)] }
      .next (s.settle id (a1.setSlot b { a.slot b with path := some { (p.goto tg) with mask := t, jix := .own j }, rank := s.tail }))

/-- CALL (R198). -/
def execCall (o : MOps) (s : State) : Host.Outcome State Fault Refusal := callOp (.call o) o true (fun _ p => litTarget p o) s
/-- CALL.R (R198). -/
def execCallR (o : MOps) (s : State) : Host.Outcome State Fault Refusal :=
  callOp (.callR o) o false (fun a _ => BitVec.ofNat 64 (valA s a o (.bits 2) 0)) s

/-- Active lanes leave the path for the r of its record; the rest goes on at the next index (R199). -/
def State.leavePath (s : State) (id : Nat) (b : Bool) (i : Instr) (a : Agent) (p : Path) (t : Mask) : State :=
  let rest := p.mask &&& ~~~t
  match p.jix, decide (rest = 0) with
  | .parent _, true =>
    -- the whole first path of a fragment stands at J's r
    match a.kind with
    | .frag _ _ r => s.settle id ((a.issued s).setPath b (some (p.goto r)))
    | _ => s.settle id (a.issued s)
  | _, _ => s.settle id ((a.issued s).setPath b (some ({ p with mask := rest }.past (instrBytes i))))

/-- The kind and r of a path's record: an entry of its own stack or, for the first path of a fragment, of its parent's (R190, R196). -/
def State.recordOf (s : State) (a : Agent) (p : Path) : Option (EntryKind × DWord) :=
  match p.jix, a.kind with
  | .own k, _ => (a.stack[k]?).map (fun e => (e.kind, e.pos.hdr))
  | .parent k, .frag parent _ r => (s.agent? parent).bind (fun x => (x.stack[k]?).map (fun e => (e.kind, r)))
  | _, _ => none
/-- Active lanes go to r, which like every transfer's target must lie within the code (R189, R199, R217). -/
def State.leaveTo (s : State) (id : Nat) (b : Bool) (i : Instr) (a : Agent) (p : Path) (t : Mask) (r : DWord) : State :=
  if s.targetOk a r then s.leavePath id b i a p t else s.badTarget id b p t r

def retOp (i : Instr) (o : MOps) (s : State) : Host.Outcome State Fault Refusal :=
  s.onPath fun id b a p =>
    let t := a.active p o.g
    if t = 0 then .next (s.finish id b i a)
    else match s.recordOf a p with
      | some (.call, r) => .next (s.leaveTo id b i a p t r)
      | _ => .next (s.illop id b p t)

/-- RET (R199). -/
def execRet (o : MOps) (s : State) : Host.Outcome State Fault Refusal := retOp (.ret o) o s
/-- RET, short (R93). -/
def execRetS (o : SOps) (s : State) : Host.Outcome State Fault Refusal := retOp (.retS o) (shortOps (.retS o)) s

/-- JOIN (R199): a NOP on a path without a record. -/
def execJoin (o : MOps) (s : State) : Host.Outcome State Fault Refusal :=
  s.onPath fun id b a p =>
    let t := a.active p o.g
    if t = 0 then .next (s.finish id b (.join o) a)
    else match s.recordOf a p with
      | none => .next (s.finish id b (.join o) a)
      | some x => .next (s.leaveTo id b (.join o) a p t x.2)

def yieldOp (i : Instr) (o : MOps) (s : State) : Host.Outcome State Fault Refusal :=
  s.onPath fun id b a _ =>
    if guardAlways o.g then .next (s.finish id b i (a.setSlot b { a.slot b with rank := s.tail })) else .next (s.finish id b i a)

/-- YIELD: behind every other ready slot, once (R201). -/
def execYield (o : MOps) (s : State) : Host.Outcome State Fault Refusal := yieldOp (.yield o) o s
/-- YIELD, short (R93). -/
def execYieldS (o : SOps) (s : State) : Host.Outcome State Fault Refusal := yieldOp (.yieldS o) (shortOps (.yieldS o)) s

/-- A new staging set: dirty registers of the old one that leave it are written back; the copies of those that enter carry what their rows do (R63, R64; log 30). -/
def Agent.region (a : Agent) (o : MOps) : Agent :=
  let x := { a with stgBase := o.a.field.toNat, stgMap := o.lit.getD 0, staging := true }
  let stay (r : Nat) : Bool := a.staged.contains r && x.staged.contains r
  { x with
    bad := a.rowsBack (fun r => !(stay r)), stgDirty := a.stgDirty.filter stay, badStg := a.badStg.filter (fun y => stay y.1)
    stgPar := (a.parOf (x.staged.filter (fun r => !(stay r)))).foldl (fun m y => mapSet m y.1 y.2) (a.stgPar.filter (fun y => stay y.1)) }
/-- REGION: a new staging descriptor; dirty registers of the old set that leave it are written back (R63, R202). A no-op on a narrow core (R66). -/
def execRegion (o : MOps) (s : State) : Host.Outcome State Fault Refusal :=
  s.onPath fun id b a _ =>
    match a.core with
    | .narrow _ => .next (s.finish id b (.region o) a)
    | .wide _ _ =>
      if !guardAlways o.g then .next (s.finish id b (.region o) a)
      else
        .next (s.finish id b (.region o) (a.region o))

/-- SLEEP: the slot waits, its path past the instruction; a value above 65,535 is taken as 65,535, in cycles of the arithmetic clock (R12, R216). -/
def execSleep (o : MOps) (s : State) : Host.Outcome State Fault Refusal :=
  s.onPath fun id b a _ =>
    if !guardAlways o.g then .next (s.finish id b (.sleep o) a)
    else
      let n := valB s a o (.bits 1) 0
      .next (s.finish id b (.sleep o) (if n = 0 then a else a.setSlot b { a.slot b with wait := .sleep (32 * min n 65535) }))

def nopOp (i : Instr) (s : State) : Host.Outcome State Fault Refusal := s.onPath fun id b a _ => .next (s.finish id b i a)
/-- NOP (R214). -/
def execNop (o : MOps) (s : State) : Host.Outcome State Fault Refusal := nopOp (.nop o) s
/-- NOP, short (R93). -/
def execNopS (o : SOps) (s : State) : Host.Outcome State Fault Refusal := nopOp (.nopS o) s

end Sys2Proof.Machine
end

