-- ==== Sys2Proof/Machine/Resources.lean ====
section
/-! DEFINITION. What a cluster has free: slot units, register blocks, group-memory granules, resident groups; and the fit of a group (R9, R61, R345 to R348, R400). -/

namespace Sys2Proof.Machine

/-- An agent that has not started: every register zero (R49 to R52, R55). -/
def Agent.blank : Agent :=
  { kind := .grid, vf := 0, ctx := 0, launch := 0, group := none, warp := 0, gid := 0, gsize := 0, ngroups := 0, cluster := 0
    core := .wide 0 0, units := [], width := 0, started := 0, live := 0, nregs := 0, vregs := [], sregs := [], preds := [], flags := []
    fpc := 0, xth := 0, tpc := 0, tix := 0, tcause := 0, taddr := 0, sbase := 0, sshift := 0x0505, sfmt := 0x1616
    slotA := emptySlot, slotB := emptySlot, stack := [], dsb := 0, dsn := 0, handler := none, stgBase := 0, stgMap := 0, staging := true, bad := [], badStg := [], stgPar := [], stgDirty := []
    tickhi := none, wdc := 0, cyc := 0, tokenWait := 0, insn := 0, opndSlow := 0, regOor := 0, bankWait := 0, exports := 0, spills := 0
    ops := [], traps := [], granules := [], begun := true, asked := [], owed := [], tasks := [], gmGran := [], faulted := false, halted := false
    spilt := false, unfilled := [], saved := [], gmSpilt := [], gmUnfilled := [], lost := none, stkLost := none }

/-- Slot units of a warp of a width (R61). -/
def unitsOf (width : Nat) : Nat := width / 16
/-- Register blocks of a warp (R61). -/
def blocksOf (width nregs : Nat) : Nat := nregs / 8 * (width / 16)

/-- Use of a quadrant: held units, units of halted contexts, and the blocks of each. -/
structure QuadUse where
  hard : List Nat
  soft : List Nat
  hardBlocks : Nat
  softBlocks : Nat
  deriving DecidableEq, Repr

/-- What the retired warps of groups of contexts that are not halted still hold on a cluster (R244, R348, R400). -/
def State.heldBy (s : State) (cluster : Nat) : List (Nat × Core × List Nat × Nat) :=
  s.groups.flatMap (fun g => if g.2.cluster = cluster ∧ s.ctxHalted g.2.vf g.2.ctx = false then g.2.held.map (fun x => (g.1, x)) else [])
/-- The use of quadrant q of a cluster by agents. -/
def State.agentUse (s : State) (cluster q : Nat) : QuadUse :=
  s.agents.foldl (fun u x =>
    if x.2.cluster = cluster ∧ x.2.core = .wide (q / 4) (q % 4) then
      match s.unitUse x.2 with
      | 0 => u
      | 1 => { u with soft := u.soft ++ x.2.units, softBlocks := u.softBlocks + blocksOf x.2.width x.2.nregs }
      | _ => { u with hard := u.hard ++ x.2.units, hardBlocks := u.hardBlocks + blocksOf x.2.width x.2.nregs }
    else u) ⟨[], [], 0, 0⟩
/-- The use of quadrant q of a cluster. -/
def State.quadUse (s : State) (cluster q : Nat) : QuadUse :=
  (s.heldBy cluster).foldl (fun u x =>
    if x.2.1 = .wide (q / 4) (q % 4) then { u with hard := u.hard ++ x.2.2.1, hardBlocks := u.hardBlocks + x.2.2.2 } else u) (s.agentUse cluster q)
/-- The quadrant of a cluster with nothing on it. -/
def QuadUse.none : QuadUse := ⟨[], [], 0, 0⟩
/-- Units taken. -/
def QuadUse.take (u : QuadUse) (us : List Nat) (blocks : Nat) : QuadUse := { u with hard := u.hard ++ us, hardBlocks := u.hardBlocks + blocks }
/-- The first aligned units that are free (R61; log 16). -/
def QuadUse.find (u : QuadUse) (n : Nat) : Option (List Nat) :=
  ((List.range (24 / n)).map (fun k => (List.range n).map (fun i => n * k + i))).find? (fun us => us.all (fun x => !(u.hard.contains x)))
/-- A warp fits the quadrant. -/
def QuadUse.fits (u : QuadUse) (n blocks : Nat) : Option (List Nat) := if u.hardBlocks + blocks ≤ 512 then u.find n else Option.none
/-- Nothing of a halted context stands in the way of the units and blocks (R400). -/
def QuadUse.clear (u : QuadUse) (us : List Nat) (blocks : Nat) : Bool :=
  us.all (fun x => !(u.soft.contains x)) && decide (u.hardBlocks + u.softBlocks + blocks ≤ 512)

/-- Groups resident on a wide core (R9, R345). -/
def State.residents (s : State) (cluster core : Nat) : List Nat :=
  let live := s.agents.foldl (fun l x => if x.2.cluster = cluster ∧ x.2.core.quad / 4 = core ∧ x.2.core.isWide = true ∧ s.unitUse x.2 = 2
    then (match x.2.group with | some g => insertNat l g | none => l) else l) []
  (s.heldBy cluster).foldl (fun l x => if x.2.1.quad / 4 = core then insertNat l x.1 else l) live

/-- Granules of group memory that a VF's banks give it on a cluster (R345, R372). -/
def State.bankGranules (s : State) (cluster vf : Nat) : List Nat := (s.part cluster vf).gmb.flatMap (fun b => (List.range 16).map (fun i => 16 * b + i))
/-- How a granule that a context's group, wave or task area lists is held: 0 not at all, 1 by a halted context, 2 held (R400). -/
def State.keptAs (s : State) (vf ctx : Nat) (spilt : Bool) : Nat := if s.ctxHalted vf ctx then (if spilt then 0 else 1) else 2
/-- How a granule of a cluster is held (R345, R400). -/
def State.granuleUse (s : State) (cluster g : Nat) : Nat :=
  let ofGroups := s.groups.foldl (fun n x =>
    if x.2.cluster = cluster ∧ x.2.granules.contains g then max n (s.keptAs x.2.vf x.2.ctx (x.2.spilt.contains g)) else n) 0
  let ofAreas := s.launches.foldl (fun n x =>
    if (mapGetD x.2.tgran cluster []).contains g then max n (s.keptAs x.2.vf x.2.ctx ((mapGetD x.2.tspilt cluster []).contains g)) else n) ofGroups
  s.agents.foldl (fun n x =>
    if x.2.cluster = cluster ∧ x.2.gmGran.contains g then max n (s.keptAs x.2.vf x.2.ctx (x.2.gmSpilt.contains g)) else n) ofAreas
/-- The n lowest-numbered free granules of a VF's banks (R345). -/
def State.takeGranules (s : State) (cluster vf n : Nat) : Option (List Nat) :=
  let l := (((s.bankGranules cluster vf).foldl insertNat []).filter (fun g => decide (s.granuleUse cluster g < 2))).take n
  if l.length = n then some l else none
def State.granulesClear (s : State) (cluster : Nat) (l : List Nat) : Bool := l.all (fun g => s.granuleUse cluster g == 0)

/-- A group's need (R345): its warps, their units and blocks, and its granules. -/
structure GroupNeed where
  warps  : Nat
  units  : Nat
  blocks : Nat
  gran   : Nat
  deriving DecidableEq, Repr
def Kernel.need (k : Kernel) : GroupNeed := ⟨ceilDiv k.gsize k.width, unitsOf k.width, blocksOf k.width k.regs, k.gmem⟩

/-- Where each warp of a group goes: quadrant and units. -/
abbrev Placing := List (Nat × List Nat)

/-- The quadrant for one more warp: among those that can take it, the one with the most free units, the lowest on a tie (R345). -/
def pickQuad (quads : List Nat) (use : Nat → QuadUse) (ok : Nat → Bool) (n blocks : Nat) : Option (Nat × List Nat) :=
  quads.foldl (fun best q =>
    match (if ok q then (use q).fits n blocks else none) with
    | none => best
    | some us =>
      match best with
      | none => some (q, us)
      | some b => if (use b.1).hard.length > (use q).hard.length then some (q, us) else best) none

/-- The fit of a group on a cluster, given how its quadrants are used and how many groups each wide core holds (R345). -/
def fitWarps (quads : List Nat) (n blocks : Nat) (full : Nat → Bool) : Nat → (Nat → QuadUse) → Option Placing
  | 0, _ => some []
  | k + 1, use =>
    match pickQuad quads use (fun q => !(full (q / 4))) n blocks with
    | none => none
    | some (q, us) => (fitWarps quads n blocks full k (fun x => if x = q then (use x).take us blocks else use x)).map (fun l => (q, us) :: l)

/-- Quadrants of a cluster that a VF owns. -/
def State.ownQuads (s : State) (cluster vf : Nat) : List Nat := (List.range 8).filter (fun q => s.ownsQuad cluster vf q)
/-- A compute chiplet has been fenced (R422). -/
def State.chipletFenced (s : State) (c : Nat) : Bool := match mapGet? s.chiplets c with | some x => x.fenced | none => false
/-- Clusters where a VF owns a quadrant, in increasing index, but for those fenced (R291, R346, R422). -/
def State.clusterFenced (s : State) (c : Nat) : Bool := s.fencedClusters.contains c || s.chipletFenced (c / 16)
def State.ownClusters (s : State) (vf : Nat) : List Nat :=
  (List.range 128).filter (fun c => (s.part c vf).qmask != 0 && !(s.fencedClusters.contains c) && !(s.chipletFenced (c / 16)))

/-- The fit of a group as things stand (R345, R348). -/
def State.fit (s : State) (cluster vf : Nat) (k : Kernel) : Option (Placing × List Nat) :=
  let n := k.need
  let full (w : Nat) : Bool := decide ((s.residents cluster w).length ≥ 16) || (s.disp cluster w).drain
  match fitWarps (s.ownQuads cluster vf) n.units n.blocks full n.warps (s.quadUse cluster), s.takeGranules cluster vf n.gran with
  | some p, some g => some (p, g)
  | _, _ => none
/-- The fit of a group on a cluster taken as empty (R342). -/
def State.fitEmpty (s : State) (cluster vf : Nat) (k : Kernel) : Bool :=
  let n := k.need
  (fitWarps (s.ownQuads cluster vf) n.units n.blocks (fun _ => false) n.warps (fun _ => QuadUse.none)).isSome
    && decide (n.gran ≤ (s.bankGranules cluster vf).length)

end Sys2Proof.Machine
end

