-- ==== Sys2Proof/Machine/Launches.lean ====
section
/-! DEFINITION. Launch queues: doorbells, acceptance, placement and completion (R289 to R292, R337 to R348). -/

namespace Sys2Proof.Machine

def State.ctx? (s : State) (vf ctx : Nat) : Option Ctx := mapGet? (s.vf vf).ctxs ctx
def State.modCtx (s : State) (vf ctx : Nat) (f : Ctx → Ctx) : State := s.modVf vf (fun v => { v with ctxs := mapMod v.ctxs ctx f })
def Ctx.queue? (c : Ctx) (q : Nat) : Option Queue := mapGet? c.queues q
def State.modQueue (s : State) (r : QRef) (f : Queue → Queue) : State := s.modCtx r.vf r.ctx (fun c => { c with queues := mapMod c.queues r.q f })

/-- DOORBELL_WRITE (R337, R338): recorded as the queue's tail, but from STOP on not accepted (R425). -/
def execDoorbellWrite (q : QRef) (tail : Word) (s : State) : Host.Outcome State Fault Refusal :=
  if (s.vf q.vf).stopped || !(s.vf q.vf).enabled then .next s
  else .next (s.modCtx q.vf q.ctx (fun c => { c with tails := mapPut 0 c.tails q.q tail }))

/-- The device's own accesses for a queue: the locations once they translate; otherwise what has been asked for (R338, R344, R350). -/
def State.devAccess (s : State) (who : Waiter) (vf pasid : Nat) (need : Need) (va n : Nat) : State × Option (List (Acc × Loc)) :=
  match s.plan who [0] vf pasid need (rangeAccs 0 va n) with
  | .go l => if l.any (fun x => !s.sound x.2 x.1.n || s.heldLoc x.2) then (s, none) else (s, some l)
  | .miss l => (l.foldl (fun s x => s.ask who [0] vf pasid (pageOf x.va) false) s, none)
  | _ => (s, none)
/-- Bytes that the device reads for a queue. -/
def State.devRead (s : State) (who : Waiter) (vf pasid va n : Nat) : State × Option (List Byte) :=
  let x := s.devAccess who vf pasid needR va n
  (x.1, x.2.map (fun l => l.flatMap (fun y => s.load y.2 y.1.n)))
/-- The device's work for a launch as a thread (R288). -/
def launchParty (id vf : Nat) : Party := ⟨.launch id, vf, some id, 0, none, 0⟩
/-- Bytes that the device reads for a launch as a snapshot, by events of its own (R289). -/
def State.devSight (s : State) (who : Waiter) (vf pasid va n : Nat) (e : Ev) : State × Option (List Byte) :=
  let x := s.devAccess who vf pasid needR va n
  match x.2 with
  | none => (x.1, none)
  | some l =>
    let v := x.1.sight (l.map (fun y => ({ e with acc := x.1.accAt e.acc y.2 }, y.2.spots y.1.n)))
    (v.1, some (l.flatMap (fun y => v.1.loadIn v.2 y.2 y.1.n)))
/-- Bytes that the device writes for a queue, as an event. -/
def State.devWrite (s : State) (who : Waiter) (vf pasid va : Nat) (bs : List Byte) (e : Ev) : State × Bool :=
  let x := s.devAccess who vf pasid needW va bs.length
  match x.2 with
  | none => (x.1, false)
  | some l => ((l.foldl (fun (y : State × List Byte) z => (y.1.put e z.2 (y.2.take z.1.n), y.2.drop z.1.n)) (x.1, bs)).1, true)

/-- A wait of a launch record (R339): VALUE, WEN, WQ. -/
def waitField (rcd k : Nat) : Nat × Bool × Nat := (field rcd (8 * (32 + 16 * k)) 64, rcd.testBit (8 * (32 + 16 * k) + 71), field rcd (8 * (32 + 16 * k) + 64) 5)
/-- A queue of the context is enabled (R337). -/
def Ctx.enabled (c : Ctx) (q : Nat) : Bool := match c.queue? q with | some x => x.en | none => false
/-- A wait is satisfied; one on a queue that is not enabled does not hold the record back, which is then refused (R340, R342). -/
def Ctx.waitDone (c : Ctx) (w : Nat × Bool × Nat) : Bool :=
  !w.2.1 || (match c.queue? w.2.2 with | some x => !x.en || decide (w.1 ≤ x.completed) | none => true)

/-- A kernel descriptor's bytes as a snapshot (R341); none when a field is out of its range (R342). -/
def kernelOf (d : Nat) : Option Kernel :=
  let k := field d 256 32
  let f := field d 320 32
  let wid := field k 21 2
  let regs := field k 12 9
  let gsize := field k 0 12
  let gmem := field (field d 288 32) 0 9
  let dsn := field d 352 16
  let en := f.testBit 4
  let t := field f 0 4
  let code := field d 0 64
  let handler := field d 64 64
  let entry := field d 416 32
  if code % 4 ≠ 0 ∨ handler % 4 ≠ 0 ∨ entry % 4 ≠ 0 ∨ entry ≥ 2 ^ 27 ∨ wid = 3 ∨ regs % 8 ≠ 0 ∨ regs = 0 ∨ regs > 256 ∨ gsize = 0 ∨ gsize > 2048
      ∨ gmem > 256 ∨ dsn = 0 ∨ (en = true ∧ (t = 0 ∨ t > 8)) ∨ (en = false ∧ t ≠ 0) then none
  else some
    { code := BitVec.ofNat 64 code, handler := BitVec.ofNat 64 handler, tet := BitVec.ofNat 64 (field d 128 64), save := BitVec.ofNat 64 (field d 192 64)
      width := 16 * 2 ^ wid, regs := regs, gsize := gsize, gmem := gmem, fpc := BitVec.ofNat 32 (field f 8 4 * 256), en := en, t := t
      dsn := dsn, wdog := field d 384 32, entry := entry }

/-- A row of a task-entry table (R290). -/
def tetEntryOf (e : Nat) : TetEntry := ⟨BitVec.ofNat 64 (field e 0 64), field e 64 8, field e 72 8, field e 80 4, field e 88 16, e.testBit 104⟩
/-- A row within its limits (R189, R290). -/
def TetEntry.ok (t : TetEntry) (code : DWord) : Bool :=
  t.code.toNat % 4 == 0 && decide ((t.code - code).toNat < codeSpan) && decide (1 ≤ t.rgn) && decide (t.rgn ≤ 32) && decide (t.wgm ≤ 64) && decide (t.nt ≤ 8)
/-- A table read: DRN, TSH and the rows (R290). -/
structure Tet where
  drn  : Nat
  tsh  : Nat
  rows : List TetEntry
  deriving DecidableEq, Repr
/-- A table within its limits, and every wave of it fits each cluster taken as empty (R290). -/
def Tet.ok (t : Tet) (s : State) (vf : Nat) (code : DWord) : Bool :=
  decide (1 ≤ t.drn) && t.tsh % 4096 == 0 && decide (t.tsh ≤ 0x80000) && decide (1 ≤ t.rows.length) && decide (t.rows.length ≤ 128)
    && t.rows.all (fun r => r.ok code && (s.ownClusters vf).all (fun c => decide (t.tsh + r.wgm * 4096 ≤ 4096 * (s.bankGranules c vf).length)))

/-- What acceptance has read. -/
structure Snapshot where
  kern : Option Kernel
  tet  : Option Tet
  /-- something is out of its limits -/
  bad  : Bool
  deriving DecidableEq, Repr

/-- The kernel descriptor and the table read as snapshots, by strong reads at `.dev` of the launch that is accepted (R289, R341). -/
def State.snapshot (s : State) (who : Waiter) (vf pasid kd : Nat) : State × Option Snapshot :=
  let e := Ev.of (launchParty s.nextId vf) (.at 2)
  if kd % 64 ≠ 0 then (s, some ⟨none, none, true⟩)
  else match s.devSight who vf pasid kd 64 e with
    | (s, none) => (s, none)
    | (s, some bs) =>
      match kernelOf (ofBytes bs) with
      | none => (s, some ⟨none, none, true⟩)
      | some k =>
        let ta := k.tet.toNat
        if ta = 0 then (s, some ⟨some k, none, false⟩)
        else if ta % 16 ≠ 0 then (s, some ⟨some k, none, true⟩)
        else match s.devSight who vf pasid ta 16 e with
          | (s, none) => (s, none)
          | (s, some h) =>
            let hd := ofBytes h
            let n := field hd 0 8
            if n = 0 ∨ n > 128 then (s, some ⟨some k, none, true⟩)
            else match s.devSight who vf pasid (ta + 16) (32 * n) e with
              | (s, none) => (s, none)
              | (s, some es) =>
                let body := ofBytes es
                let t : Tet := ⟨field hd 56 8, field hd 32 20, (List.range n).map (fun i => tetEntryOf (field body (256 * i) 256))⟩
                (s, some ⟨some k, some t, false⟩)

/-- Launches of a queue that have not completed, and the one with a given number. -/
def State.launchAt (s : State) (r : QRef) (n : Nat) : Option (Nat × Launch) :=
  s.launches.find? (fun x => x.2.vf == r.vf && x.2.ctx == r.ctx && x.2.q == r.q && x.2.n == n)
/-- A VF has an accepted launch that has not completed. -/
def State.busyVf (s : State) (vf : Nat) : Bool := s.launches.any (fun x => x.2.vf == vf)
def State.busyCtx (s : State) (vf ctx : Nat) : Bool := s.launches.any (fun x => x.2.vf == vf && x.2.ctx == ctx)

/-- The shared task area on each cluster where the tasks may run; none while it cannot be taken on one (R292, R348). -/
def State.takeAreas (s : State) (vf tsh : Nat) : Option (NMap (List Nat)) :=
  if tsh = 0 then some []
  else (s.ownClusters vf).foldl (fun acc c => match acc, s.takeGranules c vf (tsh / 4096) with
    | some m, some g => if s.granulesClear c g then some (mapSet m c g) else none
    | _, _ => none) (some [])

def Kernel.none : Kernel := ⟨0, 0, 0, 0, 16, 8, 1, 0, 0, false, 0, 1, 0, 0⟩

/-- The acceptance of a launch: an acquire at `.sys`, after the host's writes so far and the completions that its waits name (R288). -/
def State.accepts (s : State) (r : QRef) (c : Ctx) (ws : List (Nat × Bool × Nat)) : State :=
  let after := ws.flatMap (fun w => if w.2.1 then
      ((List.range (((c.queue? w.2.2).map (fun x => x.completed)).getD 0 + 1)).filter (fun k => decide (w.1 ≤ k))).map (fun k => Link.number r.vf r.ctx w.2.2 k)
    else [])
  s.note { Ev.of (launchParty s.nextId r.vf) (.acquire 3) with gives := [.opened s.nextId], takes := after, follows := [(.host, s.nextEv)] }
/-- LAUNCH_ACCEPT (R338 to R342, R348, R403): the next record of a queue. -/
def execLaunchAccept (r : QRef) (s : State) : Host.Outcome State Fault Refusal :=
  match s.ctx? r.vf r.ctx with
  | none => .next s
  | some c =>
    match c.queue? r.q with
    | none => .next s
    | some q =>
      if !q.en || (s.vf r.vf).stopped || (mapGetD c.tails r.q 0) = BitVec.ofNat 32 q.accepted then .next s
      else
        let who : Waiter := .queue r
        match s.devRead who r.vf c.pasid (q.base.toNat + 128 * (q.accepted % 2 ^ q.logn)) 128 with
        | (s, none) => .next s
        | (s, some bs) =>
          let rcd := ofBytes bs
          let ws := (List.range 4).map (waitField rcd)
          if !ws.all c.waitDone then .next s
          else match (s.accepts r c ws).snapshot who r.vf c.pasid (field rcd 0 64) with
            | (t, none) => .next { t with events := s.events }
            | (t, some sn) =>
              let old := s.events
              let s := t
              let k := sn.kern.getD Kernel.none
              let n := field rcd 128 32
              let ok := !sn.bad && decide (n ≠ 0) && !(ws.any (fun w => w.2.1 && !(c.enabled w.2.2)))
                && (match sn.tet with | some t => t.ok s r.vf k.code | none => true)
                && (s.ownClusters r.vf).any (fun cl => s.fitEmpty cl r.vf k)
              let tsh := match sn.tet with | some t => if ok then t.tsh else 0 | none => 0
              match s.takeAreas r.vf tsh with
              | none => .next { s with events := old }
              | some areas =>
                let l : Launch :=
                  { vf := r.vf, ctx := r.ctx, q := r.q, n := q.accepted, arg := BitVec.ofNat 64 (field rcd 64 64), ngroups := n, ser := rcd.testBit 160
                    prio := q.prio, kern := k, drn := (sn.tet.map (fun t => t.drn)).getD 1, tsh := tsh, tet := (sn.tet.map (fun t => t.rows)).getD []
                    hasTet := sn.tet.isSome, placed := 0, retired := 0, cursor := 0, passed := [], refused := !ok, fault := false, taskFail := false
                    taskErr := false, lost := false, first := none, nfault := 0, done := false, tareas := [], tgran := areas, tspilt := [], tunfilled := [] }
                let s1 := if ok && !s.launches.any (fun x => x.2.vf == r.vf && x.2.ctx == r.ctx && !x.2.refused) then s.modCtx r.vf r.ctx (fun c => { c with save := some k.save }) else s
                let s2 := areas.foldl (fun s x => s.freshGranules x.1 x.2) (s1.modQueue r (fun q => { q with accepted := q.accepted + 1 }))
                .next ((State.jot { s2 with launches := mapSet s2.launches s2.nextId l, nextId := s2.nextId + 1 } (.accepted s2.nextId)).forget who)

/-- The head group of a launch may be placed (R346, R395). -/
def State.placeable (s : State) (l : Launch) : Bool :=
  !l.refused && decide (l.placed < l.ngroups) && s.ctxRuns l.vf l.ctx
    && (l.n == 0 || (match s.launchAt ⟨l.vf, l.ctx, l.q⟩ (l.n - 1) with
        | some x => !l.ser && (x.2.refused || decide (x.2.placed = x.2.ngroups))
        | none => true))
/-- Launch x is offered resources before launch y (R347). -/
def before (x y : Nat × Launch) : Bool := decide (x.2.prio > y.2.prio) || (x.2.prio == y.2.prio && decide (x.1 < y.1))
/-- Launch y may block launch x: x is of lower priority or of later acceptance (R347). -/
def blocks (y x : Nat × Launch) : Bool := decide (y.2.prio > x.2.prio) || decide (y.1 < x.1)
/-- Clusters where the head group of a launch fits and no launch blocks it, from its cursor on (R346, R347). -/
def State.placesOf (s : State) (x : Nat × Launch) : List Nat :=
  let own := s.ownClusters x.2.vf
  let ring := own.filter (fun c => decide (x.2.cursor ≤ c)) ++ own.filter (fun c => decide (c < x.2.cursor))
  let others := s.launches.filter (fun y => blocks y x && s.placeable y.2)
  ring.filter (fun c => (s.fit c x.2.vf x.2.kern).isSome && !(others.any (fun y => decide (mapGetD y.2.passed c 0 ≥ 1024))))

/-- The lanes of warp k of a group of G threads and width w (R243). -/
def warpLanes (g w k : Nat) : Mask := maskTo (min w (g - w * k))

/-- A grid warp as it starts (R343). -/
def State.gridWarp (s : State) (id : Nat) (l : Launch) (cluster group gid k quad : Nat) (units : List Nat) : Agent :=
  let core : Core := .wide (quad / 4) (quad % 4)
  let m := warpLanes l.kern.gsize l.kern.width k
  { Agent.blank with
    kind := .grid, vf := l.vf, ctx := l.ctx, launch := id, group := some group, warp := k, gid := BitVec.ofNat 32 gid, gsize := l.kern.gsize
    ngroups := l.ngroups, cluster := cluster, core := core, units := units, width := l.kern.width, started := m, live := m, nregs := l.kern.regs
    sregs := mapPut 0 (mapPut 0 [] 4 (l.arg.zeroExtend 32)) 5 (BitVec.ofNat 32 (l.arg.toNat / 2 ^ 32))
    fpc := l.kern.fpc, xth := BitVec.ofNat 32 (l.kern.t + if l.kern.en then 256 else 0)
    slotA := Slot.of (some ⟨⟨l.kern.code + BitVec.ofNat 64 l.kern.entry, 0⟩, m, .none, .header⟩) .none false s.tail
    dsb := s.dsbAt l.vf l.ctx cluster core ((units.head?).getD 0), dsn := l.kern.dsn }

/-- A group placed on a cluster. -/
def State.putGroup (s : State) (id : Nat) (l : Launch) (cluster : Nat) (p : Placing) (gran : List Nat) : State :=
  let g := s.nextId
  let warps := p.zipIdx
  let group : Group :=
    { launch := id, vf := l.vf, ctx := l.ctx, gid := l.placed, cluster := cluster, granules := gran, gm := []
      warps := warps.map (fun x => (x.2, g + 1 + x.2)), live := warps.map (fun x => (x.2, warpLanes l.kern.gsize l.kern.width x.2))
      barriers := [], held := [], faulted := false, lost := false, spilt := [], unfilled := [], recOut := false }
  let s1 := warps.foldl (fun s x => s.setAgent (g + 1 + x.2) (s.gridWarp id l cluster g l.placed x.2 x.1.1 x.1.2)) (s.freshGranules cluster gran)
  State.jot { s1 with groups := mapSet s1.groups g group, nextId := g + 1 + warps.length } (.placed id l.placed)

/-- The other launches that are passed over on a cluster count the group placed there (R347). -/
def State.countPassed (s : State) (x : Nat × Launch) (cluster : Nat) : State :=
  { s with launches := s.launches.map (fun y =>
      if y.1 != x.1 && s.placeable y.2 && (s.ownClusters y.2.vf).contains cluster && (s.fit cluster y.2.vf y.2.kern).isNone
      then (y.1, { y.2 with passed := mapAdd' y.2.passed cluster }) else y) }
where
  mapAdd' (m : NMap Nat) (k : Nat) : NMap Nat := mapSet m k (mapGetD m k 0 + 1)

/-- The cluster where the head group of a launch is to be placed now: no launch before it can be placed (R346, R347). -/
def State.nextPlace (s : State) (x : Nat × Launch) : Option Nat :=
  if !s.placeable x.2 || s.launches.any (fun y => before y x && s.placeable y.2 && !(s.placesOf y).isEmpty) then none
  else (s.placesOf x).head?

/-- GROUP_PLACE (R345 to R348): the head group of a launch, when no launch before it can be placed; units of halted contexts are claimed first (R400). -/
def execGroupPlace (launch : Nat) (s : State) : Host.Outcome State Fault Refusal :=
  match mapGet? s.launches launch with
  | none => .next s
  | some l =>
    match s.nextPlace (launch, l) with
      | none => .next s
      | some c =>
        match s.fit c l.vf l.kern with
        | none => .next s
        | some (p, gran) =>
          let clear := s.granulesClear c gran && (List.range 8).all (fun q =>
            let mine := p.filter (fun x => x.1 == q)
            mine.isEmpty || (s.quadUse c q).clear (mine.flatMap (fun x => x.2)) (mine.length * l.kern.need.blocks))
          if !clear then .next s
          else
            let s1 := (s.putGroup launch l c p gran).countPassed (launch, l) c
            .next (s1.modLaunch launch (fun l => { l with placed := l.placed + 1, cursor := c + 1, passed := [] }))

/-- The identity of a launch (R291). -/
def State.identOf (s : State) (launch : Nat) : LaunchId :=
  match mapGet? s.launches launch with
  | some l => ⟨l.vf, s.pasidOf l.vf l.ctx, l.q, l.n⟩
  | none => ⟨0, 0, 0, 0⟩
/-- The launch has run to its end (R344). -/
def State.launchOver (s : State) (id : Nat) (l : Launch) : Bool :=
  l.refused || (decide (l.placed = l.ngroups) && decide (l.retired = l.placed)
    && !(s.recs.any (fun x => x.2.launch == id && x.2.st != .free && x.2.st != .held)) && !(s.stranded.any (fun x => x.2.launch == id && x.2.st != .held))
    && !(s.agents.any (fun x => x.2.launch == id)) && !(s.packets.any (fun p => p.isNew && (match p.peer with | none => p.launch == id | some x => x.2 == s.identOf id))))
/-- STATUS (R344). -/
def Launch.status (l : Launch) : List Byte :=
  let bit (b : Bool) (n : Nat) : Nat := if b then 2 ^ n else 0
  let c := l.first.getD (0, 0, 0)
  bytesOf (bit l.refused 0 + bit l.fault 1 + bit l.taskFail 2 + bit l.taskErr 3 + bit l.lost 4 + 256 * c.1) 4
    ++ bytesOf c.2.1.toNat 4 ++ bytesOf c.2.2.toNat 8 ++ bytesOf l.nfault 4 ++ bytesOf 0 12

/-- LAUNCH_COMPLETE (R344): the oldest launch of the queue, once over: STATUS, then the completion word. -/
def execLaunchComplete (r : QRef) (s : State) : Host.Outcome State Fault Refusal :=
  match s.ctx? r.vf r.ctx with
  | none => .next s
  | some c =>
    match c.queue? r.q with
    | none => .next s
    | some q =>
      match s.launchAt r q.completed with
      | none => .next s
      | some (id, l) =>
        if !s.launchOver id l then .next s
        else
          let who : Waiter := .queue r
          let x := s.devAccess who r.vf c.pasid needW q.caddr.toNat 8
          match x.2 with
          | none => .next x.1
          | some _ =>
            match x.1.devWrite who r.vf c.pasid (q.base.toNat + 128 * (q.completed % 2 ^ q.logn) + 96) l.status (Ev.of (launchParty id r.vf) .weak) with
            | (s, false) => .next s
            | (s, true) =>
              -- a release at `.sys`, after every event of the launch (R288)
              let s1 := (s.devWrite who r.vf c.pasid q.caddr.toNat (bytesOf (q.completed + 1) 8)
                { Ev.of (launchParty id r.vf) (.release 3) with takes := [.over id], gives := [.number r.vf r.ctx r.q (q.completed + 1)] }).1
              let s2 := s1.modQueue r (fun q => { q with completed := q.completed + 1 })
              .next ((State.jot (State.closeRings { s2 with launches := mapErase s2.launches id } (.tasks id)) (.completed id)).forget who)

end Sys2Proof.Machine
end

