-- ==== Sys2Proof/Machine/Fetch.lean ====
section
/-! DEFINITION. Instruction fetch, and the clause header (R71 to R81, R350, R352, R358). -/

namespace Sys2Proof.Machine

/-- A fetched parcel, or the state after what the fetch met. -/
inductive Fetched where
  | ok (w : Word)
  | stop (s : State)

/-- One parcel fetched: translated with Exe; a page not present parks the slot at its header position (R72, R351, R357, R358). Code written under a launch that has not completed is fetched as it is now, where R73 leaves open which bytes come (log 33). -/
def State.fetchParcel (s : State) (id : Nat) (b : Bool) (a : Agent) (p : Path) (va : DWord) : Fetched :=
  let who : Waiter := .slot id b
  let pasid := s.pasidOf a.vf a.ctx
  match s.xlate who a.caches a.vf pasid va.toNat needX with
  | .failed => .stop ((s.forget who).raise id b p.pos p.mask ⟨cXLAT, false, 0, va⟩)
  | .miss => .stop (s.ask who a.caches a.vf pasid (pageOf va.toNat) true)
  | .absent k =>
    .stop ((s.modAgent id (fun a => a.setSlot b { a.slot b with path := some { p with phase := .header } })).parkOn id b a.vf pasid [(pageOf va.toNat, k)])
  | .ok l _ =>
    if s.heldLoc l then .stop s
    else if s.sound l 4 then .ok (BitVec.ofNat 32 (ofBytes (s.load l 4)))
    else .stop ((s.reportPoison a.vf l).raise id b p.pos p.mask ⟨cMEMINT, false, 0, BitVec.ofNat 64 (va.toNat / 256 * 256)⟩)

/-- The address of the instruction n places on, by the kinds of the parcels before it (R71, R76). -/
def State.skipInstrs (s : State) (id : Nat) (b : Bool) (a : Agent) (p : Path) (pc : DWord) : Nat → DWord ⊕ State
  | 0 => .inl pc
  | n + 1 =>
    match s.fetchParcel id b a p pc with
    | .stop s => .inr s
    | .ok w => s.skipInstrs id b a p (pc + BitVec.ofNat 64 (4 * lengthOf w)) n

/-- Of recorded traps, the one recorded first, and among those the one issued first (R178). -/
def oldestTrap (l : List PendingTrap) : Option PendingTrap :=
  l.foldl (fun best t => match best with
    | none => some t
    | some x => if t.time < x.time ∨ (t.time = x.time ∧ t.seq < x.seq) then some t else some x) none
def PendingTrap.info (t : PendingTrap) : TrapInfo := ⟨t.cause, true, t.lane, t.addr⟩
/-- A recorded trap taken in a slot at a position (R178). -/
def State.takePending (s : State) (id : Nat) (b : Bool) (pos : Pos) (t : PendingTrap) : State :=
  (s.modAgent id (fun a => { a with traps := a.traps.filter (fun x => x != t) })).trapEntry id b pos t.info

/-- Every flag that a wait mask names is clear (R77). -/
def Agent.flagsClear (a : Agent) (w : BitVec 12) : Bool := (List.range 12).all (fun i => !(w.getLsbD i) || a.flag i == 0)
/-- The recorded trap that a header takes, outside handler mode (R178). -/
def Agent.headerTrap (a : Agent) (w : BitVec 12) : Option PendingTrap :=
  if a.handler.isSome then none
  else oldestTrap (a.traps.filter (fun t => match t.flag with | some f => w.getLsbD f | none => true))

/-- CLAUSE (R18, R74 to R81, R178): at a header position, once its wait is satisfied, a pending trap is taken, with TIX 0, or the clause starts, at index 0 or at the index at which the path resumes. -/
def execClause (h : ClauseHdr) (s : State) : Host.Outcome State Fault Refusal :=
  s.onPath fun id b a p =>
    match p.phase with
    | .body _ _ => .next (s.illop id b p p.mask)
    | .header =>
      if !a.flagsClear h.wait then .next s
      else match a.headerTrap h.wait with
        | some t => .next (s.takePending id b ⟨p.pos.hdr, 0⟩ t)
        | none =>
          if p.pos.ix > 0 ∧ h.len.toNat ≤ p.pos.ix then .next (s.illop id b p p.mask)
          else match s.skipInstrs id b a p (p.pos.hdr + 4) p.pos.ix with
            | .inr s => .next s
            | .inl pc => .next ((s.joinCommands id a p.mask h.wait).setAgent id (a.setPath b (some { p with phase := .body pc h })))

end Sys2Proof.Machine
end

