-- ==== Sys2Proof/Machine/Tasks.lean ====
section
/-! DEFINITION. Task instructions (R203 to R208, R305 to R307). -/

namespace Sys2Proof.Machine

/-- The entry index of a task instruction: B or the literal, unsigned (R204). -/
def entryOf (s : State) (a : Agent) (o : MOps) : Nat := valB s a o (.bits 1) 0
/-- The entry is in the launch's task-entry table (R204). -/
def State.entryOk (s : State) (a : Agent) (e : Nat) : Bool :=
  match s.launchOf a with | some l => l.hasTet && decide (e < l.tet.length) | none => false
/-- The launch has a task-entry table (R204). -/
def State.hasTable (s : State) (a : Agent) : Bool := match s.launchOf a with | some l => l.hasTet | none => false
/-- The argument record of a lane (R204). -/
def argsOf (a : Agent) (o : MOps) (L : Nat) : List Word := (List.range 8).map (fun k => a.v (o.c.toNat + k) L)
/-- TASKERR of lanes at issue, with TADDR 0 (R204, R207). -/
def State.taskErr (s : State) (id : Nat) (b : Bool) (p : Path) (m : Mask) : State :=
  s.raiseAt id b p.pos m (fun L => ⟨cTASKERR, false, L, 0⟩)

/-- FORK (R205): ready tasks at the head of the issuing core's deque; deferred in a task that is not irrevocable. It issues once every record is there (R204). -/
def execFork (o : MOps) (s : State) : Host.Outcome State Fault Refusal :=
  s.onPath fun id b a p =>
    let act := a.active p o.g
    let e := entryOf s a o
    if act = 0 then .next (s.finish id b (.fork o) a)
    else if !s.entryOk a e then .next (s.taskErr id b p act)
    else
      let full := s.overflow a act (fun L => .fork e (argsOf a o L))
      .next (s.irrevThen id b act full (fun s a p =>
        let act := a.active p o.g
        let soft := s.softLanes a act
        let hard := act &&& ~~~soft
        if s.freeCount a.cluster < popMask hard then s
        else
          let s1 := (lanesOf soft).foldl (fun s L => s.bufferLane a L (.fork e (argsOf a o L))) s
          let s2 := (lanesOf hard).foldl (fun s L =>
            match s.takeRec a.cluster (newRec e (argsOf a o L) a.launch a.wideCore .ready false false) with
            | some x => (x.1.enqueued id a L [.made (4096 * a.cluster + x.2)]).pushHead a.cluster a.wideCore a.vf x.2
            | none => s) s1
          s2.finish id b (.fork o) (a.account s2 (.fork o))))

/-- One lane's SPAWN: a record, its handle, and the attach (R205). -/
def State.spawnLane (s : State) (id : Nat) (a : Agent) (o : MOps) (spec : Bool) (e L : Nat) (l : Loc) (va : Nat) : State × Word × Bool :=
  let core := s.chooseCore a.cluster a.vf
  match s.takeRec a.cluster (newRec e (argsOf a o L) a.launch (if spec then core else a.wideCore) (if spec then .spec else .waiting) spec true) with
  | none => (s, noHandle, true)
  | some (s1, r) =>
    let h := s1.handleOf a.cluster r
    let x := s1.attach (a.party id L) l va h a.launch (a.cluster / 16)
    if x.2 then
      let s2 := if spec then x.1.pushHead a.cluster core a.vf r else x.1
      (if a.isWave then s2.conflict (a.writerKey L) [l.line] else s2, h, true)
    else ((s1.modRec (4096 * a.cluster + r) (fun r => { r with attached := false })).endRec (4096 * a.cluster + r), h, false)

def spawnOp (i : Instr) (o : MOps) (spec : Bool) (s : State) : Host.Outcome State Fault Refusal :=
  s.onPath fun id b a p =>
    let act := a.active p o.g
    let e := entryOf s a o
    if act = 0 then .next (s.finish id b i a)
    else if !s.entryOk a e then .next (s.taskErr id b p act)
    else .next (s.irrevThen id b act (s.softLanes a act) (fun s a p =>
      let act := a.active p o.g
      let accs := (lanesOf act).map (fun L => (⟨L, valA s a o (.bits 2) L, 8⟩ : Acc))
      if s.freeCount a.cluster < popMask act then s
      else s.alignAll id b p accs (s.access id b a p needRW accs (fun s locs =>
        let bad := locs.filter (fun x => !s.sound x.2 8)
        if !bad.isEmpty then s.memint id b p bad
        else
          let x := locs.foldl (fun (x : State × List (Nat × Word) × List Acc) y =>
            let z := x.1.spawnLane id a o spec e y.1.lane y.2 y.1.va
            (z.1, x.2.1 ++ [(y.1.lane, z.2.1)], if z.2.2 then x.2.2 else x.2.2 ++ [y.1])) (s, [], [])
          let a1 := x.2.1.foldl (fun a w => a.setV o.d.toNat w.1 w.2) (a.account s i)
          let s1 := x.1.finish id b i a1
          match x.2.2 with
          | [] => s1
          | y :: _ => s1.recordTrap id none s.nextId cTASKERR y.va y.lane (maskOf (fun L => x.2.2.any (fun z => z.lane == L)))))))

/-- SPAWN (R205). -/
def execSpawn (o : MOps) (s : State) : Host.Outcome State Fault Refusal := spawnOp (.spawn o) o false s
/-- SPAWN.SPEC (R205). -/
def execSpawnSpec (o : MOps) (s : State) : Host.Outcome State Fault Refusal := spawnOp (.spawnSpec o) o true s

/-- DEP.DEC and DEP.ADD (R206): one atomic for each lane, in lane order; the NR form of a task that is not irrevocable is buffered. -/
def depOp (i : Instr) (o : MOps) (isAdd : Bool) (s : State) : Host.Outcome State Fault Refusal :=
  s.onPath fun id b a p =>
    let act := a.active p o.g
    let nr := o.mod.getLsbD 0
    if act = 0 then .next (s.finish id b i a)
    else if !s.hasTable a then .next (s.taskErr id b p act)
    else
      let first := if nr then s.overflow a act (fun L => .dep isAdd (globAddr s a o L) 0 (.dev 0)) else s.softLanes a act
      .next (s.irrevThen id b act first (fun s a p =>
        let act := a.active p o.g
        let accs := (lanesOf act).map (fun L => (⟨L, globAddr s a o L, 8⟩ : Acc))
        s.alignAll id b p accs (s.access id b a p needRW accs (fun s locs =>
          let bad := locs.filter (fun x => !s.sound x.2 8)
          if !bad.isEmpty then s.memint id b p bad
          else
            let soft := s.softLanes a act
            let x := locs.foldl (fun (x : State × List RegWrite × List Acc) y =>
              let L := y.1.lane
              let n := if isAdd then valC a o 1 L else 0
              if soft.getLsbD L then (x.1.bufferLane a L (.dep isAdd y.1.va n y.2), x.2.1, x.2.2)
              else
                let z := if isAdd then x.1.depAdd (a.party id L) y.2 n else x.1.depDec (a.party id L) y.2 y.1.va a.launch (a.cluster / 16)
                let s1 := if a.isWave && !z.2.2 then z.1.conflict (a.writerKey L) [y.2.line] else z.1
                (s1, if nr then x.2.1 else x.2.1 ++ laneWrites L o.d.toNat 1 z.2.1, if z.2.2 then x.2.2 ++ [y.1] else x.2.2)) (s, [], [])
            match x.1.agent? id with
            | none => x.1
            | some a =>
              let flag := p.flagOf o.fs
              let s1 := x.1.issueOp id b i a (opOf x.1 b flag (if nr then [] else [(o.d.toNat, 1)]) [] x.2.1)
              match x.2.2 with
              | [] => s1
              | y :: _ => s1.recordTrap id flag x.1.nextId cTASKERR y.va y.lane (maskOf (fun L => x.2.2.any (fun z => z.lane == L)))))))

/-- DEP.DEC (R206). -/
def execDepDec (o : MOps) (s : State) : Host.Outcome State Fault Refusal := depOp (.depDec o) o false s
/-- DEP.ADD (R206). -/
def execDepAdd (o : MOps) (s : State) : Host.Outcome State Fault Refusal := depOp (.depAdd o) o true s

/-- Lanes end, by EXIT or TEND: they leave every path and record and the barrier count; handler mode ends with its last path (R200, R211). -/
def State.endLanes (s : State) (id : Nat) (m : Mask) : State :=
  match s.agent? id with
  | none => s
  | some a =>
    let s1 := s.exitGroup id a m
    let s2 := s1.settle id (a.dropLanes m).endHandler
    -- lanes of a fragment leave the parent's records too
    match a.kind with
    | .frag parent _ _ => s2.modAgent parent (fun x => (x.dropLanes m).endHandler)
    | _ => s2

/-- A task's lane has ended it: it commits now, or once its speculative mark is clear (R207, R305, R309). -/
def State.endTask (s : State) (k : Nat) : State :=
  s.modRec k (fun r => { r with ended := true, st := if r.spec then r.st else .commit })

/-- Tasks of lanes end, and the lanes leave (R207). -/
def State.tendLanes (s : State) (id : Nat) (b : Bool) (i : Instr) (a : Agent) (act : Mask) : State :=
  let s1 := (lanesOf act).foldl (fun s L => match a.recKey L with | some k => s.endTask k | none => s) s
  (s1.finish id b i a).endLanes id act

/-- TEND (R207). -/
def execTend (o : MOps) (s : State) : Host.Outcome State Fault Refusal :=
  s.onPath fun id b a p =>
    let act := a.active p o.g
    if act = 0 then .next (s.finish id b (.tend o) a)
    else if !a.isWave then .next (s.taskErr id b p act)
    else .next (s.tendLanes id b (.tend o) a act)

def tabortOp (i : Instr) (o : MOps) (how : AbortHow) (s : State) : Host.Outcome State Fault Refusal :=
  s.onPath fun id b a p =>
    let act := a.active p o.g
    let irr := s.irrevLanes a act
    if act = 0 then .next (s.finish id b i a)
    else if !a.isWave then .next (s.taskErr id b p act)
    else if irr ≠ 0 then .next (s.taskErr id b p irr)
    else .next ((s.finish id b i a).abortLanes id act (fun _ => how))

/-- TABORT (R207). -/
def execTabort (o : MOps) (s : State) : Host.Outcome State Fault Refusal := tabortOp (.tabort o) o .requeue s
/-- TABORT.DROP (R207). -/
def execTabortDrop (o : MOps) (s : State) : Host.Outcome State Fault Refusal := tabortOp (.tabortDrop o) o .drop s

/-- RENQ (R208): a packet for each lane; deferred in a task that is not irrevocable. -/
def execRenq (o : MOps) (s : State) : Host.Outcome State Fault Refusal :=
  s.onPath fun id b a p =>
    let act := a.active p o.g
    let e := entryOf s a o
    let dst := fun L => BitVec.ofNat 32 (valA s a o (.bits 1) L)
    if act = 0 then .next (s.finish id b (.renq o) a)
    else if !s.entryOk a e then .next (s.taskErr id b p act)
    else
      let full := s.overflow a act (fun L => .renq (dst L) e (argsOf a o L))
      .next (s.irrevThen id b act full (fun s a p =>
        let act := a.active p o.g
        let soft := s.softLanes a act
        let hard := act &&& ~~~soft
        let ack := o.mod.getLsbD 0
        let s1 := (lanesOf soft).foldl (fun s L => s.bufferLane a L (.renq (dst L) e (argsOf a o L))) s
        let s2 := (lanesOf hard).foldl (fun s L =>
          (s.enqueued id a L []).sendPacket { taskPacket (dst L) e a.launch (argsOf a o L) (a.cluster / 16) (some (id, s1.nextId, L)) ack with evs := [s.nextEv] }) s1
        s2.issueOp id b (.renq o) a { (opOf s1 b (p.flagOf o.fs) [] [] []) with ready := decide (hard = 0), mayTrap := ack }))

end Sys2Proof.Machine
end

