-- ==== Sys2Proof/Machine/System.lean ====
section
/-! DEFINITION. EXIT, TRAP, BKPT, TRET, SYSRD, SYSWR and PMCRD (R55 to R59, R200, R209 to R215). -/

namespace Sys2Proof.Machine

/-- A path entry of the stack. -/
def Agent.hasPathEntry (a : Agent) : Bool := a.stack.any (fun e => e.kind == .path)
/-- The warp's final EXIT (R200). -/
def State.finalExit (s : State) (id : Nat) (b : Bool) (a : Agent) (act : Mask) : Bool :=
  a.isGrid && act == a.live && (a.slot (!b)).path.isNone && !a.hasPathEntry && (s.fragsOf id).isEmpty

def exitOp (i : Instr) (o : MOps) (s : State) : Host.Outcome State Fault Refusal :=
  s.onPath fun id b a p =>
    let act := a.active p o.g
    if act = 0 then .next (s.finish id b i a)
    else if a.isWave then .next (s.tendLanes id b i a act)
    else if s.finalExit id b a act then
      if a.ops.any (fun x => x.mayTrap) then .next s
      else match oldestTrap a.traps with
        | some t => .next (s.takePending id b p.pos t)
        | none => .next ((s.finish id b i a).endLanes id act)
    else .next ((s.finish id b i a).endLanes id act)
/-- EXIT (R200). -/
def execExit (o : MOps) (s : State) : Host.Outcome State Fault Refusal := exitOp (.exit o) o s
/-- EXIT, short (R93). -/
def execExitS (o : SOps) (s : State) : Host.Outcome State Fault Refusal := exitOp (.exitS o) (shortOps (.exitS o)) s

/-- A trap raised on purpose; it resumes after the instruction (R212). -/
def trapOp (i : Instr) (o : MOps) (cause : Nat) (addr : Agent → DWord) (s : State) : Host.Outcome State Fault Refusal :=
  s.onPath fun id b a p =>
    let act := a.active p o.g
    if act = 0 then .next (s.finish id b i a)
    else .next ((s.setAgent id (a.issued s)).raiseAt id b (p.past (instrBytes i)).pos act (fun L => ⟨cause, false, L, addr a⟩))

/-- TRAP (R212). -/
def execTrap (o : MOps) (s : State) : Host.Outcome State Fault Refusal :=
  s.onPath fun id b a p =>
    let code := valB s a o (.bits 1) 0
    if a.active p o.g ≠ 0 ∧ (code = 0 ∨ code > 11) then .next (s.illop id b p (a.active p o.g))
    else trapOp (.trap o) o code (fun a => BitVec.ofNat 64 (valA s a o (.bits 2) 0)) s
/-- BKPT (R212). -/
def execBkpt (o : MOps) (s : State) : Host.Outcome State Fault Refusal := trapOp (.bkpt o) o cBKPT (fun _ => 0) s
/-- BKPT, short (R93). -/
def execBkptS (o : SOps) (s : State) : Host.Outcome State Fault Refusal := trapOp (.bkptS o) (shortOps (.bkptS o)) cBKPT (fun _ => 0) s

/-- TRET (R213): the path goes to TPC and TIX, and the other slot resumes. -/
def execTret (o : MOps) (s : State) : Host.Outcome State Fault Refusal :=
  s.onPath fun id b a p =>
    if !guardAlways o.g then .next (s.finish id b (.tret o) a)
    else match a.handler with
      | none => .next (s.raise id b p.pos p.mask (plainTrap cPRIV))
      | some h =>
        if a.handlerSlot h ≠ b ∨ a.handlerRecords then .next (s.illop id b p p.mask)
        else
          let a1 := { (a.issued s).leaveHandler.restage with wdc := 0 }
          .next (s.settle id (a1.setPath b (some { p with pos := ⟨a.tpc, a.tix.toNat⟩, phase := .header })))

/-- A control register's value; none for a number that no rule assigns (R55). -/
def Agent.cr (a : Agent) (n : Nat) : Option Nat :=
  match n with
  | 0x00 => some a.fpc.toNat
  | 0x01 => some a.xth.toNat
  | 0x02 => some a.fst.toNat
  | 0x08 => some a.tpc.toNat
  | 0x09 => some a.tix.toNat
  | 0x0A => some a.tcause.toNat
  | 0x0B => some a.taddr.toNat
  | 0x10 => some a.sbase.toNat
  | 0x11 => some a.sshift.toNat
  | 0x12 => some a.sfmt.toNat
  | _ => none
/-- A control register written; reserved bits stay zero (R13, R56 to R59). -/
def Agent.setCr (a : Agent) (n v : Nat) : Agent :=
  match n with
  | 0x00 => { a with fpc := BitVec.ofNat 32 v &&& 0xF7F }
  | 0x08 => { a with tpc := BitVec.ofNat 64 v &&& ~~~(3 : DWord) }
  | 0x09 => { a with tix := BitVec.ofNat 32 v &&& 31 }
  | 0x0A => { a with tcause := BitVec.ofNat 32 v &&& 0x00FF00FF }
  | 0x0B => { a with taddr := BitVec.ofNat 64 v }
  | 0x10 => { a with sbase := BitVec.ofNat 64 v }
  | 0x11 => { a with sshift := BitVec.ofNat 32 v &&& 0x1F1F }
  | 0x12 => { a with sfmt := BitVec.ofNat 32 v &&& 0x31F1F }
  | _ => a
/-- Registers of handler mode alone (R55). -/
def crHandler (n : Nat) : Bool := decide (8 ≤ n) && decide (n ≤ 0x0B)
/-- Registers that are read only (R55). -/
def crReadOnly (n : Nat) : Bool := n == 1 || n == 2
def crRegs (n : Nat) : Nat := if shapeOf.cr64 n then 2 else 1

/-- SYSRD (R209). -/
def execSysrd (o : MOps) (s : State) : Host.Outcome State Fault Refusal :=
  s.onPath fun id b a p =>
    let n := o.c.toNat
    if !guardAlways o.g then .next (s.finish id b (.sysrd o) a)
    else match a.cr n with
      | none => .next (s.illop id b p p.mask)
      | some v =>
        if crHandler n ∧ a.handler = none then .next (s.raise id b p.pos p.mask (plainTrap cPRIV))
        else .next (s.finish id b (.sysrd o) (a.setSN o.d.toNat (crRegs n) v))

/-- SYSWR (R209). -/
def execSyswr (o : MOps) (s : State) : Host.Outcome State Fault Refusal :=
  s.onPath fun id b a p =>
    let n := o.c.toNat
    if !guardAlways o.g then .next (s.finish id b (.syswr o) a)
    else match a.cr n with
      | none => .next (s.illop id b p p.mask)
      | some _ =>
        if crReadOnly n ∨ (crHandler n ∧ a.handler = none) then .next (s.raise id b p.pos p.mask (plainTrap cPRIV))
        else .next (s.finish id b (.syswr o) (a.setCr n (valB s a o (.bits (crRegs n)) 0)))

/-- A performance counter; none for a selector not listed (R215). -/
def State.counter (s : State) (a : Agent) (sel : Nat) : Option Nat :=
  match sel with
  | 0 => some (a.cyc / 32)
  | 1 => some a.insn
  | 2 => some a.opndSlow
  | 3 => some a.regOor
  | 4 => some (mapGetD s.gmOor (64 * a.cluster + a.vf) 0)
  | 5 => some (mapGetD s.amaxLost (64 * a.cluster + a.vf) 0)
  | 6 => some a.bankWait
  | 7 => some a.exports
  | 8 => some a.spills
  | 9 => some (a.tokenWait / 32)
  | _ => none
/-- PMCRD (R215). -/
def execPmcrd (o : MOps) (s : State) : Host.Outcome State Fault Refusal :=
  s.onPath fun id b a p =>
    if !guardAlways o.g then .next (s.finish id b (.pmcrd o) a)
    else match s.counter a o.c.toNat with
      | none => .next (s.illop id b p p.mask)
      | some v => .next (s.finish id b (.pmcrd o) (a.setSN o.d.toNat 2 v))

end Sys2Proof.Machine
end

