-- ==== Sys2Proof/Machine/AgentSteps.lean ====
section
/-! DEFINITION. Steps of agents that no instruction takes: completion of long-latency operations, restored paths, the end of SLEEP, the watchdog, retirement (R52, R192, R200, R216, R244, R265). -/

namespace Sys2Proof.Machine

/-- A scalar register that an operation of the parent, outstanding at the export, had still to write reaches the fragment too (R53, R64). -/
def Agent.repay (a : Agent) (op : Outstanding) : Agent :=
  (a.owed.filter (fun x => x.1 == op.id)).foldl (fun a x =>
    let a := match op.writes.find? (fun w => w.lane == none && w.reg == x.2) with | some w => a.setS x.2 w.val | none => a
    { a with owed := a.owed.filter (fun y => y != x) }) a

/-- LONG_LATENCY_COMPLETE (R43, R52, R158): an operation that has been performed delivers and signals. -/
def execLongLatencyComplete (agent op : Nat) (s : State) : Host.Outcome State Fault Refusal :=
  match s.agent? agent with
  | none => .next s
  | some a =>
    match a.ops.find? (fun x => x.id == op) with
    | none => .next s
    | some x =>
      if !x.ready || !a.opFilled op then .next s
      else .next ((s.fragsOf agent).foldl (fun s f => s.modAgent f (fun y => y.repay x)) ((s.tellEvents agent op).setAgent agent (a.completeOp x)))

/-- PATH_RESTORE (R192): a free slot takes the topmost PATH entry; a halted agent keeps its positions (R396). Handler mode ends where its path has (R211). -/
def execPathRestore (agent : Nat) (s : State) : Host.Outcome State Fault Refusal :=
  match s.agent? agent with
  | none => .next s
  | some a => if a.halted then .next s else .next ((s.settle agent a).overHandler agent)

/-- SLEEP_END (R216): the cycles have passed. -/
def execSleepEnd (agent : Nat) (slotB : Bool) (s : State) : Host.Outcome State Fault Refusal :=
  match s.agent? agent with
  | none => .next s
  | some a =>
    if (a.slot slotB).wait = .sleep 0 then .next (s.setAgent agent (a.setSlot slotB { a.slot slotB with wait := .none }))
    else .next s

/-- A slot's path is parked on a page or asleep, or there is none (R265). -/
def Slot.resting (x : Slot) : Bool :=
  x.path.isNone || (match x.wait with | .sleep _ => true | .page _ _ _ => true | .fill => true | _ => false)
/-- Every running path of an agent rests, or the agent is halted. -/
def Agent.resting (a : Agent) : Bool := a.halted || (a.slotA.resting && a.slotB.resting)
/-- The record of a JIX lies within a record's pending members. -/
def reaches (st : List Entry) (i : Nat) (j : Jix) : Nat → Bool
  | 0 => false
  | fuel + 1 =>
    match j with
    | .own k => k == i || (match st[k]? with | some e => reaches st i e.jix fuel | none => false)
    | _ => false
/-- Some lane waits at a join record for a path of the agent itself: a live lane of the record that is in no path, in no fragment, and at no record within that one (R265). -/
def Agent.waitsForPath (a : Agent) (away : Mask) : Bool :=
  let n := a.stack.length + 1
  let member (i : Nat) : Mask :=
    (match a.slotA.path with | some p => if reaches a.stack i p.jix n then p.mask else 0 | none => 0)
    ||| (match a.slotB.path with | some p => if reaches a.stack i p.jix n then p.mask else 0 | none => 0)
    ||| a.stack.foldl (fun m e => if e.kind == .path && reaches a.stack i e.jix n then m ||| e.mask else m) 0
  let inPath : Mask :=
    (match a.slotA.path with | some p => p.mask | none => 0) ||| (match a.slotB.path with | some p => p.mask | none => 0)
    ||| a.stack.foldl (fun m e => if e.kind == .path then m ||| e.mask else m) 0
  let inner (i : Nat) : Mask := a.stack.foldl (fun m e => if (e.kind == .join || e.kind == .call) && e.jix == .own i then m ||| e.mask else m) 0
  (List.range a.stack.length).any (fun i => match a.stack[i]? with
    | some e => (e.kind == .join || e.kind == .call) && member i != 0 && (e.mask &&& a.live &&& ~~~(inPath ||| away ||| inner i)) != 0
    | none => false)
/-- Lanes of a warp that are in its fragments. -/
def State.awayLanes (s : State) (id : Nat) : Mask := (s.fragsOf id).foldl (fun m f => match s.agent? f with | some x => m ||| x.live | none => m) 0
/-- The watchdog counts for a warp or a wave now (R265). -/
def State.watched (s : State) (id : Nat) (a : Agent) : Bool :=
  !a.isFrag && !a.faulted && a.live != 0
    && !(a.resting && (s.fragsOf id).all (fun f => match s.agent? f with | some x => x.resting | none => true) && !a.waitsForPath (s.awayLanes id))
/-- The watchdog interval in mesh cycles; 0 disables it (R265, R341). -/
def State.wdogOf (s : State) (a : Agent) : Nat := match s.launchOf a with | some l => 1024 * l.kern.wdog | none => 0

/-- WDOG is taken in the lowest-lettered slot that holds a path; the answer is none when no slot does (R210). -/
def State.wdogIn (s : State) (id : Nat) : Option State :=
  match s.agent? id with
  | none => none
  | some a =>
    match a.slotA.path, a.slotB.path with
    | some p, _ => some (s.trapEntry id false p.pos (plainTrap cWDOG))
    | none, some p => some (s.trapEntry id true p.pos (plainTrap cWDOG))
    | none, none => none

/-- Fragments in the order of their narrow cores and contexts. -/
def State.fragOrder (s : State) (id : Nat) : List Nat :=
  let place (f : Nat) : Nat := match s.agent? f with | some x => (match x.core with | .narrow n => 8 * n + ((x.units.head?).getD 0) | _ => 0) | none => 0
  let ins (f : Nat) (l : List Nat) : List Nat := (l.takeWhile (fun g => decide (place g ≤ place f))) ++ f :: l.dropWhile (fun g => decide (place g ≤ place f))
  (s.fragsOf id).foldl (fun l f => ins f l) []

/-- WATCHDOG_EXPIRY (R265, R306, R307). -/
def execWatchdogExpiry (agent : Nat) (s : State) : Host.Outcome State Fault Refusal :=
  match s.agent? agent with
  | none => .next s
  | some a =>
    if a.isFrag || a.halted || s.wdogOf a = 0 || decide (a.wdc < s.wdogOf a) || !s.watched agent a then .next s
    else
      let s := s.setAgent agent { a with wdc := 0 }
      if a.isWave then
        let s1 := s.abortAll agent (fun L => .trap { (plainTrap cWDOG) with lane := L }) none
        match s1.agent? agent with
        | none => .next s1
        | some a1 => if a1.live = 0 then .next s1 else .next ((s1.wdogIn agent).getD s1)
      else match s.wdogIn agent with
        | some s' => .next s'
        | none => .next (((s.fragOrder agent).findSome? (fun f => s.wdogIn f)).getD s)

/-- Nothing of an agent runs or waits any more (R200). -/
def Agent.over (a : Agent) : Bool :=
  a.slotA.path.isNone && a.slotB.path.isNone && a.ops.isEmpty && (a.faulted || (a.live == 0 && a.stack.all (fun e => e.kind == .retired)))
/-- A task of the wave has still to commit (R293). -/
def State.committing (s : State) (agent : Nat) : Bool :=
  s.recs.any (fun x => x.2.agent == agent && (x.2.st == .commit || (x.2.st == .running && x.2.ended)))

/-- A group whose last warp has retired retires (R244, R344). -/
def State.retireGroup (s : State) (g : Nat) : State :=
  match mapGet? s.groups g with
  | none => s
  | some x =>
    if !x.warps.isEmpty then s
    else ((State.closeRings { s with groups := mapErase s.groups g } (.group g)).modLaunch x.launch (fun l => { l with retired := l.retired + 1 })).jot
      (.retired x.launch x.gid)

/-- Agents of a context. -/
def State.agentsOf (s : State) (vf ctx : Nat) : List (Nat × Agent) := s.agents.filter (fun x => x.2.vf == vf && x.2.ctx == ctx)
def State.setCtxSt (s : State) (vf ctx : Nat) (st : CtxSt) : State := s.modCtx vf ctx (fun c => { c with st := st })
/-- ST of a context that resumes is RUN again once every agent that it has is placed (R395). -/
def State.resumed (s : State) (vf ctx : Nat) : State :=
  match s.ctx? vf ctx with
  | some c => if c.st = .resuming ∧ (s.agentsOf vf ctx).all (fun x => !x.2.halted) = true then s.setCtxSt vf ctx .run else s
  | none => s
/-- WARP_RETIRE (R200, R244): an agent with no lane, no live fragment and nothing outstanding goes; a fragment only when its warp has ended with a fault status (R254). -/
def execWarpRetire (agent : Nat) (s : State) : Host.Outcome State Fault Refusal :=
  match s.agent? agent with
  | none => .next s
  | some a =>
    let gone : State := { s with agents := mapErase s.agents agent, scratch := mapErase s.scratch agent }
    let leave (s : State) : Host.Outcome State Fault Refusal := .next (s.resumed a.vf a.ctx)
    if !a.over then .next s
    else match a.kind with
      | .frag _ _ _ => if a.faulted then leave gone else .next s
      | .wave => if s.committing agent then .next s else leave gone
      | .grid =>
        if !(s.fragsOf agent).isEmpty then .next s
        else match a.group with
          | none => leave gone
          | some g =>
            let blocks := if a.core.isWide then blocksOf a.width a.nregs else 0
            leave ((gone.modGroup g (fun x => { x with warps := mapErase x.warps a.warp, held := x.held ++ [(a.core, a.units, blocks)] })).retireGroup g)

end Sys2Proof.Machine
end

