-- ==== Sys2Proof/Machine/FpAlu.lean ====
section
/-! DEFINITION. FP32 and FP64 arithmetic (R120 to R123) and the packed 16-bit forms (R124, R125). -/

namespace Sys2Proof.Machine


/-- Operands of a floating-point type, with FZ applied (R35). -/
def fpA (s : State) (a : Agent) (o : MOps) (L : Nat) : Val := readVal (tyOf o) a.fz (valA s a o (.fp (tyOf o)) L)
def fpB (s : State) (a : Agent) (o : MOps) (L : Nat) : Val := readVal (tyOf o) a.fz (valB s a o (.fp (tyOf o)) L)
def fpC (a : Agent) (o : MOps) (L : Nat) : Val := readVal (tyOf o) a.fz (valC a o (tyRegs o) L)

/-- The rounding mode of the instruction's rounding field (R33). -/
def rmOf (a : Agent) (o : MOps) : RMode := a.mode (modLow o)

/-- One-operand, two-operand and three-operand functions of group 0x2. -/
def fp1 (i : Instr) (o : MOps) (f : Agent → Val → Res) (s : State) : Host.Outcome State Fault Refusal :=
  vecOp i o (tyRegs o) (fun s a L => f a (fpA s a o L)) s
def fp2op (i : Instr) (o : MOps) (f : Agent → Val → Val → Res) (s : State) : Host.Outcome State Fault Refusal :=
  vecOp i o (tyRegs o) (fun s a L => f a (fpA s a o L) (fpB s a o L)) s
def fp3 (i : Instr) (o : MOps) (f : Agent → Val → Val → Val → Res) (s : State) : Host.Outcome State Fault Refusal :=
  vecOp i o (tyRegs o) (fun s a L => f a (fpA s a o L) (fpB s a o L) (fpC a o L)) s

/-- A bitwise function of the code (R122). -/
def fpSign (i : Instr) (o : MOps) (f : Nat → Nat) (s : State) : Host.Outcome State Fault Refusal :=
  vecOp i o (tyRegs o) (fun s a L => (f (valA s a o (.fp (tyOf o)) L), fNone)) s

/-- Clears, or inverts, the sign bit of a w-bit code (R122). -/
def clearSign (w x : Nat) : Nat := x % 2 ^ (w - 1)
def flipSign (w x : Nat) : Nat := x ^^^ 2 ^ (w - 1)

def addFpOp (i : Instr) (o : MOps) (s : State) : Host.Outcome State Fault Refusal :=
  fp2op i o (fun a => fpAdd (tyOf o) (binOf (tyOf o)) (rmOf a o) a.fz) s
def mulFpOp (i : Instr) (o : MOps) (s : State) : Host.Outcome State Fault Refusal :=
  fp2op i o (fun a => fpMul (tyOf o) (binOf (tyOf o)) (rmOf a o) a.fz) s

/-- ADD (R120). -/
def execAddFp (o : MOps) (s : State) : Host.Outcome State Fault Refusal :=
  addFpOp (.addFp o) o s
/-- SUB (R120). -/
def execSubFp (o : MOps) (s : State) : Host.Outcome State Fault Refusal :=
  fp2op (.subFp o) o (fun a => fpSub (tyOf o) (binOf (tyOf o)) (rmOf a o) a.fz) s
/-- MUL (R120). -/
def execMulFp (o : MOps) (s : State) : Host.Outcome State Fault Refusal :=
  mulFpOp (.mulFp o) o s
/-- FMA: exact before its one rounding (R120). -/
def execFmaFp (o : MOps) (s : State) : Host.Outcome State Fault Refusal :=
  fp3 (.fmaFp o) o (fun a => fpFma (tyOf o) (binOf (tyOf o)) (rmOf a o) a.fz) s
/-- DIV, correctly rounded (R120). -/
def execDivFp (o : MOps) (s : State) : Host.Outcome State Fault Refusal :=
  fp2op (.divFp o) o (fun a => divVal (tyOf o) (binOf (tyOf o)) (rmOf a o) a.fz) s
/-- MIN (R121). -/
def execMinFp (o : MOps) (s : State) : Host.Outcome State Fault Refusal :=
  fp2op (.minFp o) o (fun _ => fpMinMax (tyOf o) false) s
/-- MAX (R121). -/
def execMaxFp (o : MOps) (s : State) : Host.Outcome State Fault Refusal :=
  fp2op (.maxFp o) o (fun _ => fpMinMax (tyOf o) true) s
/-- ABS: the sign bit alone (R122). -/
def execAbsFp (o : MOps) (s : State) : Host.Outcome State Fault Refusal :=
  fpSign (.absFp o) o (clearSign (fmtWidth (tyOf o))) s
/-- NEG: the sign bit alone (R122). -/
def execNegFp (o : MOps) (s : State) : Host.Outcome State Fault Refusal :=
  fpSign (.negFp o) o (flipSign (fmtWidth (tyOf o))) s
/-- FRC (R123). -/
def execFrc (o : MOps) (s : State) : Host.Outcome State Fault Refusal :=
  fp1 (.frc o) o (fun _ => fpFrc (tyOf o)) s
/-- RNDI (R123). -/
def execRndi (o : MOps) (s : State) : Host.Outcome State Fault Refusal :=
  fp1 (.rndi o) o (fun a => fpRndi (tyOf o) (rmOf a o)) s
/-- SCALB: B is a 32-bit signed integer (R120, R123). -/
def execScalb (o : MOps) (s : State) : Host.Outcome State Fault Refusal :=
  vecOp (.scalb o) o (tyRegs o) (fun s a L =>
    fpScalb (tyOf o) (binOf (tyOf o)) (rmOf a o) a.fz (fpA s a o L) (sextNat (valB s a o (.bits 1) L) 32)) s
/-- GETEXP (R123). -/
def execGetexp (o : MOps) (s : State) : Host.Outcome State Fault Refusal :=
  fp1 (.getexp o) o (fun _ => fpGetexp (tyOf o) (binOf (tyOf o))) s
/-- GETMAN (R123). -/
def execGetman (o : MOps) (s : State) : Host.Outcome State Fault Refusal :=
  fp1 (.getman o) o (fun _ => fpGetman (tyOf o)) s
/-- CLAMP (R120, R121). -/
def execClampFp (o : MOps) (s : State) : Host.Outcome State Fault Refusal :=
  fp3 (.clampFp o) o (fun _ => fpClamp (tyOf o)) s
/-- ADD.F32.RN vD, vD, vA (R93). -/
def execAddF32S (o : SOps) (s : State) : Host.Outcome State Fault Refusal := addFpOp (.addF32S o) (shortOps (.addF32S o)) s
/-- MUL.F32.RN vD, vD, vA (R93). -/
def execMulF32S (o : SOps) (s : State) : Host.Outcome State Fault Refusal := mulFpOp (.mulF32S o) (shortOps (.mulF32S o)) s

end Sys2Proof.Machine
end

