-- ==== Sys2Proof/Machine/Convert.lean ====
section
/-! DEFINITION. CVT, PACK and UNPACK (R130 to R133). -/

namespace Sys2Proof.Machine

/-- The overflow mode of a conversion (R90). -/
def ovfOf (o : MOps) : Ovf := ⟨decide ((o.c.toNat / 32) % 4 = 1), decide ((o.c.toNat / 32) % 4 = 2)⟩

/-- Bits an element takes in a register: the 6-bit formats stand in their byte form (R23). -/
def elemBits (f : Fmt) : Nat := if fmtWidth f = 6 then 8 else fmtWidth f

/-- DYN into D8 when FPC.RM is not RN raises ILLOP (R33). -/
def dynBad (a : Agent) (o : MOps) : Bool := dtOf o == D8 && modLow o == 7 && a.rm != 0

/-- A conversion instruction: with the check of DYN at issue when some lane is active (R33, R82, R130). -/
def cvtOp (i : Instr) (o : MOps) (n : Nat) (f : State → Agent → Nat → Res) (s : State) : Host.Outcome State Fault Refusal :=
  s.onPath fun id b a p =>
    if dynBad a o && a.active p o.g != 0 then .next (s.illop id b p (a.active p o.g))
    else vecOp i o n f s

/-- The source code of CVT and PACK: the value of A, or its element 0 (R130). -/
def cvtSrc (s : State) (a : Agent) (o : MOps) (L : Nat) : Nat :=
  srcValue s a (.bits (regsOfTy (stOf o))) L o.a % 2 ^ (if fmtWidth (stOf o) = 64 then 64 else fmtWidth (stOf o))

/-- The conversion of one code (R36 to R40). -/
def cvtOne (a : Agent) (o : MOps) (c : Nat) : Res := convertCode (dtOf o) (stOf o) (rmOf a o) a.fz (ovfOf o) c

/-- CVT (R130). -/
def execCvt (o : MOps) (s : State) : Host.Outcome State Fault Refusal :=
  cvtOp (.cvt o) o (tyRegs o) (fun s a L => cvtOne a o (cvtSrc s a o L)) s

/-- Bits x with n bits at lo replaced by v. -/
def putBits (x lo n v : Nat) : Nat := x - (x / 2 ^ lo % 2 ^ n) * 2 ^ lo + (v % 2 ^ n) * 2 ^ lo

/-- Byte form of 16 elements in 128 bits to the dense string of 96 bits (R133). -/
def toDense (x : Nat) : Nat := (List.range 16).foldl (fun d i => d + (x / 2 ^ (8 * i) % 64) * 2 ^ (6 * i)) 0
/-- Dense string to byte form (R133). -/
def toBytes (x : Nat) : Nat := (List.range 16).foldl (fun d i => d + (x / 2 ^ (6 * i) % 64) * 2 ^ (8 * i)) 0

/-- PACK (R131, R133): a lane whose index is out of range writes its old D. -/
def execPack (o : MOps) (s : State) : Host.Outcome State Fault Refusal :=
  if isDense o then
    vecOp (.pack o) o 4 (fun s a L => (toDense (srcValue s a (.bits 4) L o.a), fNone)) s
  else
    cvtOp (.pack o) o 1 (fun s a L =>
      let w := elemBits (dtOf o)
      let j := valB s a o (.bits 1) L
      let old := a.vN o.d.toNat L 1
      if j < 32 / w then let r := cvtOne a o (cvtSrc s a o L); (putBits old (w * j) w r.1, r.2) else (old, fNone)) s

/-- UNPACK (R132, R133): a lane whose index is out of range writes zero. -/
def execUnpack (o : MOps) (s : State) : Host.Outcome State Fault Refusal :=
  if isDense o then
    vecOp (.unpack o) o 4 (fun s a L => (toBytes (srcValue s a (.bits 4) L o.a), fNone)) s
  else
    cvtOp (.unpack o) o (tyRegs o) (fun s a L =>
      let w := elemBits (stOf o)
      let j := valB s a o (.bits 1) L
      if j < 32 / w then cvtOne a o (srcValue s a (.bits 1) L o.a / 2 ^ (w * j) % 2 ^ fmtWidth (stOf o)) else (0, fNone)) s

end Sys2Proof.Machine
end

