-- ==== Sys2Proof/Machine/Amax.lean ====
section
/-! DEFINITION. Amax rings and quantizing conversion (R134 to R137). The model performs every ring update at one instant (log 2). -/

namespace Sys2Proof.Machine

/-- A ring; one never assigned has no owner. -/
def State.amaxRing (s : State) (id : Nat) : AmaxRing := mapGetD s.amax id ⟨none, List.replicate 16 0, 0⟩
/-- The ring is assigned to a VF (R134). -/
def State.ownsAmax (s : State) (id vf : Nat) : Bool := (s.amaxRing id).owner == some vf
/-- A ring's maximum, as FP32 bits; entries are not negative, so their codes are ordered as their values (R134). -/
def AmaxRing.top (r : AmaxRing) : Nat := (r.entries.map BitVec.toNat).foldl max 0
/-- One event on a ring the VF does not own (R134). -/
def State.amaxMiss (s : State) (a : Agent) : State :=
  let k := 64 * a.cluster + a.vf
  { s with amaxLost := mapPut 0 s.amaxLost k (mapGetD s.amaxLost k 0 + 1) }
/-- The maximum an instruction reads: +0 for a ring the VF does not own. -/
def State.amaxTop (s : State) (a : Agent) (id : Nat) : Nat := if s.ownsAmax id a.vf then (s.amaxRing id).top else 0
/-- A ring of the VF updated; otherwise the update is discarded and counted. -/
def State.amaxMod (s : State) (a : Agent) (id : Nat) (f : AmaxRing → AmaxRing) : State :=
  if s.ownsAmax id a.vf then { s with amax := mapSet s.amax id (f (s.amaxRing id)) } else s.amaxMiss a
/-- A read of a ring the VF does not own is counted. -/
def State.amaxRead (s : State) (a : Agent) (id : Nat) : State := if s.ownsAmax id a.vf then s else s.amaxMiss a
/-- `ring_record`: the head entry becomes the larger (R135). -/
def AmaxRing.record (m : Nat) (r : AmaxRing) : AmaxRing :=
  { r with entries := r.entries.modify r.head (fun e => BitVec.ofNat 32 (max e.toNat m)) }

/-- Fmax of CVT.Q's destinations, times 2 so that it is whole (R135). -/
def fmaxTwice (dt : Fmt) : Nat :=
  match dt with
  | 0x04 => 896 | 0x05 => 114688 | 0x06 => 56 | 0x07 => 15 | 0x08 => 12 | 0x0A => 254 | 0x0C => 14 | _ => 2
/-- n of CVT.Q: 0 for a zero maximum, else floor(log2(Fmax / rmax)) held to -127 to 127 (R135). -/
def quantScale (dt : Fmt) (rmax : Nat) : Int :=
  match decodeVal FP32 rmax with
  | .fin _ m e =>
    let k := floorLog2Q (fmaxTwice dt) m - e - 1
    max (-127) (min 127 k)
  | _ => 0

/-- |A| as an FP32 code for a finite value, exact for FP32, BF16 and FP16. -/
def absCode (v : Val) : Option Nat :=
  match v with
  | .zero _ => some 0
  | .fin _ m e => some (encodeExact FP32 (.fin false m e))
  | _ => none
/-- The largest magnitude of a list of finite values; none when there is none (R135). -/
def blockMax (l : List Val) : Option Nat := (l.filterMap absCode).foldl (fun acc x => some (max (acc.getD 0) x)) none

/-- The ring id of CVT.Q (B) or AMAX (A). -/
def ringIdB (s : State) (a : Agent) (o : MOps) : Nat := valB s a o (.bits 1) 0
def ringIdA (s : State) (a : Agent) (o : MOps) : Nat := valA s a o (.bits 1) 0

/-- A value scaled by 2^n (R135). -/
def scaleVal (n : Int) (v : Val) : Val := match v with | .fin s m e => .fin s m (e + n) | v => v

/-- CVT.Q (R135): a ring id above 63 raises ILLOP at issue; the ring is read before the record is made. -/
def execCvtQ (o : MOps) (s : State) : Host.Outcome State Fault Refusal :=
  s.onPath fun id b a p =>
    let act := a.active p o.g
    let r := ringIdB s a o
    if act = 0 then .next (s.finish id b (.cvtQ o) a)
    else if r > 63 then .next (s.illop id b p act)
    else
      let n := quantScale (dtOf o) (s.amaxTop a r)
      let src := fun L => readVal (stOf o) a.fz (cvtSrc s a o L)
      let rs := (lanesOf act).map (fun L => (L, convertVal (dtOf o) (rmOf a o) a.fz (ovfOf o) (scaleVal n (src L))))
      let a' := rs.foldl (fun x q => (x.setVN o.d.toNat q.1 1 q.2.1).raise q.2.2) (a.account s (.cvtQ o))
      let s' := s.amaxRead a r
      let s' := match blockMax ((lanesOf act).map src) with
        | some m => if s.ownsAmax r a.vf then s'.amaxMod a r (AmaxRing.record m) else s'
        | none => s'
      .next (s'.finish id b (.cvtQ o) a')

/-- An AMAX operation with a scalar destination, once for the warp (R136). -/
def amaxGet (i : Instr) (o : MOps) (f : State → Agent → Nat → Nat) (s : State) : Host.Outcome State Fault Refusal :=
  s.onPath fun id b a p =>
    let r := ringIdA s a o
    if !guardAlways o.g then .next (s.finish id b i a)
    else if r > 63 then .next (s.illop id b p p.mask)
    else .next ((s.amaxRead a r).finish id b i ((a.account s i).setSN o.d.toNat 1 (f s a r)))

/-- An AMAX update, once when some lane is active (R136). -/
def amaxPut (i : Instr) (o : MOps) (f : State → Agent → Mask → Nat → State) (s : State) : Host.Outcome State Fault Refusal :=
  s.onPath fun id b a p =>
    let act := a.active p o.g
    let r := ringIdA s a o
    if act = 0 then .next (s.finish id b i a)
    else if r > 63 then .next (s.illop id b p act)
    else .next ((f s a act r).finish id b i (a.account s i))

/-- AMAX.RD (R136). -/
def execAmaxRd (o : MOps) (s : State) : Host.Outcome State Fault Refusal := amaxGet (.amaxRd o) o (fun s a r => s.amaxTop a r) s
/-- AMAX.REC: the maximum over the active lanes' finite FP32 values of vC (R136); FPC.FZ flushes its subnormals as an operand's, where R35 and R136 say nothing (log 33). -/
def execAmaxRec (o : MOps) (s : State) : Host.Outcome State Fault Refusal :=
  amaxPut (.amaxRec o) o (fun s a act r =>
    match blockMax ((lanesOf act).map (fun L => readVal FP32 a.fz (valC a o 1 L))) with
    | some m => s.amaxMod a r (AmaxRing.record m)
    | none => s.amaxRead a r) s
/-- AMAX.ADV (R136). -/
def execAmaxAdv (o : MOps) (s : State) : Host.Outcome State Fault Refusal :=
  amaxPut (.amaxAdv o) o (fun s a _ r => s.amaxMod a r (fun x =>
    let h := (x.head + 1) % 16
    { x with head := h, entries := x.entries.set h 0 })) s
/-- AMAX.CLR (R136). -/
def execAmaxClr (o : MOps) (s : State) : Host.Outcome State Fault Refusal :=
  amaxPut (.amaxClr o) o (fun s a _ r => s.amaxMod a r (fun x => { x with head := 0, entries := List.replicate 16 0 })) s
/-- AMAX.SCL: 127 - n (R136). -/
def execAmaxScl (o : MOps) (s : State) : Host.Outcome State Fault Refusal :=
  amaxGet (.amaxScl o) o (fun s a r => (127 - quantScale (tyOf o) (s.amaxTop a r)).toNat) s

end Sys2Proof.Machine
end

