-- ==== Sys2Proof/Machine/Atomics.lean ====
section
/-! DEFINITION. Atomics (R163 to R165) and the fence (R166). The lanes of one instruction take effect in lane order (log 2). -/

namespace Sys2Proof.Machine

/-- Fields of an atomic's modifier (R90). -/
def atomGm (o : MOps) : Bool := o.mod.getLsbD 2
def atomNr (o : MOps) : Bool := o.mod.getLsbD 1
/-- Scope and order of an atomic or a fence: 000 relaxed, 001 `.ACQ`, 010 `.REL`, 011 `.AR`, 100 `.SC`, which is `.AR` too (R90, R165, R166, R270). -/
def atomAcc (o : MOps) : Access :=
  let k := o.mod.toNat / 8 % 8
  ⟨true, o.mod.toNat / 64 % 4, k == 1 || decide (3 ≤ k), decide (2 ≤ k), k == 4⟩
def atomW64 (o : MOps) : Bool := o.mod.getLsbD 0
def atomBytes (o : MOps) : Nat := if atomW64 o then 8 else 4
def atomRegs (o : MOps) : Nat := if atomW64 o then 2 else 1

/-- The operand and the compare value of a lane: CAS names the compare value first, then the new one (R163). -/
def atomOpnds (op : AtomOp) (o : MOps) (a : Agent) (L : Nat) : Nat × Nat :=
  match op with
  | .cas => (valC a { o with c := o.c + BitVec.ofNat 8 (atomRegs o) } (atomRegs o) L, valC a o (atomRegs o) L)
  | _ => (valC a o (atomRegs o) L, 0)
def atomEntry (op : AtomOp) (o : MOps) (a : Agent) (sp : Space) (va L : Nat) (l : Loc) : BufEntry :=
  let c := atomOpnds op o a L
  .atom sp (atomAcc o) op (atomW64 o) va c.1 c.2 a.fz l

/-- One lane's read-modify-write: the state, the old value, the flags. -/
def State.atomLane (s : State) (id : Nat) (a : Agent) (op : AtomOp) (o : MOps) (L va : Nat) (l : Option Loc) : State × Nat × FFlags :=
  let n := atomBytes o
  let c := atomOpnds op o a L
  match l with
  | some loc =>
    let old := ofBytes (s.load loc n)
    let v := atomNew op (atomW64 o) a.fz old c.1 c.2
    ((s.putRmw (Ev.of (a.party id L) (s.accAt (atomAcc o) loc)) loc (bytesOf v.1 n)).clash a L loc, old, v.2)
  | none =>
    let old := ofBytes (s.gmRead id a va n)
    let v := atomNew op (atomW64 o) a.fz old c.1 c.2
    (s.gmPutRmw (Ev.of (a.party id L) (atomAcc o)) id a va (bytesOf v.1 n), old, v.2)

/-- All lanes in order; NR lanes of tasks that are not irrevocable go to their buffers (R157, R163). -/
def State.atomGo (s : State) (id : Nat) (b : Bool) (i : Instr) (op : AtomOp) (o : MOps) (a : Agent) (p : Path)
    (l : List (Acc × Option Loc)) : State :=
  let soft := if atomNr o then s.softLanes a (maskOf (fun L => l.any (fun x => x.1.lane == L))) else 0
  let r := l.foldl (fun (acc : State × List RegWrite × FFlags) x =>
    let s := if x.2.isNone then acc.1.gmCount id a x.1.va x.1.n else acc.1
    if soft.getLsbD x.1.lane then
      (s.bufferLane a x.1.lane (atomEntry op o a (if x.2.isSome then .glob else .gm) x.1.va x.1.lane (x.2.getD (.dev 0))), acc.2.1, acc.2.2)
    else
      let y := s.atomLane id a op o x.1.lane x.1.va x.2
      (y.1, acc.2.1 ++ (if atomNr o then [] else laneWrites x.1.lane o.d.toNat (atomRegs o) y.2.1), acc.2.2 ||| y.2.2)) (s, [], fNone)
  match r.1.agent? id with
  | none => r.1
  | some a =>
    r.1.issueOp id b i a { (opOf r.1 b (p.flagOf o.fs) (if atomNr o then [] else [(o.d.toNat, atomRegs o)]) [] r.2.1) with fflags := r.2.2 }

/-- An atomic (R163): a returning one makes its tasks irrevocable before it performs (R307). -/
def atomOp (op : AtomOp) (i : Instr) (o : MOps) (s : State) : Host.Outcome State Fault Refusal :=
  s.onPath fun id b a p =>
    let act := a.active p o.g
    if act = 0 then .next (s.finish id b i a)
    else
      let addr := fun (s : State) (a : Agent) L => if atomGm o then gmAddr s a o L else globAddr s a o L
      let must := if atomNr o then
          s.overflow a act (fun L => atomEntry op o a (if atomGm o then .gm else .glob) (addr s a L) L (.dev 0))
        else s.softLanes a act
      .next (s.irrevThen id b act must (fun s a p =>
        let accs := (lanesOf (a.active p o.g)).map (fun L => (⟨L, addr s a L, atomBytes o⟩ : Acc))
        s.alignAll id b p accs (
          if atomGm o then
            if accs.any (fun x => !s.gmFilled a x.va x.n) then s
            else
              let hit := accs.filter (fun x => s.gmHit id a x.va x.n)
              if !hit.isEmpty then s.gmInt id b p (hit.map (fun x => (x.lane, x.va)))
              else s.atomGo id b i op o a p (accs.map (fun x => (x, none)))
          else s.access id b a p needRW accs (fun s locs =>
            let bad := locs.filter (fun x => !s.sound x.2 (atomBytes o))
            if !bad.isEmpty then s.memint id b p bad
            else s.atomGo id b i op o a p (locs.map (fun x => (x.1, some x.2)))))))

/-- ATOM.ADD, integer (R163). -/
def execAtomAddInt (o : MOps) (s : State) : Host.Outcome State Fault Refusal := atomOp .addInt (.atomAddInt o) o s
/-- ATOM.ADD, floating point (R164). -/
def execAtomAddFp (o : MOps) (s : State) : Host.Outcome State Fault Refusal := atomOp .addFp (.atomAddFp o) o s
/-- ATOM.MIN, signed (R163). -/
def execAtomMinI (o : MOps) (s : State) : Host.Outcome State Fault Refusal := atomOp .minI (.atomMinI o) o s
/-- ATOM.MIN, unsigned (R163). -/
def execAtomMinN (o : MOps) (s : State) : Host.Outcome State Fault Refusal := atomOp .minN (.atomMinN o) o s
/-- ATOM.MAX, signed (R163). -/
def execAtomMaxI (o : MOps) (s : State) : Host.Outcome State Fault Refusal := atomOp .maxI (.atomMaxI o) o s
/-- ATOM.MAX, unsigned (R163). -/
def execAtomMaxN (o : MOps) (s : State) : Host.Outcome State Fault Refusal := atomOp .maxN (.atomMaxN o) o s
/-- ATOM.AND (R163). -/
def execAtomAnd (o : MOps) (s : State) : Host.Outcome State Fault Refusal := atomOp .and (.atomAnd o) o s
/-- ATOM.OR (R163). -/
def execAtomOr (o : MOps) (s : State) : Host.Outcome State Fault Refusal := atomOp .or (.atomOr o) o s
/-- ATOM.XOR (R163). -/
def execAtomXor (o : MOps) (s : State) : Host.Outcome State Fault Refusal := atomOp .xor (.atomXor o) o s
/-- ATOM.XCHG (R163). -/
def execAtomXchg (o : MOps) (s : State) : Host.Outcome State Fault Refusal := atomOp .xchg (.atomXchg o) o s
/-- ATOM.CAS (R163). -/
def execAtomCas (o : MOps) (s : State) : Host.Outcome State Fault Refusal := atomOp .cas (.atomCas o) o s
/-- ATOM.INC (R163). -/
def execAtomInc (o : MOps) (s : State) : Host.Outcome State Fault Refusal := atomOp .inc (.atomInc o) o s
/-- ATOM.DEC (R163). -/
def execAtomDec (o : MOps) (s : State) : Host.Outcome State Fault Refusal := atomOp .dec (.atomDec o) o s

/-- FENCE: each active lane performs it in its own program order; every access before it has been performed at its own step (R166, R270; log 2). -/
def execFence (o : MOps) (s : State) : Host.Outcome State Fault Refusal :=
  s.onPath fun id b a p => .next ((s.fenceLanes id a (a.active p o.g) (atomAcc o) [] []).finish id b (.fence o) a)

end Sys2Proof.Machine
end

