-- ==== Sys2Proof/Machine/Barriers.lean ====
section
/-! DEFINITION. Group barriers (R167 to R170, R257). -/

namespace Sys2Proof.Machine

/-- The barrier id: an immediate or a scalar register (R167). -/
def barId (s : State) (a : Agent) (o : MOps) : Nat := valA s a o (.bits 1) 0

/-- Lanes that have arrived in the open generation of a barrier. -/
def Group.here (g : Group) (b warp : Nat) : Mask := mapGetD (g.bar b).arrived warp 0

/-- Lanes of a fragment whose arrival message is on its way (R257). -/
def State.barInFlight (s : State) (id : Nat) (a : Agent) (k : Nat) : Mask :=
  (mapGetD s.saddle a.cluster []).foldl (fun m x => match x.msg with | .barArrive f _ _ b l _ _ => if f = id ∧ b = k then m ||| l else m | _ => m) 0

/-- BAR (R167, R168): lanes that have not arrived arrive, and the slot waits for the generation. A fragment's lanes that have not arrived do so by a message (R257); while one of its lanes is on its way there already, the BAR does not issue (log 33). An arrival is a release fence at `.grp`, and the completion an acquire fence (R169, R270, R282). -/
def execBar (o : MOps) (s : State) : Host.Outcome State Fault Refusal :=
  s.onPath fun id b a p =>
    let act := a.active p o.g
    let k := barId s a o
    if act = 0 then .next (s.finish id b (.bar o) a)
    else if a.isWave = true ∨ k > 15 then .next (s.illop id b p act)
    else
      match a.group, s.groupOf a with
      | some g, some gr =>
        let gen := (gr.bar k).gen
        let new := act &&& ~~~(gr.here k a.warp)
        if a.isFrag then
          if act &&& s.barInFlight id a k ≠ 0 then .next s
          else if new = 0 then .next (s.finish id b (.bar o) (a.setSlot b { a.slot b with wait := .bar k gen }))
          else
            let s0 := s.fenceLanes id a new (.release 1) [] []
            let s1 : State := { s0.sendUp a (.barArrive id g a.warp k new (some s.nextId) s0.nextEv) with nextId := s.nextId + 1 }
            .next (s1.finish id b (.bar o) (a.setSlot b { a.slot b with wait := .barSent k s.nextId }))
        else
          let gr' := if new = 0 then gr else gr.arrive k a.warp new
          -- the generation in which the lanes arrived may have completed at once
          let ended := decide ((gr'.bar k).gen > gen)
          let a' := if ended then a else a.setSlot b { a.slot b with wait := .bar k gen }
          let s1 := s.fenceLanes id a new (.release 1) [.bar g k gen] []
          let s2 := if ended then s1.fenceLanes id a act (.acquire 1) [] [.bar g k gen] else s1
          .next ((s2.atBarrier g (fun _ => gr')).finish id b (.bar o) a')
      | _, _ => .next (s.finish id b (.bar o) a)

/-- BAR.ARV (R167, R168): lanes that have not arrived arrive; with lanes that have, the slot waits for the generation and those then arrive in the next. While an arrival message of these lanes is on its way, it does not issue (log 33). -/
def execBarArv (o : MOps) (s : State) : Host.Outcome State Fault Refusal :=
  s.onPath fun id b a p =>
    let act := a.active p o.g
    let k := barId s a o
    if act = 0 then .next (s.finish id b (.barArv o) a)
    else if a.isWave = true ∨ k > 15 then .next (s.illop id b p act)
    else
      match a.group, s.groupOf a with
      | some g, some gr =>
        let gen := (gr.bar k).gen
        let old := act &&& gr.here k a.warp
        let new := act &&& ~~~old
        if a.isFrag then
          if act &&& s.barInFlight id a k ≠ 0 then .next s
          else
            let a' := if old ≠ 0 then a.setSlot b { a.slot b with wait := .barArv k gen old } else a
            let s1 := s.fenceLanes id a new (.release 1) [] []
            .next ((if new = 0 then s else s1.sendUp a (.barArrive id g a.warp k new none s1.nextEv)).finish id b (.barArv o) a')
        else
          let gr1 := if new = 0 then gr else gr.arrive k a.warp new
          let done := decide ((gr1.bar k).gen > gen)
          let a' := if old ≠ 0 ∧ done = false then a.setSlot b { a.slot b with wait := .barArv k gen old } else a
          let s1 := (s.fenceLanes id a new (.release 1) [.bar g k gen] []).atBarrier g (fun _ => gr1)
          let s2 := if done ∧ old ≠ 0 then (s1.fenceLanes id a old (.release 1) [.bar g k (gr1.bar k).gen] []).atBarrier g (fun x => x.arrive k a.warp old) else s1
          .next (s2.finish id b (.barArv o) a')
      | _, _ => .next (s.finish id b (.barArv o) a)

end Sys2Proof.Machine
end

