-- ==== Sys2Proof/Machine/Basin.lean ====
section
/-! DEFINITION. The task basins: packets and credits, bins and waves, stealing, commits (R293 to R305). -/

namespace Sys2Proof.Machine

/-- Credits of a sender class in use at a basin (R297). -/
def State.creditsUsed (s : State) (cluster cls : Nat) : Nat := mapGetD s.credits (32 * cluster + cls) 0
def State.useCredit (s : State) (cluster cls : Nat) : State := { s with credits := mapPut 0 s.credits (32 * cluster + cls) (s.creditsUsed cluster cls + 1) }
def State.freeCredit (s : State) (cluster cls : Nat) : State := { s with credits := mapPut 0 s.credits (32 * cluster + cls) (s.creditsUsed cluster cls - 1) }

/-- An operation whose last packet has been dealt with is performed (R208). -/
def State.ackPacket (s : State) (ack : Option (Nat × Nat × Nat)) : State :=
  match ack with
  | none => s
  | some (ag, op, _) =>
    if s.packets.any (fun p => match p.ack with | some (a, o, _) => a == ag && o == op | none => false) then s
    else s.modAgent ag (fun a => { a with ops := a.ops.map (fun x => if x.id == op then { x with ready := true, mayTrap := false } else x) })

/-- TASKERR in a launch's fault status, without a trap (R295, R298, R344). -/
def State.launchTaskErr (s : State) (launch : Nat) (ident : Word) (addr : DWord) : State :=
  s.modLaunch launch (fun l => { (l.note cTASKERR ident addr) with taskErr := true })

/-- Credits used at a basin of another device (R297). -/
def State.farUsed (s : State) (dst : Word) : Nat := mapGetD s.farCredits (128 * handleDev dst + handleCl dst) 0
/-- An acknowledgement tag that no packet sent to another device holds (R296). -/
def State.freeTag (s : State) : Nat :=
  let used := (s.packets.filter (fun p => p.place == 2)).map (fun p => p.ackid)
  (((List.range (used.length + 1)).find? (fun t => !(used.contains t))).getD 0)
/-- A packet for another device leaves, with a credit of the class of the link on which it will arrive (R297); a new task that asks for an acknowledgement is kept until the answer comes (R208, R298). -/
def State.sendFar (s : State) (i : Nat) (p : Packet) : State :=
  if s.farUsed p.dst ≥ 4 ∨ s.linkTo (handleDev p.dst) = none then s
  else
    let used : State := { s with farCredits := mapPut 0 s.farCredits (128 * handleDev p.dst + handleCl p.dst) (s.farUsed p.dst + 1) }
    if !p.isNew then (State.emit { used with packets := s.packets.eraseIdx i } (.release p.handle p.word)).ackPacket p.ack
    else
      let ident := match p.peer with | some x => x.2 | none => s.identOf p.launch
      if p.onAccept then
        let tag := s.freeTag
        State.emit { used with packets := s.packets.set i { p with place := 2, ackid := tag } } (.renq p.dst p.ent tag p.src ident p.args)
      else (State.emit { used with packets := s.packets.eraseIdx i } (.renq p.dst p.ent 0xFFFF p.src ident p.args)).ackPacket p.ack

/-- The launch that a packet names here: its own, or the accepted launch of the identity that a peer's packet carries (R291). -/
def State.launchFor (s : State) (p : Packet) : Option Nat :=
  match p.peer with
  | none => some p.launch
  | some x => (s.launches.find? (fun l => s.identOf l.1 == x.2)).map (fun l => l.1)
/-- The VF of a record's launch. -/
def State.recVf (s : State) (r : TaskRec) : Nat := match mapGet? s.launches r.launch with | some l => l.vf | none => 0
/-- The VF of a packet's launch; none of a peer's release, which names no launch (R296). -/
def State.packetVf (s : State) (p : Packet) : Option Nat := if p.peer.isSome then none else (mapGet? s.launches p.launch).map (fun l => l.vf)
/-- A packet as it is addressed when it is sent: a release by its record's present handle, a new task for a basin that has failed to the lowest cluster that the launch may use (R298, R422). -/
def State.routed (s : State) (p : Packet) : Packet :=
  if !p.isNew then { p with handle := s.forwarded (s.packetVf p) p.handle, dst := basinOf (s.forwarded (s.packetVf p) p.handle) }
  else if handleDev p.dst = s.devNum && s.clusterFenced (handleCl p.dst) then
    match (s.launchFor p).bind (fun k => (mapGet? s.launches k).bind (fun l => (s.ownClusters l.vf).head?)) with
    | some c => { p with dst := basinOf (s.handleOf c 0) }
    | none => p
  else p
/-- The record that a release names waits to be reinstated (R422). -/
def State.strandedFor (s : State) (p : Packet) : Bool :=
  !p.isNew && s.stranded.any (fun x => x.1 == p.handle.toNat && (match s.packetVf p with | some v => s.recVf x.2 == v | none => true))
/-- The answer to a packet's sender: by its operation here, or by a message where it came from a peer with a tag (R208, R298). -/
def State.answerPacket (s : State) (p : Packet) (accepted : Bool) : State :=
  match p.peer with
  | some x => if p.ackid = 0xFFFF then s else s.emit (.packetAck x.1 p.ackid accepted)
  | none => s.ackPacket p.ack
/-- TASKERR at the lane whose acknowledged RENQ was refused; without an acknowledgement it enters the launch's fault status; STATUS says so of either (R298, R344). -/
def State.refused (s : State) (p : Packet) : State :=
  match p.ack with
  | some (ag, op, lane) =>
    let flag := ((s.agent? ag).bind (fun a => a.ops.find? (fun x => x.id == op))).bind (fun x => x.flag)
    ((s.modLaunch p.launch (fun l => { l with taskErr := true })).recordTrap ag flag op cTASKERR 0 lane (laneBit lane)).ackPacket p.ack
  | none => s.launchTaskErr p.launch (BitVec.ofNat 32 p.ent) 0
/-- A new-task packet that this device refuses (R298). -/
def State.refusePacket (s : State) (p : Packet) : State :=
  if p.peer.isSome ∧ p.ackid ≠ 0xFFFF then s.answerPacket p false else s.refused p
/-- A release that names no record: TASKERR in its launch's fault status. One from a peer carries neither launch nor word address (R296), and is dropped alone (log 33). -/
def State.noRecord (s : State) (p : Packet) : State := if p.peer.isSome then s else s.launchTaskErr p.launch 0xFFFFFFFF p.word
/-- A packet for a basin that has failed, with no other to go to: a new task is refused, a release names no record any more (R295, R298, R422). -/
def State.unroutable (s : State) (p : Packet) : State := if p.isNew then s.refusePacket p else (s.noRecord p).ackPacket p.ack
/-- PACKET_SEND (R296, R297): a packet with a credit leaves its sender; one for another device leaves on its link. -/
def execPacketSend (i : Nat) (s : State) : Host.Outcome State Fault Refusal :=
  match s.packets[i]? with
  | none => .next s
  | some p =>
    let p := s.routed p
    if p.place ≠ 0 ∨ s.strandedFor p then .next s
    else if handleDev p.dst ≠ s.devNum then .next (s.sendFar i p)
    else if s.clusterFenced (handleCl p.dst) then .next (State.unroutable { s with packets := s.packets.eraseIdx i } p)
    else if s.creditsUsed (handleCl p.dst) p.src ≥ 4 then .next s
    else
      let keep := p.onAccept
      let s1 : State := { s with nextId := s.nextId + 1, packets := s.packets.modify i (fun _ => { p with place := 1, ack := if keep then p.ack else none, num := p.num.or (some (s.devNum, s.nextId)) }) }
      let s2 := s1.useCredit (handleCl p.dst) p.src
      .next (if keep then s2 else s2.ackPacket p.ack)

/-- The first packet of a kind that has arrived at a basin; a peer's waits until its launch has been accepted (log 33). -/
def State.arrived (s : State) (cluster : Nat) (isNew : Bool) : Option (Nat × Packet) :=
  (s.packets.zipIdx.find? (fun x => x.1.place == 1 && x.1.isNew == isNew && handleCl x.1.dst == cluster && (!x.1.isNew || (s.launchFor x.1).isSome))).map
    (fun x => (x.2, { x.1 with launch := (s.launchFor x.1).getD x.1.launch }))
/-- A packet consumed: its slot is free and its credit returns, to the peer where it came over a Pass link (R297). -/
def State.consume (s : State) (cluster i : Nat) (p : Packet) : State :=
  let s1 := State.freeCredit { s with packets := s.packets.eraseIdx i } cluster p.src
  if p.src ≥ 16 then s1.emit (.creditBack (p.src - 16) cluster) else s1

/-- A release reaches its record (R293, R295). -/
def State.releaseRec (s : State) (cluster : Nat) (p : Packet) : State :=
  let k := 4096 * cluster + handleRec p.handle
  match s.rec? k with
  | none => s.noRecord p
  | some r =>
    let vf := s.recVf r
    match r.st with
    | .waiting =>
      let core := s.chooseCore cluster vf
      ((s.modRec k (fun r => { r with st := .ready, spec := false, attached := false, core := core })).pushHead cluster core vf (k % 4096)).jot (.ready cluster (k % 4096))
    | .spec => (s.modRec k (fun r => { r with st := .ready, spec := false, attached := false })).jot (.ready cluster (k % 4096))
    | .running => s.modRec k (fun r => { r with spec := false, attached := false, lines := [], st := if r.ended then .commit else r.st })
    | .page => s.modRec k (fun r => { r with spec := false, attached := false })
    | .held => (s.modRec k (fun r => { r with st := .free, attached := false })).jot (.freed cluster (k % 4096))
    | _ => s.noRecord p

/-- A handle that has been released is forwarded no more (R422). -/
def State.unforward (s : State) (k : Nat) : State := if s.forward.isEmpty then s else { s with forward := s.forward.filter (fun x => x.2 != k) }
/-- What a packet brings happens before the start of the task that it makes ready (R284). -/
def State.made (s : State) (p : Packet) (k : Nat) : State := if p.evs.isEmpty then s else s.note (Ev.link p.evs [.made k] [])
/-- The journal holds the packet's sequence number: the packet is discarded (R422). -/
def State.journaledPacket (s : State) (p : Packet) : Bool :=
  p.num.isSome && s.journal.any (fun x => match x.2 with | .packet _ _ n => n == p.num | _ => false)
/-- RELEASE_PACKET (R284, R293, R295, R297). -/
def execReleasePacket (cluster : Nat) (s : State) : Host.Outcome State Fault Refusal :=
  match s.arrived cluster false with
  | none => .next s
  | some (i, p) =>
    if s.journaledPacket p then .next (s.consume cluster i p)
    else
    let s1 := ((s.consume cluster i p).jot (.packet cluster (some (handleRec p.handle)) p.num)).made p (4096 * cluster + handleRec p.handle)
    .next (((s1.releaseRec cluster p).unforward (4096 * cluster + handleRec p.handle)).ackPacket p.ack)

/-- A peer's packet arrives in a slot of its link's class (R297, R422). -/
def State.arrive (s : State) (link : Nat) (p : Packet) : State :=
  if link ≥ 16 ∨ s.fencedLinks.contains link ∨ handleDev p.dst ≠ s.devNum ∨ s.creditsUsed (handleCl p.dst) (16 + link) ≥ 4 then s
  else State.useCredit { s with packets := s.packets ++ [{ p with src := 16 + link, place := 1 }] } (handleCl p.dst) (16 + link)
/-- A peer's new-task packet (R296): by R208 and R281 it orders nothing beyond its argument record, where R284 says that RENQ synchronizes with the start across devices too (log 33). -/
def State.packetIn (s : State) (link dev num : Nat) (dst : Word) (ent ackid : Nat) (l : LaunchId) (args : List Word) : State :=
  s.arrive link { taskPacket dst ent 0 args 0 none false with ackid := ackid, peer := some (dev, l), num := some (dev, num) }
/-- A peer's release packet, of which the first 16 bytes are sent: it names no launch and no word (R296). -/
def State.releaseIn (s : State) (link dev num : Nat) (h : Word) : State :=
  s.arrive link { releaseOf h 0 0 0 with peer := some (dev, ⟨0, 0, 0, 0⟩), num := some (dev, num) }
/-- A peer's answer to a packet: the operation goes on, or TASKERR is recorded (R208, R298). -/
def State.packetAcked (s : State) (ackid : Nat) (accepted : Bool) : State :=
  match s.packets.zipIdx.find? (fun x => x.1.place == 2 && x.1.ackid == ackid) with
  | none => s
  | some (p, i) =>
    let s1 : State := { s with packets := s.packets.eraseIdx i }
    if accepted then s1.ackPacket p.ack else s1.refused p
/-- A peer's basin returns a credit (R297). -/
def State.creditIn (s : State) (dev cluster : Nat) : State :=
  { s with farCredits := mapPut 0 s.farCredits (128 * dev + cluster) (mapGetD s.farCredits (128 * dev + cluster) 0 - 1) }

/-- NEW_TASK_PACKET (R293, R297, R298): a ready record at the head of the chosen deque; forwarded, or refused, where the launch's tasks may not run. -/
def execNewTaskPacket (cluster : Nat) (s : State) : Host.Outcome State Fault Refusal :=
  match s.arrived cluster true with
  | none => .next s
  | some (i, p) =>
    if s.journaledPacket p then .next (s.consume cluster i p)
    else
    match mapGet? s.launches p.launch with
    | none => .next ((s.consume cluster i p).answerPacket p true)
    | some l =>
      let may := s.ownClusters l.vf
      if may.contains cluster then
        let core := s.chooseCore cluster l.vf
        match s.takeRec cluster (newRec p.ent p.args p.launch core .ready false false) with
        | none => .next s
        | some x => .next (((((x.1.consume cluster i p).jot (.packet cluster (some x.2) p.num)).made p (4096 * cluster + x.2)).pushHead cluster core l.vf x.2).answerPacket p true)
      else
        let s1 := s.consume cluster i p
        match may with
        | [] => .next (s1.refusePacket p)
        | c :: _ => .next ((s1.jot (.packet cluster none p.num)).sendPacket { p with dst := basinOf (s.handleOf c 0), place := 0, src := cluster / 16, num := none })

/-- Closed bins of a dispatcher, the oldest first, of contexts that run (R302, R395). -/
def State.pending (s : State) (d : Dispatcher) : List (Nat × Bin) :=
  let l := d.bins.filter (fun x => x.2.closed && (match mapGet? s.launches x.2.launch with | some l => s.ctxRuns l.vf l.ctx | none => true))
  let ins (x : Nat × Bin) (l : List (Nat × Bin)) : List (Nat × Bin) :=
    (l.takeWhile (fun y => decide (y.2.seq ≤ x.2.seq))) ++ x :: l.dropWhile (fun y => decide (y.2.seq ≤ x.2.seq))
  l.foldl (fun l x => ins x l) []
/-- A free bin. -/
def Dispatcher.freeBin (d : Dispatcher) : Option Nat := (List.range 8).find? (fun k => (mapGet? d.bins k).isNone)
/-- The entry of a launch's table. -/
def State.tetOf (s : State) (launch entry : Nat) : Option TetEntry := (mapGet? s.launches launch).bind (fun l => l.tet[entry]?)

/-- The head of one deque moved into a bin; one whose gather window has passed takes no more (R300). -/
def State.gatherOne (s : State) (cluster core vf : Nat) : State :=
  let d := s.disp cluster core
  match d.deque vf with
  | [] => s
  | r :: rest =>
    match s.rec? (4096 * cluster + r) with
    | none => s.setDisp cluster core (d.setDeque vf rest)
    | some t =>
      let gw := ((s.tetOf t.launch t.entry).map (fun e => e.gw)).getD 0
      let put (k : Nat) (b : Bin) : State :=
        let shut := decide (b.recs.length ≥ 32) || gw == 0
        State.setDisp { s with nextId := s.nextId + 1 } cluster core
          { (d.setDeque vf rest) with bins := mapSet d.bins k { b with closed := shut, seq := s.nextId } }
      match d.bins.find? (fun x => !x.2.closed && decide (x.2.age < 32 * gw) && x.2.launch == t.launch && x.2.entry == t.entry) with
      | some (k, b) => put k { b with recs := b.recs ++ [r] }
      | none =>
        match d.freeBin with
        | some k => put k ⟨t.launch, t.entry, vf, [r], 0, false, 0⟩
        | none => s

/-- BIN_GATHER (R300): one cycle of the dispatcher over its deques. -/
def execBinGather (cluster core : Nat) (s : State) : Host.Outcome State Fault Refusal :=
  .next ((s.disp cluster core).deques.foldl (fun s x => s.gatherOne cluster core x.1) s)

/-- BIN_CLOSE (R300): the gather window has passed. -/
def execBinClose (cluster core bin : Nat) (s : State) : Host.Outcome State Fault Refusal :=
  let d := s.disp cluster core
  match mapGet? d.bins bin with
  | none => .next s
  | some b =>
    let gw := ((s.tetOf b.launch b.entry).map (fun e => e.gw)).getD 0
    if b.closed || decide (b.age < 32 * gw) then .next s
    else .next (State.setDisp { s with nextId := s.nextId + 1 } cluster core { d with bins := mapSet d.bins bin { b with closed := true, seq := s.nextId } })

/-- A wave as it starts (R49, R54, R301). -/
def State.waveAgent (s : State) (launch : Nat) (l : Launch) (e : TetEntry) (cluster : Nat) (core : Core) (units : List Nat) (width : Nat) (recs gran : List Nat) : Agent :=
  let m := maskTo recs.length
  let regs := (recs.zipIdx).foldl (fun (v : NMap Word) x =>
    match s.rec? (4096 * cluster + x.1) with
    | some t => (t.args.zipIdx).foldl (fun v y => mapPut 0 v (64 * y.2 + x.2) y.1) v
    | none => v) []
  { Agent.blank with
    kind := .wave, vf := l.vf, ctx := l.ctx, launch := launch, gid := BitVec.allOnes 32, gsize := recs.length, ngroups := 0, cluster := cluster, core := core, units := units
    width := width, started := m, live := m, nregs := 8 * e.rgn, vregs := regs
    sregs := mapPut 0 (mapPut 0 [] 4 (l.arg.zeroExtend 32)) 5 (BitVec.ofNat 32 (l.arg.toNat / 2 ^ 32))
    fpc := l.kern.fpc, xth := BitVec.ofNat 32 (l.kern.t + if l.kern.en then 256 else 0)
    slotA := Slot.of (some ⟨⟨e.code, 0⟩, m, .none, .header⟩) .none false s.tail
    dsb := s.dsbAt l.vf l.ctx cluster core ((units.head?).getD 0), dsn := l.kern.dsn
    tasks := (recs.zipIdx).map (fun x => (x.2, x.1)), gmGran := gran }

/-- A wave dispatched: its records run, each with an acquire fence at `.dev` (R284, R285, R293, R301). The wide core where a wave on a narrow core ran, which R293 leaves open, is taken to be the one that dispatched it (log 33). -/
def State.startWave (s : State) (w : Agent) (wcore : Nat) (recs : List Nat) : State :=
  let id := s.nextId
  let s1 := State.setAgent { (s.freshGranules w.cluster w.gmGran) with nextId := id + 1 } id w
  (recs.zipIdx).foldl (fun s x =>
    State.modRec (s.fenceLanes id w (laneBit x.2) (.acquire 2) [] [.made (4096 * w.cluster + x.1)]) (4096 * w.cluster + x.1) (fun r => { r with st := .running, agent := id, lane := x.2, core := wcore, buffer := [], lines := [], ended := false }) |>.jot
      (.dispatched w.cluster x.1)) s1

/-- Granules of a wave's scratch, free and not held by a halted context (R292, R301). -/
def State.scratchOf (s : State) (cluster vf wgm : Nat) : Option (List Nat) :=
  match s.takeGranules cluster vf wgm with
  | some g => if s.granulesClear cluster g then some g else none
  | none => none

/-- The narrow core for a tail: a companion of the wide core's quadrants first, then any of the owner's (R301). -/
def State.tailCore (s : State) (cluster core vf : Nat) : Option (Nat × Nat) :=
  let own := s.ownQuads cluster vf
  ((own.filter (fun q => decide (q / 4 = core))) ++ own).findSome? (fun n => ((s.freeCtx cluster n).head?).map (fun k => (n, k)))

/-- Tasks sent to narrow cores, four to a context, while contexts are free, and the rest; none while a halted context keeps one that is to be taken (R301, R400). -/
def State.tailWaves (s : State) (launch : Nat) (l : Launch) (e : TetEntry) (cluster core : Nat) : List (List Nat) → Option (State × List Nat)
  | [] => some (s, [])
  | c :: r =>
    match s.tailCore cluster core l.vf, s.scratchOf cluster l.vf e.wgm with
    | some (n, k), some gran =>
      if s.ctxClear cluster n [k] then (s.startWave (s.waveAgent launch l e cluster (.narrow n) [k] 4 c gran) core c).tailWaves launch l e cluster core r else none
    | _, _ => some (s, (c :: r).flatten)

/-- The quadrant with the most free slot units, the lowest on a tie (R301). -/
def State.freest (s : State) (cluster : Nat) (quads : List Nat) : Option Nat :=
  quads.foldl (fun best q => match best with
    | none => some q
    | some b => if (s.quadUse cluster q).hard.length < (s.quadUse cluster b).hard.length then some q else best) none
/-- A wide wave placed: on the quadrant of the wide core with the most free units, which it waits for (R301, R303, R400). -/
def State.wideWave (s : State) (launch : Nat) (l : Launch) (e : TetEntry) (cluster core : Nat) (recs : List Nat) : Option State :=
  if recs.isEmpty then some s
  else
    let quads := (s.ownQuads cluster l.vf).filter (fun q => decide (q / 4 = core))
    match (s.freest cluster quads).bind (fun q => ((s.quadUse cluster q).fits 2 (2 * e.rgn)).map (fun us => (q, us))), s.scratchOf cluster l.vf e.wgm with
    | some (q, us), some gran =>
      if (s.quadUse cluster q).clear us (2 * e.rgn) then some (s.startWave (s.waveAgent launch l e cluster (.wide (q / 4) (q % 4)) us 32 recs gran) core recs)
      else none
    | _, _ => none

/-- A pending wave dispatched, if its resources are free (R301, R302). -/
def State.dispatchBin (s : State) (cluster core : Nat) (b : Bin) : Option State :=
  match mapGet? s.launches b.launch, s.tetOf b.launch b.entry with
  | some l, some e =>
    if b.recs.length < e.nt then
      (s.tailWaves b.launch l e cluster core (chunksOf b.recs.length 4 b.recs)).bind (fun x => x.1.wideWave b.launch l e cluster core x.2)
    else s.wideWave b.launch l e cluster core b.recs
  | _, _ => some s

/-- A dispatch would take what the head group of a launch wants on the cluster: placement goes first (R348). -/
def State.givesWay (s t : State) (cluster : Nat) : Bool :=
  s.launches.any (fun y => s.placeable y.2 && (s.placesOf y).contains cluster && !(t.fit cluster y.2.vf y.2.kern == s.fit cluster y.2.vf y.2.kern))
/-- WAVE_DISPATCH (R301, R302, R348): the first pending wave whose resources are free; passing over the oldest counts, and drain holds other entries back. What becomes of the oldest wave's count while its context is halted is not stated: the wave leaves the order, and its count begins again at zero (log 33). -/
def execWaveDispatch (cluster core : Nat) (s : State) : Host.Outcome State Fault Refusal :=
  let d := s.disp cluster core
  match s.pending d with
  | [] => .next s
  | old :: rest =>
    let skips := if d.skipsOf = old.2.seq then d.skips else 0
    let drain := d.drain && d.skipsOf == old.2.seq
    let cands := (old :: rest).filter (fun x => !drain || (x.2.entry == old.2.entry && x.2.launch == old.2.launch))
    match cands.findSome? (fun x => (s.dispatchBin cluster core x.2).bind (fun t => if s.givesWay t cluster then none else some (x, t))) with
    | none => .next s
    | some (x, t) =>
      let first := x.1 == old.1
      let n := if first then 0 else skips + 1
      let drn := ((mapGet? s.launches old.2.launch).map (fun l => l.drn)).getD 1
      let d' := t.disp cluster core
      .next (t.setDisp cluster core { d' with
        bins := mapErase d'.bins x.1
        skips := n, skipsOf := if first then 0 else old.2.seq
        drain := !first && (drain || decide (n ≥ drn)) })

/-- No deque of a VF holds a record on a cluster, and no bin of it is open (R304). -/
def State.idleFor (s : State) (cluster vf : Nat) : Bool :=
  [0, 1].all (fun c => let d := s.disp cluster c; (d.deque vf).isEmpty && d.bins.all (fun b => b.2.closed || b.2.vf != vf))
/-- Clusters to steal from, nearest first (R304). -/
def State.victims (s : State) (cluster vf : Nat) : List Nat :=
  let l := (s.ownClusters vf).filter (fun c => c != cluster)
  let ins (x : Nat) (l : List Nat) : List Nat :=
    (l.takeWhile (fun y => decide (Config.hops cluster y ≤ Config.hops cluster x))) ++ x :: l.dropWhile (fun y => decide (Config.hops cluster y ≤ Config.hops cluster x))
  l.foldl (fun l x => ins x l) []

/-- STEAL_REQUEST (R304): an idle cluster asks the next victim of its round. Where the round begins in a later idle period is not stated: it goes on where the last one stopped (log 33). -/
def execStealRequest (cluster vf : Nat) (s : State) : Host.Outcome State Fault Refusal :=
  let k := 64 * cluster + vf
  let idle := s.idleFor cluster vf && (match mapGet? s.idleAt k with | some n => decide (32 * 64 ≤ n) | none => false)
  if !idle || (mapGet? s.steals k).isSome || (s.part cluster vf).qmask = 0 then .next s
  else
    let vs := s.victims cluster vf
    let asked := min 16 (s.freeCount cluster)
    let i := mapGetD s.stealAt k 0
    match vs[i % vs.length]? with
    | none => .next s
    | some v =>
      if asked = 0 then .next s
      else .next (State.emit { s with steals := mapSet s.steals k (v, asked), stealAt := mapPut 0 s.stealAt k ((i + 1) % vs.length) } (.steal cluster v vf asked))

/-- A record that may be donated (R304). -/
def State.donatable (s : State) (cluster r : Nat) : Bool :=
  match s.rec? (4096 * cluster + r) with
  | some t => t.st == .ready && !t.spec && (match s.tetOf t.launch t.entry with | some e => !e.nosteal | none => false)
  | none => false

/-- One record donated: free at the victim, a new one at the tail of a deque of the thief (R298, R304). -/
def State.donate (s : State) (victim thief vf r : Nat) : State :=
  match s.rec? (4096 * victim + r) with
  | none => s
  | some t =>
    let core := s.chooseCore thief vf
    match s.takeRec thief (newRec t.entry t.args t.launch core .ready false false) with
    | none => s
    | some x =>
      let s1 := if s.offered (.made (4096 * victim + r)) then x.1.note (Ev.link [] [.made (4096 * thief + x.2)] [.made (4096 * victim + r)]) else x.1
      ((s1.modRec (4096 * victim + r) TaskRec.freed).jot (.freed victim r)).pushTail thief core vf x.2

/-- STEAL_DONATION (R304): the victim answers from the tail of the deque that holds more ready records. -/
def execStealDonation (victim thief vf : Nat) (s : State) : Host.Outcome State Fault Refusal :=
  let k := 64 * thief + vf
  match mapGet? s.steals k with
  | none => .next s
  | some (v, asked) =>
    if v ≠ victim then .next s
    else
      let ready (c : Nat) : Nat := (((s.disp victim c).deque vf).filter (fun r => match s.rec? (4096 * victim + r) with | some t => t.st == .ready | none => false)).length
      let core := if ready 1 > ready 0 then 1 else 0
      let q := (s.disp victim core).deque vf
      let good := q.filter (fun r => s.donatable victim r)
      let n := min (min asked (good.length / 2)) (s.freeCount thief)
      let given := (good.reverse.take n)
      let s1 : State := { s with steals := mapErase s.steals k }
      let d := s1.disp victim core
      let s2 := s1.setDisp victim core (d.setDeque vf (q.filter (fun r => !(given.contains r))))
      .next (given.foldl (fun s r => s.donate victim thief vf r) s2)

/-- TASK_COMMIT (R293, R305): an ended task's buffer is performed in order, and the record is free. -/
def execTaskCommit (cluster record : Nat) (s : State) : Host.Outcome State Fault Refusal :=
  let k := 4096 * cluster + record
  match s.rec? k with
  | none => .next s
  | some r =>
    if r.st ≠ .commit then .next s
    else
      let s1 := s.commitBuffer k
      match s1.rec? k with
      | none => .next s1
      | some r1 => if r1.buffer.isEmpty then .next ((s1.jot (.committed cluster record)).endRec k) else .next s1

end Sys2Proof.Machine
end

