-- ==== Sys2Proof/Machine/CrossLane.lean ====
section
/-! DEFINITION. Cross-lane instructions (R141 to R147). -/

namespace Sys2Proof.Machine

/-- A cross-lane instruction: a result of n registers for each active lane from the active lanes' values before it (R141). -/
def laneXOp (i : Instr) (o : MOps) (n : Nat) (f : State → Agent → Mask → Nat → Res) (s : State) : Host.Outcome State Fault Refusal :=
  s.onPath fun _ _ a p => vecOp i o n (fun s' a' L => f s' a' (a.active p o.g) L) s

/-- The source lane of XLANE, when there is one (R142). -/
def xlaneSrc (mode L b width : Nat) : Option Nat :=
  let j : Int := match mode with
    | 0 => b
    | 1 => (L : Int) - b
    | 2 => (L : Int) + b
    | _ => ((L ^^^ b : Nat) : Int)
  if 0 ≤ j ∧ j < width then some j.toNat else none

/-- XLANE (R142). -/
def execXlane (o : MOps) (s : State) : Host.Outcome State Fault Refusal :=
  let n := 1 + (o.mod.toNat / 4) % 2
  laneXOp (.xlane o) o n (fun s a act L =>
    let own := valA s a o (.bits n) L
    let r := match xlaneSrc (o.mod.toNat % 4) L (valB s a o (.bits 1) L) a.width with
      | some j => if decide (j < 64) && act.getLsbD j then valA s a o (.bits n) j else if o.mod.getLsbD 3 then 0 else own
      | none => if o.mod.getLsbD 3 then 0 else own
    (r, fNone)) s

/-- PCOMB (R143). -/
def execPcomb (o : MOps) (s : State) : Host.Outcome State Fault Refusal :=
  s.onPath fun _ _ a p =>
    let act := a.active p o.g
    let k := o.a.field.toNat
    let pa := a.p (k % 8)
    let v := act &&& (if k ≥ 8 then ~~~pa else pa)
    match o.mod.toNat with
    | 0 => predOp (.pcomb o) o (fun _ _ _ => (v == act, fNone)) s
    | 1 => predOp (.pcomb o) o (fun _ _ _ => (v != 0, fNone)) s
    | 2 => predOp (.pcomb o) o (fun _ _ _ => (v == 0 || v == act, fNone)) s
    | 3 => bitsOp (.pcomb o) o 2 (fun _ _ _ => v.toNat) s
    | _ => bitsOp (.pcomb o) o 1 (fun _ _ _ => popMask v) s

/-- EQSET (R144). -/
def execEqset (o : MOps) (s : State) : Host.Outcome State Fault Refusal :=
  s.onPath fun _ _ a p =>
    let act := a.active p o.g
    let n := 1 + (o.mod.toNat / 4) % 2
    let val := fun L => valA s a o (.bits n) L
    let cls := fun L => act &&& maskOf (fun j => act.getLsbD j && val j == val L)
    match o.mod.toNat % 4 with
    | 0 => bitsOp (.eqset o) o 2 (fun _ _ L => (cls L).toNat) s
    | 1 => predOp (.eqset o) o (fun _ _ L => (cls L == act, fNone)) s
    | _ => predOp (.eqset o) o (fun _ _ L => (lowLane (cls L) == L, fNone)) s

/-- Operation of RED and SCAN: B[2:0] (R145). -/
def redOpOf (o : MOps) : Nat := match o.b with | .imm n => n.toNat % 8 | _ => 0
/-- Exclusive: B[3]. -/
def redExcl (o : MOps) : Bool := match o.b with | .imm n => n.getLsbD 3 | _ => false
/-- Contributing lanes among lanes m (R145). -/
def contributing (a : Agent) (o : MOps) (m : Mask) : Mask :=
  let pc := a.p (o.c.toNat % 8)
  m &&& (if o.c.getLsbD 3 then ~~~pc else pc)

/-- The identity of an empty set (R146). -/
def redIdentity (t : Fmt) (op : Nat) : Nat :=
  if t = FP32 ∨ t = FP64 then
    match op with
    | 0 => signBit t true
    | 1 => infCode (binOf t)
    | _ => signBit t true + infCode (binOf t)
  else
    match op with
    | 1 => intCode t (intMax t)
    | 2 => intCode t (intMin t)
    | 3 => 2 ^ fmtWidth t - 1
    | _ => 0

/-- The combination of a list of codes in lane order (R146). -/
def redCombine (a : Agent) (o : MOps) (xs : List Nat) : Res :=
  let t := tyOf o
  let op := redOpOf o
  match xs with
  | [] => (redIdentity t op, fNone)
  | x :: r =>
    if t = FP32 ∨ t = FP64 then
      let vs := xs.map (readVal t a.fz)
      if op = 0 then
        let m := rmOf a o
        let e := exactSum m vs
        let q := roundVal t (binOf t) m a.fz e.1
        (q.1, q.2 ||| e.2 ||| snanFlags vs)
      else
        let q := (vs.drop 1).foldl (fun (acc : Val × FFlags) v => let z := minMaxVal (op == 2) acc.1 v; (z.1, acc.2 ||| z.2)) (readVal t a.fz x, fNone)
        ((match q.1 with | .nan _ => defaultNaN t | v => encodeExact t v), q.2 ||| snanFlags vs)
    else if op = 0 then clampInt t (satOf o) ((xs.map (intOfCode t)).foldl (· + ·) 0)
    else if op = 1 then (intCode t ((r.map (intOfCode t)).foldl min (intOfCode t x)), fNone)
    else if op = 2 then (intCode t ((r.map (intOfCode t)).foldl max (intOfCode t x)), fNone)
    else if op = 3 then (r.foldl (fun u v => u &&& v) x, fNone)
    else if op = 4 then (r.foldl (fun u v => u ||| v) x, fNone)
    else (r.foldl (fun u v => u ^^^ v) x, fNone)

/-- The operand's code of a lane. -/
def redVal (s : State) (a : Agent) (o : MOps) (L : Nat) : Nat := srcValue s a (.bits (tyRegs o)) L o.a

/-- RED: to every active lane, or once to a scalar register (R145, R146). -/
def execRed (o : MOps) (s : State) : Host.Outcome State Fault Refusal :=
  if o.kd then
    scalOp (.red o) o (tyRegs o) (fun s a p => redCombine a o ((lanesOf (contributing a o p.mask)).map (redVal s a o))) s
  else
    laneXOp (.red o) o (tyRegs o) (fun s a act _ => redCombine a o ((lanesOf (contributing a o act)).map (redVal s a o))) s

/-- SCAN: over the contributing lanes at or below each lane, or strictly below it (R145, R146). -/
def execScan (o : MOps) (s : State) : Host.Outcome State Fault Refusal :=
  laneXOp (.scan o) o (tyRegs o) (fun s a act L =>
    let upTo := maskTo (if redExcl o then L else L + 1)
    redCombine a o ((lanesOf (contributing a o act &&& upTo)).map (redVal s a o))) s

/-- The chosen lane: the lowest, or under HI the highest (R147). -/
def chosen (hi : Bool) (m : Mask) : Nat := if hi then ((lanesOf m).getLast?).getD 0 else lowLane m

/-- FIRST (R147). -/
def execFirst (o : MOps) (s : State) : Host.Outcome State Fault Refusal :=
  s.onPath fun _ _ a p => predOp (.first o) o (fun _ _ L => (L == chosen (o.mod.getLsbD 0) (a.active p o.g), fNone)) s

/-- SPREAD (R147). -/
def execSpread (o : MOps) (s : State) : Host.Outcome State Fault Refusal :=
  let n := 1 + o.mod.toNat % 2
  laneXOp (.spread o) o n (fun s a act _ => (valA s a o (.bits n) (chosen (o.mod.getLsbD 1) act), fNone)) s

end Sys2Proof.Machine
end

