-- ==== Sys2Proof/Machine/Integrity.lean ====
section
/-! DEFINITION. The memory controllers: counters and counter trees, write-backs, fills and their checks (R383 to R386). -/

namespace Sys2Proof.Machine

/-- A counter that rises by 1: child i of the block or node whose counters begin at key k, child 64 being MAJOR; when a minor is at 127 MAJOR rises, and every minor that is not 0, and this one, become 1 (R384, R385). -/
def countUp (c : NMap Nat) (k i : Nat) : NMap Nat :=
  let n := mapGetD c (k + i) 0
  if n < 127 then mapSet c (k + i) (n + 1)
  else
    let ones := (List.range 64).foldl (fun c j => if mapGetD c (k + j) 0 = 0 then c else mapSet c (k + j) 1) c
    mapAdd ones (k + 64) 1
/-- A write-back of a granule in its counter block (R384). -/
def writeBack (c : NMap Nat) (g : Nat) : NMap Nat := countUp c (65 * (g / 64)) (g % 64)

/-- The tree that holds a granule, and its counter block's place there: extents stand in grant order (R385; log 33). -/
def State.treeOf (s : State) (g : Nat) : Option (Nat × Nat) :=
  let e := g / 8192
  let place (l : List Nat) : Option Nat := (l.findIdx? (fun x => x == e)).map (fun i => 128 * i + g / 64 % 128)
  match mapGet? s.extents e with
  | some (.vf v) => (place (s.vf v).extents).map (fun j => (v, j))
  | some (.win w) => (mapGet? s.windows w).bind (fun x => (place x.extents).map (fun j => (64 + w, j)))
  | none => none
/-- The first key of a node's counters. -/
def nodeKey (tree level i : Nat) : Nat := 65 * (2 ^ 20 * (8 * tree + level) + i)
/-- A counter block changes: its counter in its parent rises, and so on up to the root, level 5 (R385). -/
def climb (nodes : NMap Nat) (tree j : Nat) : NMap Nat :=
  (List.range 5).foldl (fun m l => countUp m (nodeKey tree (l + 1) (j / 64 ^ (l + 1))) (j / 64 ^ l % 64)) nodes
/-- Blocks of granules change (R385). -/
def State.blocksChanged (s : State) (gs : List Nat) : State :=
  { s with nodes := gs.foldl (fun m g => match s.treeOf g with | some (t, j) => climb m t j | none => m) s.nodes }
/-- What seals a granule below the root: its counter block and the nodes of levels 1 to 4 (R385). -/
def State.pathOf (s : State) (g : Nat) : List Sealed :=
  match s.treeOf g with
  | some (t, j) => (List.range 5).map (fun l => .node t l (j / 64 ^ l))
  | none => []
/-- A granule's minor; 0 marks it unwritten (R384). -/
def State.minor (s : State) (g : Nat) : Nat := mapGetD s.counters (65 * (g / 64) + g % 64) 0
/-- The granules of a tree's extents. -/
def State.treeGranules (s : State) (tree : Nat) : List Nat :=
  (if tree < 64 then (s.vf tree).extents else ((mapGet? s.windows (tree - 64)).map (fun w => w.extents)).getD []).flatMap (fun e => (List.range 8192).map (fun i => 8192 * e + i))
/-- A granule, or every granule under a failing node, is poisoned (R386). -/
def State.poisonUnder (s : State) (x : Sealed) : State :=
  match x with
  | .granule g => { s with poison := insertNat s.poison g }
  | .node t _ _ => { s with poison := ((s.treeGranules t).filter (fun g => (s.pathOf g).contains x)).foldl insertNat s.poison }
/-- The nodes on a granule's path that the counter cache does not hold verified are checked; those that match are then held (R385, R386). -/
def State.checkPath (s : State) (g : Nat) : State :=
  let todo := (s.pathOf g).filter (fun x => !(s.verified.contains x))
  let bad := todo.filter (fun x => s.broken.contains x)
  bad.foldl (fun s x => s.poisonUnder x) { s with verified := s.verified ++ todo.filter (fun x => !(s.broken.contains x)) }
/-- A fill: the path is checked, and the granule's own MAC unless its minor is 0 (R384 to R386). L2 holds a granule that has been written whole: it is not filled. -/
def State.fill (s : State) (g : Nat) : State :=
  let s1 := s.checkPath g
  if s.whole.contains g then s
  else if s.minor g ≠ 0 ∧ s.broken.contains (.granule g) then s1.poisonUnder (.granule g) else s1
/-- Granules written back: each is sealed again under a new minor, and so is its path; one that a write has covered whole stays free of poison (R383 to R386). -/
def State.writeBacks (s : State) (gs : List Nat) : State :=
  let s1 := gs.foldl State.checkPath s
  State.blocksChanged { s1 with
    poison := s1.poison.filter (fun g => s.poison.contains g || !(gs.contains g && s.whole.contains g)), whole := s1.whole.filter (fun g => !(gs.contains g))
    counters := gs.foldl Sys2Proof.Machine.writeBack s1.counters, dirty := s1.dirty.filter (fun x => !(gs.contains x.1)), broken := s1.broken.filter (fun x => !(gs.any (fun g => x == .granule g || (s.pathOf g).contains x))) } gs
/-- The granules with a write-back to come that some owner's extents hold. -/
def State.dirtyIn (s : State) (own : ExtOwner → Bool) : List Nat :=
  (s.dirty.map (fun x => x.1)).filter (fun g => match mapGet? s.extents (g / 8192) with | some o => own o | none => false)

end Sys2Proof.Machine
end

