-- ==== Sys2Proof/Machine/MuMath.lean ====
section
/-! DEFINITION. What the matrix unit computes: formats and depths (R224), element packing (R24), classical order (R228, R229), seven-product order (R234 to R236), tiles of the ACM (R218). -/

namespace Sys2Proof.Machine

/-- A row of the table of formats (R224). -/
structure MuFmt where
  acc    : Fmt
  kc     : Nat
  kmax   : Nat
  scales : Bool
  sparse : Bool
  seven  : Bool
  tok    : Nat
  deriving DecidableEq, Repr

/-- MMA's formats (R224). -/
def mmaFmt (f : Fmt) : Option MuFmt :=
  match f with
  | 0x00 => some ⟨FP64, 1, 16, false, false, false, 256⟩
  | 0x01 => some ⟨FP32, 1, 32, false, false, false, 96⟩
  | 0x02 | 0x03 | 0x09 => some ⟨FP32, 8, 256, false, true, true, 16⟩
  | 0x04 | 0x05 => some ⟨FP32, 16, 512, true, true, true, 8⟩
  | 0x06 | 0x07 => some ⟨FP32, 16, 512, true, true, false, 8⟩
  | 0x0A | 0x0B => some ⟨I32, 16, 512, false, true, false, 8⟩
  | 0x08 => some ⟨FP32, 32, 1024, true, true, false, 4⟩
  | 0x0C | 0x0D => some ⟨I32, 32, 1024, false, true, false, 4⟩
  | 0x0E => some ⟨I32, 64, 2048, false, true, false, 2⟩
  | 0x0F => some ⟨I32, 128, 4096, false, true, false, 1⟩
  | _ => none
/-- MMA.X64's formats (R224, R238). -/
def x64Fmt (f : Fmt) (pr : Bool) : Option MuFmt :=
  if pr then (if f = FP32 then some ⟨FP64, 8, 8, false, false, false, 384⟩ else none)
  else match f with
    | 0x01 | 0x02 | 0x03 => some ⟨FP64, 8, 32, false, false, false, 96⟩
    | _ => none

/-- Bits of an element: 64 for a pair (R226). -/
def elemWidth (f : Fmt) (pr : Bool) : Nat := if pr then 64 else fmtWidth f
/-- Bytes of a row of n elements (R24). -/
def rowBytes (f : Fmt) (pr : Bool) (n : Nat) : Nat := ceilDiv (n * elemWidth f pr) 8
/-- Element k of a packed row (R24). -/
def rowElem (f : Fmt) (pr : Bool) (row : Nat) (k : Nat) : Nat := field row (k * elemWidth f pr) (elemWidth f pr)
/-- A code that stands for +0 where no element was stored (R228, R233). -/
def noElem : Nat := 2 ^ 64
/-- The value of an element; a pair is the exact sum of its parts, hi lowest (R226, R238). -/
def elemVal (f : Fmt) (pr fz : Bool) (c : Nat) : Val :=
  if c = noElem then .zero false
  else if pr then (addVal .rn (readVal f fz (c % 2 ^ 32)) (readVal f fz (c / 2 ^ 32))).1
  else readVal f fz c
/-- A value under a block scale; a zero scale makes it zero, whatever it is (R31, R32, R234; log 32). -/
def scaled (sc v : Val) : Val := if isZeroV sc then .zero v.neg else (mulVal sc v).1
/-- A product under the scales of both operands' blocks: NaN under a NaN scale, otherwise zero under a zero one (R31, R32, R228; log 32). -/
def scaledProd (sa a sb b : Val) : Val :=
  if isNaN sa || isNaN sb then .nan false
  else if isZeroV sa || isZeroV sb then .zero (a.neg != b.neg)
  else (mulVal (mulVal sa a).1 (mulVal sb b).1).1
/-- An integer element; B1 is plus or minus 1 (R25). -/
def elemInt (f : Fmt) (c : Nat) : Int :=
  if c = noElem then 0 else if f = B1 then (if c % 2 = 0 then 1 else -1) else intOfCode f c

/-- Bytes of an ACM element (R218). -/
def acmAddr (w64 : Bool) (t i j : Nat) : Nat := if w64 then 16384 * t + 512 * i + 8 * j else 16384 * t + 256 * i + 4 * j
def acmGet (m : List Host.Cell) (w64 : Bool) (t i j : Nat) : Nat := ofBytes (memRead m (acmAddr w64 t i j) (if w64 then 8 else 4))
def acmPut (m : List Host.Cell) (w64 : Bool) (t i j v : Nat) : List Host.Cell :=
  memWrite m (acmAddr w64 t i j) (bytesOf v (if w64 then 8 else 4))

/-- One element in classical order over a floating-point accumulator: chunks of kc products, each chunk's exact sum rounded (R228). The answer is the code and the flags. -/
def classicalFp (acc : Fmt) (kc : Nat) (fz : Bool) (have0 : Option Nat) (prods : List Val) : Nat × FFlags :=
  (chunkList prods.length kc prods).foldl (fun (x : Option Nat × FFlags) c =>
    let l := match x.1 with | some a => c ++ [readVal acc fz a] | none => c
    let sum := exactSum .rn l
    let r := roundVal acc (binOf acc) .rn fz sum.1
    (some r.1, x.2 ||| sum.2 ||| r.2)) (have0, fNone) |> fun x => (x.1.getD 0, x.2)
where
  /-- Lists of at most n, in order. -/
  chunkList (fuel n : Nat) (l : List Val) : List (List Val) :=
    match fuel with
    | 0 => []
    | k + 1 => if l.isEmpty then [] else l.take n :: chunkList k n (l.drop n)

/-- One element over an I32 accumulator: every chunk is exact, wrapped or clamped (R228). -/
def classicalInt (kc : Nat) (sat : Bool) (have0 : Option Nat) (prods : List Int) : Nat × FFlags :=
  (chunkList prods.length kc prods).foldl (fun (x : Option Nat × FFlags) c =>
    let sum := c.foldl (· + ·) 0 + (match x.1 with | some a => intOfCode I32 a | none => 0)
    let r := clampInt I32 sat sum
    (some r.1, x.2 ||| r.2)) (have0, fNone) |> fun x => (x.1.getD 0, x.2)
where
  /-- Lists of at most n, in order. -/
  chunkList (fuel n : Nat) (l : List Int) : List (List Int) :=
    match fuel with
    | 0 => []
    | k + 1 => if l.isEmpty then [] else l.take n :: chunkList k n (l.drop n)

/-- Bits of a number. -/
def bitLen (m : Nat) : Nat := if m = 0 then 0 else Nat.log2 m + 1
/-- q: an exact value rounded RN to p significand bits, its exponent free (R235). -/
def roundSig (p : Nat) (v : Val) : Val × FFlags :=
  match v with
  | .fin s m e =>
    if bitLen m ≤ p then (v, fNone)
    else
      let k := bitLen m - p
      let r := roundQ .rn s m (2 ^ k)
      (.fin s r.1 (e + k), if r.2 then fNX else fNone)
  | v => (v, fNone)
/-- Significand bits of the pre-additions (R235). -/
def sigBits (f : Fmt) : Nat := if f = E4M3 ∨ f = E5M2 then 6 else 13

/-- A matrix of values by row and column; outside it +0. -/
abbrev ValMat := List (List Val)
def ValMat.at (m : ValMat) (i j : Nat) : Val := ((m[i]?).bind (fun r => r[j]?)).getD (.zero false)
/-- A block of r rows and c columns. -/
def ValMat.block (m : ValMat) (i j r c : Nat) : ValMat := (List.range r).map (fun x => (List.range c).map (fun y => m.at (i + x) (j + y)))
/-- Flags of two results. -/
def orFlags (l : List (List (Val × FFlags))) : FFlags := l.foldl (fun f r => r.foldl (fun f x => f ||| x.2) f) fNone
/-- Element by element, with the flags of all. -/
def ValMat.zip (f : Val → Val → Val × FFlags) (a b : ValMat) (r c : Nat) : ValMat × FFlags :=
  let m := (List.range r).map (fun i => (List.range c).map (fun j => f (a.at i j) (b.at i j)))
  (m.map (fun row => row.map (fun x => x.1)), orFlags m)
/-- A pre-addition: the exact sum or difference, rounded by q (R235, R236). -/
def preAdd (p : Nat) (sub : Bool) (x y : Val) : Val × FFlags :=
  let s := addVal .rn x (if sub then y.negate else y)
  let r := roundSig p s.1
  (r.1, s.2 ||| r.2)
/-- A post-addition in FP32 (R234). -/
def postAdd (fz sub : Bool) (x y : Val) : Val × FFlags :=
  let r := fpAdd FP32 (binOf FP32) .rn fz x (if sub then y.negate else y)
  (decodeVal FP32 r.1, r.2)
/-- prod(X, Y): the classical loop at depth h on a 32 by 32 result (R234). -/
def sevenProd (kc h : Nat) (fz : Bool) (x y : ValMat) : ValMat × FFlags :=
  let m := (List.range 32).map (fun i => (List.range 32).map (fun j =>
    let r := classicalFp FP32 kc fz none ((List.range h).map (fun k => (mulVal (x.at i k) (y.at k j)).1))
    (decodeVal FP32 r.1, r.2)))
  (m.map (fun row => row.map (fun x => x.1)), orFlags m)

/-- U of seven-product order: the four quarters to be added to C, with the flags (R234 to R236). A holds 64 rows of K scaled values, B K rows of 64. -/
def sevenU (f : Fmt) (kc K : Nat) (fz : Bool) (a b : ValMat) : (ValMat × ValMat × ValMat × ValMat) × FFlags :=
  let h := K / 2
  let p := sigBits f
  let a11 := a.block 0 0 32 h; let a12 := a.block 0 h 32 h
  let a21 := a.block 32 0 32 h; let a22 := a.block 32 h 32 h
  let b11 := b.block 0 0 h 32; let b12 := b.block 0 32 h 32
  let b21 := b.block h 0 h 32; let b22 := b.block h 32 h 32
  let s1 := ValMat.zip (preAdd p false) a21 a22 32 h
  let s2 := ValMat.zip (preAdd p true) s1.1 a11 32 h
  let s3 := ValMat.zip (preAdd p true) a11 a21 32 h
  let s4 := ValMat.zip (preAdd p true) a12 s2.1 32 h
  let t1 := ValMat.zip (preAdd p true) b12 b11 h 32
  let t2 := ValMat.zip (preAdd p true) b22 t1.1 h 32
  let t3 := ValMat.zip (preAdd p true) b22 b12 h 32
  let t4 := ValMat.zip (preAdd p true) t2.1 b21 h 32
  let p1 := sevenProd kc h fz a11 b11; let p2 := sevenProd kc h fz a12 b21
  let p3 := sevenProd kc h fz s4.1 b22; let p4 := sevenProd kc h fz a22 t4.1
  let p5 := sevenProd kc h fz s1.1 t1.1; let p6 := sevenProd kc h fz s2.1 t2.1
  let p7 := sevenProd kc h fz s3.1 t3.1
  let u1 := ValMat.zip (postAdd fz false) p1.1 p2.1 32 32
  let u2 := ValMat.zip (postAdd fz false) p1.1 p6.1 32 32
  let u3 := ValMat.zip (postAdd fz false) u2.1 p7.1 32 32
  let u4 := ValMat.zip (postAdd fz false) u2.1 p5.1 32 32
  let u5 := ValMat.zip (postAdd fz false) u4.1 p3.1 32 32
  let u6 := ValMat.zip (postAdd fz true) u3.1 p4.1 32 32
  let u7 := ValMat.zip (postAdd fz false) u3.1 p5.1 32 32
  ((u1.1, u5.1, u6.1, u7.1),
   [s1.2, s2.2, s3.2, s4.2, t1.2, t2.2, t3.2, t4.2, p1.2, p2.2, p3.2, p4.2, p5.2, p6.2, p7.2,
    u1.2, u2.2, u3.2, u4.2, u5.2, u6.2, u7.2].foldl (· ||| ·) fNone)

end Sys2Proof.Machine
end

