-- ==== Sys2Proof/Machine/Matrix.lean ====
section
/-! DEFINITION. Matrix commands at issue: their blocks, checks, prices and queues (R219, R223 to R227, R232, R238 to R241). -/

namespace Sys2Proof.Machine

/-- What the checks of a block at issue find (R226). -/
inductive MuChk where
  | ok (op : MuOp)
  | illop
  | align (addr : Nat)
  | ringErr (addr : DWord)
  deriving DecidableEq, Repr

/-- Who issues, and what is captured with a matrix command (R59, R176). -/
structure MuCtx where
  owner   : RingOwner
  cluster : Nat
  cls     : Bool
  sshift  : Word
  sfmt    : Word
  deriving DecidableEq, Repr

/-- An enabled scale format that a command rejects (R59, R227, R232): lo is where the format stands in SFMT. -/
def badScale (en : Nat) (lo shLo : Nat) (sshift sfmt : Word) : Bool :=
  sfmt.getLsbD en && ((field sfmt.toNat lo 5 != 0x16 && field sfmt.toNat lo 5 != 0x17) || field sshift.toNat shLo 5 != 5)

/-- The ring of an MMA with ASRC = 1, open, owned, and with slots that hold the rows (R226). -/
def State.muRing (s : State) (c : MuCtx) (ring need : Nat) : Option DWord :=
  match s.ringSeen c.cluster ring c.owner with
  | none => some 0
  | some r => if r.owner ≠ c.owner then some r.desc else if r.slotb < need then some r.desc else none

/-- An MMA or MMA.X64 block, checked at issue (R226, R227, R238). -/
def State.mmaCheck (s : State) (c : MuCtx) (x64 : Bool) (md : Nat) (w0 w1 w2 w3 : Nat) : MuChk :=
  let f := md / 8
  let mode := field md 1 2
  let sat := md % 2 == 1
  let pr := x64 && mode == 1
  match (if x64 then x64Fmt f pr else mmaFmt f) with
  | none => .illop
  | some t =>
    let sp := w1.testBit 15
    let K := field w2 0 13
    let mv := field w1 0 7
    let nv := field w1 8 7
    let act := field w0 28 4
    let asrc := w0.testBit 26
    let aadr := field w0 0 20
    let ast := field w1 16 16
    let two := K % (2 * t.kc) == 0
    if field w0 24 2 ≠ 0 ∨ w1.testBit 7 ∨ field w2 13 3 ≠ 0 ∨ (asrc = true ∧ aadr ≥ 64) then .illop
    else if mode = 3 ∨ (x64 = true ∧ (mode = 2 ∨ sat = true)) ∨ (x64 = false ∧ sat = true ∧ t.acc ≠ I32) then .illop
    else if x64 = false ∧ mode = 1 ∧ (t.seven = false ∨ (c.cls = false ∧ (sp = true ∨ two = false))) then .illop
    else if mv = 0 ∨ mv > 64 ∨ nv = 0 ∨ nv > 64 ∨ K = 0 ∨ K > t.kmax then .illop
    else if sp = true ∧ (t.sparse = false ∨ K % 4 ≠ 0) then .illop
    else if t.acc = FP64 ∧ act % 2 = 1 then .illop
    else if asrc = true ∧ ast % 16 ≠ 0 then .illop
    else if t.scales ∧ badScale 16 0 0 c.sshift c.sfmt then .illop
    else if asrc = false ∧ (aadr % 16 ≠ 0 ∨ ast % 16 ≠ 0) then .align aadr
    else
      let x7 := !x64 && ((mode == 0 && !c.cls && t.seven && !sp && two) || (mode == 1 && !c.cls))
      let op : MuOp := .mma x64 pr x7 sat f act (w0.testBit 27) asrc (field w0 20 4) aadr ast sp nv mv K (field w3 20 12) (field w3 0 20)
      if asrc then
        match s.muRing c (aadr % 64) ((mv - 1) * ast + rowBytes f pr K) with
        | some a => .ringErr a
        | none => .ok op
      else .ok op

/-- FMOD, FX64 and FQ are zero in an instruction's block (R226). -/
def followZero (w2 : Nat) : Bool := field w2 20 12 == 0

/-- A WB.LD block, checked at issue (R232). -/
def wbLdCheck (c : MuCtx) (gm sp : Bool) (w : Nat → Nat) : MuChk :=
  let badr := w 0 + 2 ^ 32 * w 1
  let bst := w 2
  let f := field (w 3) 27 5
  let pr := (w 3).testBit 26
  let K := field (w 3) 0 13
  let madr := w 4 + 2 ^ 32 * w 5
  match mmaFmt f with
  | none => .illop
  | some t =>
    let wbs := field (w 3) 16 4
    let slots := ceilDiv (64 * rowBytes f pr (if sp then K / 2 else K)) 8192
    if field (w 3) 20 6 ≠ 0 ∨ field (w 3) 13 3 ≠ 0 ∨ (sp = false ∧ (madr ≠ 0 ∨ w 7 ≠ 0)) then .illop
    else if pr = true ∧ f ≠ FP32 then .illop
    else if K = 0 ∨ K > (if pr then 8 else t.kmax) then .illop
    else if sp = true ∧ (fmtWidth f > 16 ∨ pr = true ∨ K % 4 ≠ 0) then .illop
    else if wbs + slots > 16 then .illop
    else if gm = true ∧ (badr ≥ 2 ^ 20 ∨ madr ≥ 2 ^ 20) then .illop
    else if t.scales ∧ badScale 17 8 8 c.sshift c.sfmt then .illop
    else if badr % 16 ≠ 0 ∨ bst % 16 ≠ 0 then .align badr
    else .ok (.wbLd gm sp badr bst f pr wbs K madr (field (w 6) 20 12) (field (w 6) 0 20) (w 7))

/-- ACC.RD and ACC.WR at issue (R239). -/
def accCheck (rd w64 : Bool) (addr c : Nat) : MuChk :=
  let act := field c 28 4
  let str := field c 16 12
  if field c 0 16 ≠ 0 ∨ str < (if w64 then 32 else 16) ∨ (w64 = true ∧ act % 2 = 1) then .illop
  else if addr % 16 ≠ 0 then .align addr
  else .ok (if rd then .accRd w64 act addr str else .accWr w64 act addr str)

/-- Price of a matrix command in tokens (R225). -/
def muPrice (op : MuOp) : Nat :=
  match op with
  | .mma x64 pr x7 _ f _ _ _ _ _ _ sp _ _ k _ _ =>
    let base := k * (((if x64 then x64Fmt f pr else mmaFmt f).map (fun t => t.tok)).getD 0)
    if sp then ceilDiv (base * 5) 8 else if x7 then ceilDiv (base * 7) 8 else base
  | .wbLd _ sp _ _ f pr _ k _ _ _ _ => 32 * ceilDiv (64 * rowBytes f pr (if sp then k / 2 else k)) 4096
  | .accRd w64 _ _ _ => if w64 then 128 else 64
  | .accWr w64 _ _ _ => if w64 then 128 else 64
  | .accZero m => 4 * ((List.range 16).filter (fun t => m.testBit t)).length
  | .fence => 1

/-- The key of a matrix unit's image for a context (R218, R401). -/
def muKey (cluster quad vf ctx : Nat) : Nat := ((cluster * 8 + quad) * 64 + vf) * 16 + ctx
def emptyMu : Mu := ⟨[], [], [], [], [], [], []⟩
def State.mu (s : State) (k : Nat) : Mu := mapGetD s.mus k emptyMu
def State.setMu (s : State) (k : Nat) (m : Mu) : State := { s with mus := mapPut emptyMu s.mus k m }
def State.modMu (s : State) (k : Nat) (f : Mu → Mu) : State := s.setMu k (f (s.mu k))
/-- Entries of a matrix unit's queue that are held (R219, R400). -/
def State.muDepth (s : State) (cluster quad : Nat) : Nat :=
  ((s.mus.filter (fun x => x.1 / 1024 == cluster * 8 + quad)).map (fun x => (x.2.queue.filter (fun c => !c.out)).length)).foldl (· + ·) 0
/-- Entries that are held or will be, by commands that fragments of contexts that are not halted have sent (R219, R400). -/
def State.muBusy (s : State) (cluster quad : Nat) : Nat :=
  s.muDepth cluster quad + ((mapGetD s.saddle cluster []).filter (fun m => match m.msg with | .matrix q vf ctx _ _ => q == quad && !s.ctxHalted vf ctx | _ => false)).length

def Agent.muCtx (a : Agent) : MuCtx := ⟨a.ringOwner, a.cluster, a.cls, a.sshift, a.sfmt⟩

/-- A matrix command issued: its operation counts against the flag, and the command enters the queue, from a fragment by way of the Saddle network (R53, R219). -/
def State.issueMu (s : State) (id : Nat) (b : Bool) (i : Instr) (o : MOps) (a : Agent) (p : Path) (acq rel : Bool) (scope : Nat) (op : MuOp) : State :=
  let flag := p.flagOf o.fs
  let o' : Outstanding := { (opOf s b flag [] [] []) with ready := false, mayTrap := true }
  let cmd : MuCmd := ⟨s.nextId, id, s.nextId, b, flag, acq, rel, scope, a.fz, a.sbase, a.sshift, a.sfmt, op, none, false, none, none, s.nextId, p.mask, s.nextEv, false⟩
  let q := s.muQuad a
  let s1 := s.issueOp id b i a o'
  if a.isFrag then s1.sendUp a (.matrix q a.vf a.ctx cmd false)
  else s1.modMu (muKey a.cluster q a.vf a.ctx) (fun m => { m with queue := m.queue ++ [cmd] })

/-- A matrix instruction (R219, R223): once for the agent, its tasks irrevocable first, then the checks at issue. -/
def muOp (i : Instr) (o : MOps) (acq rel : Agent → Bool) (scope : Agent → Nat) (chk : State → Agent → MuChk) (s : State) : Host.Outcome State Fault Refusal :=
  s.onPath fun id b a p =>
    if !guardAlways o.g then .next (s.finish id b i a)
    else .next (s.irrevThen id b p.mask (s.softLanes a p.mask) (fun s a p =>
      match chk s a with
      | .ok op => s.issueMu id b i o a p (acq a) (rel a) (scope a) op
      | .illop => s.illop id b p p.mask
      | .align x => s.raiseAt id b p.pos p.mask (fun L => ⟨cALIGN, false, L, BitVec.ofNat 64 x⟩)
      | .ringErr x => s.ringErr id b p x))

/-- Word k of a command block (R84). -/
def blockWord (a : Agent) (o : MOps) (k : Nat) : Nat := match o.a with | .scal r => (a.s (r.toNat + k)).toNat | _ => 0

/-- MMA and MMA.X64 as instructions (R226, R227, R238). -/
def mmaOp (x64 : Bool) (i : Instr) (o : MOps) (s : State) : Host.Outcome State Fault Refusal :=
  let w2 := fun a => blockWord a o 2
  muOp i o (fun a => (w2 a).testBit 19) (fun a => (w2 a).testBit 18) (fun a => field (w2 a) 16 2)
    (fun s a => if !followZero (w2 a) || (field (w2 a) 16 4 != 0 && field (w2 a) 18 2 == 0) then .illop
      else s.mmaCheck a.muCtx x64 o.mod.toNat (blockWord a o 0) (blockWord a o 1) (w2 a) (blockWord a o 3)) s
/-- MMA (R227). -/
def execMma (o : MOps) (s : State) : Host.Outcome State Fault Refusal := mmaOp false (.mma o) o s
/-- MMA.X64 (R238). -/
def execMmaX64 (o : MOps) (s : State) : Host.Outcome State Fault Refusal := mmaOp true (.mmaX64 o) o s

/-- Acquire, release and scope of an engine modifier (R90, R177). -/
def engAcq (o : MOps) : Bool := o.mod.getLsbD 5
def engRel (o : MOps) : Bool := o.mod.getLsbD 4
def engScope (o : MOps) : Nat := o.mod.toNat / 64

/-- WB.LD (R232). -/
def execWbLd (o : MOps) (s : State) : Host.Outcome State Fault Refusal :=
  muOp (.wbLd o) o (fun _ => engAcq o) (fun _ => engRel o) (fun _ => engScope o)
    (fun _ a => wbLdCheck a.muCtx (o.mod.getLsbD 3) (o.mod.getLsbD 0) (blockWord a o)) s
/-- ACC.RD (R239). -/
def execAccRd (o : MOps) (s : State) : Host.Outcome State Fault Refusal :=
  muOp (.accRd o) o (fun _ => engAcq o) (fun _ => engRel o) (fun _ => engScope o)
    (fun s a => accCheck true (o.mod.getLsbD 3) (gmAddr s a o 0) (valC a o 1 0)) s
/-- ACC.WR (R239). -/
def execAccWr (o : MOps) (s : State) : Host.Outcome State Fault Refusal :=
  muOp (.accWr o) o (fun _ => engAcq o) (fun _ => engRel o) (fun _ => engScope o)
    (fun s a => accCheck false (o.mod.getLsbD 3) (gmAddr s a o 0) (valC a o 1 0)) s
/-- ACC.ZERO (R240): a mask with bits above 15 raises ILLOP. -/
def execAccZero (o : MOps) (s : State) : Host.Outcome State Fault Refusal :=
  muOp (.accZero o) o (fun _ => false) (fun _ => false) (fun _ => 0)
    (fun s a => let m := valB s a o (.bits 1) 0; if m ≥ 2 ^ 16 then .illop else .ok (.accZero m)) s
/-- MU.FENCE (R241). -/
def execMuFence (o : MOps) (s : State) : Host.Outcome State Fault Refusal :=
  muOp (.muFence o) o (fun _ => false) (fun _ => false) (fun _ => 0) (fun _ _ => .ok .fence) s

end Sys2Proof.Machine
end

