-- ==== Sys2Proof/WellFormed.lean ====
section
/-! DEFINITION. Well-formed instructions: those R97 calls an instruction, by their encoding alone. -/

namespace Sys2Proof

/-- Well formed: a legal header (R75) or a legal encoding (R97); a device step carries nothing to check. -/
def Instr.wf (i : Instr) : Bool := Machine.legal i

end Sys2Proof
end

