-- ==== Sys2Proof/Machine/Eligible.lean ====
section
/-! DEFINITION. What makes a PC slot eligible but for its purse: the fetch of its instruction, the interlocks, the granules that it needs, and room in its queue (R71, R89, R176, R188, R219, R246, R251, R252, R407). -/

namespace Sys2Proof.Machine

/-- The parcels of the instruction a path stands at in a clause body. -/
inductive FetchedInstr where
  | ok (p0 p1 p2 : Word)
  | stop (s : State)
/-- An instruction fetched parcel by parcel, by its length (R71). -/
def State.fetchInstr (s : State) (id : Nat) (b : Bool) (a : Agent) (p : Path) : FetchedInstr :=
  match s.fetchParcel id b a p p.pc with
  | .stop s => .stop s
  | .ok w0 =>
    if lengthOf w0 = 1 then .ok w0 0 0
    else match s.fetchParcel id b a p (p.pc + 4) with
      | .stop s => .stop s
      | .ok w1 =>
        if lengthOf w0 = 2 then .ok w0 w1 0
        else match s.fetchParcel id b a p (p.pc + 8) with
          | .stop s => .stop s
          | .ok w2 => .ok w0 w1 w2

/-- The contexts that a fragment was given are its own: what a halted context kept there has been spilt. The export does not wait for that (R264, R400). -/
def State.placeClear (s : State) (a : Agent) : Bool := match a.core with | .narrow n => s.ctxClear a.cluster n a.units | .wide _ _ => true
/-- The slot may be looked at: it holds a path, and is not stopped, halted, or a fragment that cannot start yet (R188, R210, R250, R264, R396). -/
def State.mayLook (s : State) (a : Agent) (b : Bool) : Bool :=
  (a.slot b).path.isSome && !(a.slot b).stopped && !a.halted && s.ctxRuns a.vf a.ctx && (!a.isFrag || (a.begun && s.placeClear a))

/-- The operands of an instruction, for its guard. -/
def opsOf (i : Instr) : Option MOps := (shapeOf (expandShort i)).map (fun x => x.1)
/-- Lanes for which an instruction acts; for one that acts once, all or none (R16, R86). -/
def Agent.actFor (a : Agent) (p : Path) (i : Instr) : Mask := match opsOf i with | some o => a.active p o.g | none => p.mask

/-- An outstanding operation has still to write a register that the instruction reads or writes (R89, R246). -/
def Agent.interlocked (a : Agent) (u : Uses) : Bool :=
  a.ops.any (fun op => op.vdst.any (fun d => (u.vr ++ u.vw).any (fun r => overlaps d r)) || op.sdst.any (fun d => (u.sr ++ u.sw).any (fun r => overlaps d r)))
    || a.owed.any (fun d => (u.sr ++ u.sw).any (fun r => overlaps (d.2, 1) r))

/-- Registers of granule g (R47). -/
def granuleRegs (g : Nat) : List Nat := (List.range 8).map (fun k => 8 * g + k)
def Agent.granule (a : Agent) (g : Nat) : GranuleSt := mapGetD a.granules g .absent
def Agent.setGranule (a : Agent) (g : Nat) (x : GranuleSt) : Agent := { a with granules := mapPut .absent a.granules g x }
/-- Granules of register ranges, within the allocation. -/
def Agent.granulesOf (a : Agent) (rs : List (Nat × Nat)) : List Nat :=
  (rs.flatMap (fun x => (List.range x.2).map (fun k => x.1 + k))).foldl (fun l r => if r < a.nregs then insertNat l (r / 8) else l) []
/-- An operation of the agent has still to write a register of a granule. -/
def Agent.granuleOwed (a : Agent) (g : Nat) : Bool := a.ops.any (fun op => op.vdst.any (fun d => overlaps d (8 * g, 8)))

/-- A granule of the parent can be read whole: its own outstanding writes are there, and it has been filled. -/
def Agent.settled (a : Agent) (g : Nat) : Bool := !a.granuleOwed g && !a.unfilled.contains g
/-- Granules that a fragment has asked for, and that are on their way to it (R251, R252). -/
def State.pulling (s : State) (id : Nat) (f : Agent) (g : Nat) : Bool :=
  f.asked.contains g || (mapGetD s.saddle f.cluster []).any (fun m => match m.msg with
    | .pullReq x gs => x == id && gs.contains g
    | .pullResp x gs => x == id && gs.contains g
    | .push x k => x == id && k == g
    | _ => false)
/-- Live fragments of a warp that hold a granule absent. -/
def State.lacking (s : State) (id g : Nat) : List (Nat × Agent) :=
  s.agents.filter (fun x => (match x.2.kind with | .frag p _ _ => p == id | _ => false) && x.2.granule g == .absent)
/-- The granules that an instruction touches are there: filled after a resumption, present in a fragment, and held absent by no fragment of a parent that writes them (R251, R252, R407). -/
def State.rowsReady (s : State) (id : Nat) (a : Agent) (u : Uses) : Bool :=
  let need := a.granulesOf (u.vr ++ u.vw)
  need.all (fun g => !(a.unfilled.contains g)) &&
    (if a.isFrag then need.all (fun g => a.granule g != .absent) else (a.granulesOf u.vw).all (fun g => (s.lacking id g).isEmpty))
/-- What the registers of an instruction still lack. -/
inductive Rows where
  | ready
  | hold
  /-- pulls, or pushes, are started -/
  | pull (s : State)
/-- Rows of an instruction: pulled by a fragment, pushed to fragments before a parent's write (R251, R252). -/
def State.rows (s : State) (id : Nat) (a : Agent) (u : Uses) : Rows :=
  if s.rowsReady id a u then .ready
  else if a.isFrag then
    let ask := (a.granulesOf (u.vr ++ u.vw)).filter (fun g => a.granule g == .absent && !(s.pulling id a g))
    if ask.isEmpty then .hold else .pull (s.sendUp a (.pullReq id ask))
  else
    let owing := ((a.granulesOf u.vw).filter a.settled).flatMap (fun g => ((s.lacking id g).filter (fun x => !(s.pulling x.1 x.2 g))).map (fun x => (x.1, x.2, g)))
    if owing.isEmpty then .hold else .pull (owing.foldl (fun s x => s.sendDown x.2.1 (.push x.1 x.2.2)) s)

def engKey (cluster : Nat) (se : Bool) : Nat := 2 * cluster + (if se then 1 else 0)
def State.engQ (s : State) (cluster : Nat) (se : Bool) : List EngCmd := mapGetD s.engines (engKey cluster se) []
def State.setEngQ (s : State) (cluster : Nat) (se : Bool) (q : List EngCmd) : State := { s with engines := mapPut [] s.engines (engKey cluster se) q }
/-- A command changed in its queue. -/
def State.modEng (s : State) (cluster : Nat) (se : Bool) (id : Nat) (f : EngCmd → EngCmd) : State :=
  s.setEngQ cluster se ((s.engQ cluster se).map (fun c => if c.id == id then f c else c))
/-- Entries of an engine's queue that are held (R176, R400). -/
def State.engBusy (s : State) (cluster : Nat) (se : Bool) : Nat := ((s.engQ cluster se).filter (fun c => !c.out)).length
/-- An instruction that puts a command into a matrix unit's queue, and one that puts one into an engine's. -/
def isMatrix (i : Instr) : Bool :=
  match i with | .mma _ => true | .mmaX64 _ => true | .wbLd _ => true | .accRd _ => true | .accWr _ => true | .accZero _ => true | .muFence _ => true | _ => false
def engineOf (i : Instr) : Option Bool :=
  match i with | .cpy _ => some false | .gath _ => some true | .scat _ => some true | .sisect _ => some true | .smerge _ => some true | _ => none
/-- A matrix unit's queue, and an engine's, has room for a new command of a context: no command of that context that a claim has put out of the queue has still to come back (R176, R219, R406). -/
def State.muRoom (s : State) (cluster quad vf ctx : Nat) : Bool :=
  decide (s.muBusy cluster quad < 16) && !((s.mu (muKey cluster quad vf ctx)).queue.any (fun c => c.out))
def State.engRoom (s : State) (a : Agent) (se : Bool) : Bool :=
  decide (s.engBusy a.cluster se < 64) && !((s.engQ a.cluster se).any (fun c => c.out && c.vf == a.vf && c.ctx == a.ctx))
/-- The queue that an instruction's command needs has room (R176, R219). -/
def State.roomFor (s : State) (a : Agent) (i : Instr) : Bool :=
  (!isMatrix i || s.muRoom a.cluster (s.muQuad a) a.vf a.ctx) && (match engineOf i with | some se => s.engRoom a se | none => true)
/-- The instruction that a slot stands at in its clause and is not kept from by a wait. -/
def State.standsAt (s : State) (id : Nat) (b : Bool) : Option (Agent × Path × Instr) :=
  match s.agent? id with
  | none => none
  | some a =>
    match (a.slot b).path with
    | none => none
    | some p =>
      if !s.mayLook a b || (a.slot b).wait != .none || p.phase == .header then none
      else match s.fetchInstr id b a p with
        | .stop _ => none
        | .ok p0 p1 p2 => (decodeBody p0 p1 p2).map (fun i => (a, p, i))
/-- The instruction that a slot would issue, were it not for its purse: the slot is eligible in every other respect (R246, R319). -/
def State.eligible (s : State) (id : Nat) (b : Bool) : Option (Agent × Instr) :=
  match s.standsAt id b with
  | none => none
  | some (a, p, i) =>
    if i.wf && a.actFor p i != 0 && !a.interlocked (usesOf i) && s.rowsReady id a (usesOf i) && s.roomFor a i then some (a, i) else none

end Sys2Proof.Machine
end

