-- ==== Sys2Proof/Machine/Licence.lean ====
section
/-! DEFINITION. Issue licensing: prices, purses, the flits of the licence rings, and the slope control with its fillers (R314 to R326, R412). -/

namespace Sys2Proof.Machine

def Chiplet.base : Chiplet :=
  { step := 0, stepNew := none, inj := [], injNew := [], fill := [], flits := [], lap := 0, spend := [], lapSpend := []
    floor := [], debt := [], need := [], votes := [], level := 0, raising := none, hold := false, hot := false, fenced := false }
def State.chiplet (s : State) (c : Nat) : Chiplet := mapGetD s.chiplets c Chiplet.base
def State.setChiplet (s : State) (c : Nat) (x : Chiplet) : State := { s with chiplets := mapPut Chiplet.base s.chiplets c x }
def State.modChiplet (s : State) (c : Nat) (f : Chiplet → Chiplet) : State := s.setChiplet c (f (s.chiplet c))

def LicInj.off : LicInj := ⟨false, 0, 0⟩
def Chiplet.injOf (c : Chiplet) (vf : Nat) : LicInj := mapGetD c.inj vf LicInj.off

/-- Prices of instructions at a PC slot, but for matrix commands (R318); chunks: whether an engine command has a chunk at all. -/
def slotPrice (wide : Bool) (i : Instr) (chunks : Nat) : Nat :=
  let f64 (o : MOps) (n : Nat) : Nat := if wide && tyOf o = FP64 then n else 0
  match i with
  | .addFp o | .subFp o | .mulFp o | .minFp o | .maxFp o | .absFp o | .negFp o | .frc o | .rndi o | .scalb o | .getexp o | .getman o
  | .clampFp o => f64 o 12
  | .fmaFp o => f64 o 24
  | .divFp o => f64 o 96
  | .rcp o | .sqrt o => if wide then (if tyOf o = FP64 then 128 else 16) else 0
  | .ex2 _ | .lg2 _ | .rsq _ | .sinPi _ | .cosPi _ | .tanh _ | .sigm _ | .erf _ => if wide then 16 else 0
  | .cpy _ => if chunks = 0 then 0 else 32
  | .gath _ | .scat _ => 48
  | .sisect _ | .smerge _ => if chunks = 0 then 0 else 40
  | _ => 0

def Purse.empty : Purse := ⟨0, none, [], 0, false⟩
def State.purse (s : State) (cluster quad : Nat) : Purse := mapGetD s.purses (8 * cluster + quad) Purse.empty
def State.setPurse (s : State) (cluster quad : Nat) (p : Purse) : State := { s with purses := mapPut Purse.empty s.purses (8 * cluster + quad) p }

/-- A draw is one still: its slot is eligible but for its purse and stands at a priced instruction, or its command still waits and its context runs (R319, R323). -/
def State.claims (s : State) (cluster : Nat) (d : Draw) : Bool :=
  match d with
  | .slot a b => match s.eligible a b with
    | some (x, i) => isMatrix i || slotPrice (x.width == 64 && x.core.isWide) i 1 != 0
    | none => false
  | .fwd c => (mapGetD s.saddle cluster []).any (fun m => match m.msg with | .matrix _ vf ctx cmd here => here && cmd.id == c && s.ctxRuns vf ctx | _ => false)
  | .eng se c => (s.engQ cluster se).any (fun e => e.id == c && !e.handed && !e.out && s.ctxRuns e.vf e.ctx)
/-- A purse as its draws stand: one that has ceased, or is short no more, is forgotten, and where the claimant has gone the one that became short first takes its place (R319). -/
def State.cleanPurse (s : State) (cluster : Nat) (p : Purse) : Purse :=
  let left := p.others.filter (fun x => s.claims cluster x.1 && decide (p.tokens < x.2))
  let next : Purse := { p with claimant := left.head?, others := left.drop 1, short := 0 }
  match p.claimant with
  | some (d, _) => if s.claims cluster d then { p with others := left } else next
  | none => if left.isEmpty then { p with others := [] } else next
/-- A draw with its price among those that are short, once and at the price that it has now. -/
def Purse.addShort (p : Purse) (d : Draw) (price : Nat) : Purse :=
  match p.claimant with
  | none => { p with claimant := some (d, price), short := 0 }
  | some (x, _) =>
    if x == d then { p with claimant := some (d, price) }
    else if p.others.any (fun y => y.1 == d) then { p with others := p.others.map (fun y => if y.1 == d then (d, price) else y) }
    else { p with others := p.others ++ [(d, price)] }
/-- A draw that is none any more. -/
def Purse.without (p : Purse) (d : Draw) : Purse :=
  let left := p.others.filter (fun y => y.1 != d)
  match p.claimant with
  | some (x, _) => if x == d then { p with claimant := none, others := left, short := 0 } else { p with others := left }
  | none => { p with others := left }

/-- Spend of a VF on a chiplet (R325). -/
def Chiplet.spent (c : Chiplet) (vf n : Nat) : Chiplet := { c with spend := mapAdd c.spend vf n, lapSpend := mapAdd c.lapSpend vf n }

/-- A draw at a purse (R319): it proceeds and is charged, or is short, or is held by the earmark of another claimant. -/
def State.pay (s : State) (cluster quad vf : Nat) (d : Draw) (price : Nat) : State × Bool :=
  let p := s.cleanPurse cluster (s.purse cluster quad)
  let mark := match p.claimant with | some (x, c) => if x == d then 0 else c | none => 0
  if price > p.tokens then (s.setPurse cluster quad (p.addShort d price), false)
  else if p.tokens < price + mark then (s.setPurse cluster quad p, false)
  else
    let q := p.without d
    ((s.setPurse cluster quad { q with tokens := p.tokens - price }).modChiplet (cluster / 16) (fun c => c.spent vf price), true)

/-- A slot that is no draw any more loses its claim (R319). -/
def State.dropClaim (s : State) (cluster quad : Nat) (d : Draw) : State :=
  let p := s.purse cluster quad
  let q := p.without d
  if q = p then s else s.setPurse cluster quad q

/-- The quadrants of a stop that a VF owns, Q0 first (R314, R319). -/
def State.stopQuads (s : State) (cluster vf stop : Nat) : List Nat :=
  ((List.range 4).map (fun k => 4 * (stop % 2) + k)).filter (fun q => s.ownsQuad cluster vf q)

/-- A flit passes one quadrant: lapse, draw, service and reservation (R319, R321). -/
def State.passQuad (s : State) (cluster vf : Nat) (f : Flit) (quad : Nat) : State × Flit :=
  let pt := ((s.chiplet (cluster / 16)).injOf vf).pt
  let name := 8 * (cluster % 16) + quad
  let p := s.cleanPurse cluster (s.purse cluster quad)
  let lapse := p.claimant.isNone && f.resv.contains name
  let f := if lapse then { f with resv := f.resv.filter (fun x => x != name) } else f
  let mayDraw := f.resv.isEmpty || f.resv.head? == some name
  let price := match p.claimant with | some (_, c) => c | none => 0
  let want := min (max price pt - p.tokens) (16383 - p.tokens)
  let d := if mayDraw then min f.tokens want else 0
  let f := { f with tokens := f.tokens - d }
  let p := { p with tokens := p.tokens + d, reserved := f.resv.contains name }
  match p.claimant with
  | none => (s.setPurse cluster quad p, f)
  | some _ =>
    if p.tokens ≥ price then
      if f.resv.head? == some name then (s.setPurse cluster quad { p with short := 0, reserved := false }, { f with resv := f.resv.drop 1 })
      else (s.setPurse cluster quad { p with short := 0 }, f)
    else
      let n := p.short + 1
      let set := decide (n ≥ 2) && !p.reserved && decide (f.resv.length < 4)
      (s.setPurse cluster quad { p with short := n, reserved := p.reserved || set },
       if set then { f with resv := f.resv ++ [name] } else f)

/-- FLIT_PASS (R314, R319, R321): a VF's flit passes its next stop. -/
def execFlitPass (chiplet vf stop : Nat) (s : State) : Host.Outcome State Fault Refusal :=
  match mapGet? (s.chiplet chiplet).flits vf with
  | none => .next s
  | some f =>
    if f.stop ≠ stop ∨ stop ≥ 32 then .next s
    else
      let cluster := 16 * chiplet + stop / 2
      -- the entries of the stop's quadrants that the VF has given up lapse (R321)
      let gone := ((List.range 4).map (fun k => 4 * (stop % 2) + k)).filter (fun q => !(s.ownsQuad cluster vf q))
      let f := { f with resv := f.resv.filter (fun x => !(gone.any (fun q => x == 8 * (cluster % 16) + q))) }
      let x := (s.stopQuads cluster vf stop).foldl (fun (x : State × Flit) q => x.1.passQuad cluster vf x.2 q) (s, { f with stop := stop + 1 })
      .next (x.1.modChiplet chiplet (fun c => { c with flits := mapSet c.flits vf x.2 }))

/-- The lap that ends: what each partition's spend falls short of its floor (R325). -/
def Chiplet.closeLap (c : Chiplet) : Chiplet :=
  { c with need := c.floor.filterMap (fun x =>
             let k := ceilDiv x.2 8 - mapGetD c.lapSpend x.1 0
             if k = 0 then none else some (x.1, k))
           lapSpend := [] }
/-- Matrix units of a chiplet whose queues are empty, those of quadrants without an owner among them, where R325 does not say (log 33). -/
def State.idleMus (s : State) (chiplet : Nat) : Nat :=
  128 - ((List.range 128).filter (fun k => s.muDepth (16 * chiplet + k / 8) (k % 8) ≠ 0)).length
/-- Fillers of the shortfalls: an idle matrix unit runs two in a lap; a shortfall without one lapses (R325, R326). Which partition comes first when they do not suffice is not stated: the lower VF (log 33). -/
def Chiplet.fillers (c : Chiplet) (room : Nat) : Chiplet :=
  (c.need.foldl (fun (x : Chiplet × Nat) v =>
    let n := min (ceilDiv v.2 128) x.2
    let price := 128 * n
    let c := x.1.spent v.1 price
    ({ c with fill := mapPut 0 c.fill v.1 ((mapGetD c.fill v.1 0 + price) % 2 ^ 64)
              debt := if (mapGet? c.flits v.1).isSome then mapAdd c.debt v.1 price else c.debt }, x.2 - n)) ({ c with need := [] }, room)).1
/-- The new lap's configuration and flits (R315, R316, R326). What is still to be withheld when a partition's flit has gone stays, where R326 does not say, and is withheld from a later flit of the VF (log 33). -/
def Chiplet.newLap (c : Chiplet) : Chiplet :=
  let inj := c.injNew.foldl (fun m x => mapPut LicInj.off m x.1 x.2) c.inj
  let c := { c with step := c.stepNew.getD c.step, stepNew := none, inj := inj, injNew := [], lap := c.lap + 1 }
  let on := inj.filter (fun x => x.2.en)
  let held := fun (x : Nat × LicInj) => min (mapGetD c.debt x.1 0) (x.2.inj - 4096)
  { c with
    flits := on.map (fun x => (x.1, ⟨x.2.inj - held x, ((mapGet? c.flits x.1).map (fun f => f.resv)).getD [], 0⟩))
    debt := on.foldl (fun m x => mapPut 0 m x.1 (mapGetD m x.1 0 - held x)) c.debt }

/-- LAP_START (R314 to R316, R325, R326): the flits of the last lap have passed every stop; what a filler of this lap costs is withheld at the lap starts to come. -/
def execLapStart (chiplet : Nat) (s : State) : Host.Outcome State Fault Refusal :=
  let c := s.chiplet chiplet
  if chiplet ≥ 8 ∨ c.lap ≥ 8 ∨ c.flits.any (fun x => decide (x.2.stop < 32)) then .next s
  else
    let c := if c.lap = 0 then c else c.closeLap
    .next (s.setChiplet chiplet (c.newLap.fillers (2 * s.idleMus chiplet)))

/-- SLOPE_WINDOW_END (R325): after 8 laps each partition's floor for the next window. -/
def execSlopeWindowEnd (chiplet : Nat) (s : State) : Host.Outcome State Fault Refusal :=
  let c := s.chiplet chiplet
  if c.lap ≠ 8 ∨ c.flits.any (fun x => decide (x.2.stop < 32)) then .next s
  else
    let c := c.closeLap
    .next (s.setChiplet chiplet { c with
      lap := 0
      floor := if c.step = 0 then [] else c.spend.filterMap (fun x => if x.2 - c.step = 0 then none else some (x.1, x.2 - c.step))
      spend := [] })

/-- INJ of a VF on a chiplet: floor(500 W / f), with W the chiplet's share of the allotment and f = (12 + level) / 20 GHz (R317, R412). -/
def injOfShare (allot quads total level : Nat) : Nat :=
  if total = 0 then 0 else min 65535 (10 * allot * quads / (total * (12 + level)))
/-- Quadrants a VF owns on a chiplet. -/
def State.quadsOn (s : State) (chiplet vf : Nat) : Nat :=
  ((s.parts.filter (fun x => x.1 % 64 == vf && x.1 / 1024 == chiplet)).map (fun x => ((List.range 8).filter (fun q => x.2.qmask.testBit q)).length)).foldl (· + ·) 0
/-- Quadrants a VF owns. -/
def State.quadsOf (s : State) (vf : Nat) : Nat := ((List.range 8).map (fun c => s.quadsOn c vf)).foldl (· + ·) 0
/-- Dale rewrites the LICINJ entries of a VF (R317, R374); the purse target stays. -/
def State.licRewrite (s : State) (vf : Nat) : State :=
  (List.range 8).foldl (fun s c =>
    let q := s.quadsOn c vf
    let x := s.chiplet c
    let old := mapGetD x.injNew vf (x.injOf vf)
    if q = 0 ∧ old = LicInj.off then s
    else s.setChiplet c { x with injNew := mapSet x.injNew vf ⟨decide (q ≠ 0), old.pt, if q = 0 then 0 else injOfShare (s.vf vf).allot q (s.quadsOf vf) x.level⟩ }) s
/-- STEP of a slope times a voltage, in hundredths, at a level: s V tau^2 / 64 with tau = 256 / f, f = (12 + level) / 20 (R325). -/
def stepOf (slopeVolts level : Nat) : Nat := slopeVolts * 5120 ^ 2 / ((12 + level) ^ 2 * 6400)
/-- STEP rewritten for a chiplet's clock, where slope control is not disabled (R317, R325, R413). -/
def State.stepRewrite (s : State) (chiplet : Nat) : State :=
  s.modChiplet chiplet (fun c => if c.stepNew.getD c.step = 0 then c else { c with stepNew := some (min (stepOf (Config.slopeVolts chiplet c.level) c.level) (2 ^ 24 - 1)) })
/-- Dale rewrites STEP and the LICINJ entries of every VF on a chiplet after a change of its clock (R317, R413). -/
def State.licRewriteAll (s : State) (chiplet : Nat) : State :=
  (List.range 64).foldl (fun s v => if s.quadsOn chiplet v = 0 then s else s.licRewrite v) (s.stepRewrite chiplet)

/-- A vote on a level is standing at a chiplet: the highest, or none (R412). -/
def Chiplet.highest (c : Chiplet) : Nat := (c.votes.map (fun x => x.2)).foldl max 0
/-- The level that the votes and the sensors call for (R412, R414). -/
def Chiplet.target (c : Chiplet) : Nat := if c.hot then 0 else c.highest
/-- After a change of votes: a raise begins, or the run level is held (R413). -/
def Chiplet.voted (c : Chiplet) : Chiplet :=
  let t := c.target
  if t > c.level then { c with raising := some t, hold := false }
  else if t < c.level then { c with raising := none, hold := !c.hot && true }
  else { c with raising := none, hold := false }

/-- VOTE_CHANGE (R412, R413): Dale sets or removes a partition's vote on a chiplet that it has quadrants on. -/
def execVoteChange (chiplet vf : Nat) (level : Option Nat) (s : State) : Host.Outcome State Fault Refusal :=
  match level with
  | some l =>
    if l > 8 ∨ s.quadsOn chiplet vf = 0 then .next s
    else .next (s.modChiplet chiplet (fun c => ({ c with votes := mapSet c.votes vf l }).voted))
  | none => .next (s.modChiplet chiplet (fun c => ({ c with votes := mapErase c.votes vf }).voted))

/-- FREQUENCY_STEP (R413): the clock reaches the level a raise steps to. -/
def execFrequencyStep (chiplet : Nat) (s : State) : Host.Outcome State Fault Refusal :=
  match (s.chiplet chiplet).raising with
  | none => .next s
  | some l => .next ((s.modChiplet chiplet (fun c => { c with level := l, raising := none })).licRewriteAll chiplet)

/-- FREQ_HOLD_EXPIRY (R413): after the hold the clock steps down to the highest vote standing. -/
def execFreqHoldExpiry (chiplet : Nat) (s : State) : Host.Outcome State Fault Refusal :=
  if (s.chiplet chiplet).hold then
    .next ((s.modChiplet chiplet (fun c => { c with level := c.target, hold := false })).licRewriteAll chiplet)
  else .next s

/-- A chiplet is limited at a temperature in tenths of a degree: above 105 degrees, and until it is below 100 (R414). -/
def hotAt (was : Bool) (tenths : Nat) : Bool := decide (tenths > 1050) || (was && decide (tenths ≥ 1000))
/-- CHIPLET_THERMAL_LIMIT (R414): its hottest sensor reads a temperature; limited, the chiplet runs at 0.60 GHz, and then it returns to its votes. -/
def execChipletThermalLimit (chiplet tenths : Nat) (s : State) : Host.Outcome State Fault Refusal :=
  let c := s.chiplet chiplet
  let hot := hotAt c.hot tenths
  if c.hot = hot then .next s
  else if hot then .next ((s.setChiplet chiplet { c with hot := true, level := 0, raising := none, hold := false }).licRewriteAll chiplet)
  else .next (s.setChiplet chiplet (({ c with hot := false }).voted))

end Sys2Proof.Machine
end

