-- ==== Sys2Proof/Machine/Engine.lean ====
section
/-! DEFINITION. Engine commands at issue: CPY, GATH, SCAT, SISECT and SMERGE; WIN.PUB and CB.INVAL (R176 to R187, R226). -/

namespace Sys2Proof.Machine

/-- What the checks at an engine command's issue find. -/
inductive EngChk where
  | ok (op : EngOp)
  | illop
  | align (addr : Nat)
  | ringErr (addr : DWord)
  deriving DecidableEq, Repr

/-- Chunks of 4 KiB that a command moves (R176). -/
def EngOp.chunks (op : EngOp) : Nat :=
  match op with
  | .cpy _ _ rowb rows _ _ _ _ _ _ => ceilDiv (rowb * rows) 4096
  | .gath .. => 1
  | .scat .. => 1
  | .walk _ _ _ alen blen _ _ _ _ _ _ _ => ceilDiv (4 * (alen + blen)) 4096

/-- A command issued: its operation counts against the flag, and the command enters its queue (R176). -/
def State.issueEng (s : State) (id : Nat) (b : Bool) (i : Instr) (o : MOps) (a : Agent) (p : Path) (se : Bool) (act : Mask) (vdst : List (Nat × Nat)) (op : EngOp) : State :=
  let flag := p.flagOf o.fs
  let o' : Outstanding := { (opOf s b flag vdst [] []) with ready := false, mayTrap := true }
  let cmd : EngCmd :=
    { id := s.nextId, agent := id, opId := s.nextId, slotB := b, flag := flag, vf := a.vf, ctx := a.ctx
      prio := ((s.launchOf a).map (fun l => l.prio)).getD 0, quad := s.muQuad a
      acq := engAcq o, rel := engRel o, scope := engScope o, op := op, lanes := act, stamp := s.nextEv, paid := 1
      i := 0, j := 0, n := 0, last := none, keyA := none, keyB := none, slot := none, done := 0, bad := 0, finished := false, fail := none, handed := false, told := false, begun := false, seq := s.nextId, out := false }
  let s1 := s.issueOp id b i a o'
  s1.setEngQ a.cluster se (s1.engQ a.cluster se ++ [cmd])

/-- An engine instruction that acts once (R86, R176). -/
def engOnce (i : Instr) (o : MOps) (se : Bool) (chk : State → Agent → Bool → Path → EngChk) (s : State) : Host.Outcome State Fault Refusal :=
  s.onPath fun id b a p =>
    if !guardAlways o.g then .next (s.finish id b i a)
    else match chk s a b p with
      | .ok op => .next (s.issueEng id b i o a p se p.mask [] op)
      | .illop => .next (s.illop id b p p.mask)
      | .align x => .next (s.raiseAt id b p.pos p.mask (fun L => ⟨cALIGN, false, L, BitVec.ofNat 64 x⟩))
      | .ringErr x => .next (s.ringErr id b p x)

/-- A ring that an engine command may write slots of at least n bytes to; otherwise RINGERR's address (R174, R179, R184). -/
def State.engRing (s : State) (a : Agent) (ring n : Nat) : Option DWord :=
  match s.ringSeen a.cluster ring a.ringOwner with
  | none => some 0
  | some r => if r.owner ≠ a.ringOwner then some r.desc else if r.slotb < n then some r.desc else none

/-- Space codes of a CPY (R179). -/
def cpySpace? (n : Nat) : Option CpySpace := match n with | 0 => some .glob | 1 => some .gm | 2 => some .ring | 3 => some .peer | _ => none

/-- A follow-on block, checked at the CPY's issue: ILLOP of R226 and R227 comes before the rest (R180, R226). -/
def State.followCheck (s : State) (a : Agent) (w : Nat → Nat) : MuChk :=
  let w2 := w 2
  if s.ownsQuad a.cluster a.vf (field w2 20 3) = false ∨ (field w2 16 2 ≠ 0 ∧ field w2 18 2 = 0) then .illop
  else s.mmaCheck a.muCtx (w2.testBit 23) (field w2 24 8) (w 0) (w 1) w2 (w 3)

/-- A CPY's block, checked at issue (R179, R180). Where R179 and R226 give no order (log 33), ALIGN of its follow-on comes before RINGERR of its destination, and RINGERR of its destination before that of its follow-on's ring. -/
def State.cpyCheck (s : State) (o : MOps) (a : Agent) (b : Bool) (p : Path) : EngChk :=
  let w := blockWord a o
  let src := w 0 + 2 ^ 32 * w 1
  let dst := w 2 + 2 ^ 32 * w 3
  let rowb := field (w 4) 0 24
  let rows := field (w 5) 0 16
  match cpySpace? (field (w 5) 20 4), cpySpace? (field (w 5) 16 4) with
  | some dsp, some ssp =>
    if field (w 4) 24 8 ≠ 0 ∨ field (w 5) 30 2 ≠ 0 ∨ rowb = 0 ∨ rows = 0 ∨ ssp = .ring ∨ (dsp = .peer ∧ ssp = .peer)
        ∨ (ssp = .gm ∧ src ≥ 2 ^ 20) ∨ (dsp = .gm ∧ dst ≥ 2 ^ 20) ∨ (dsp = .ring ∧ dst ≥ 64) then .illop
    else
      let op (f : Option (MuCmd × Nat)) : EngChk := .ok (.cpy src dst rowb rows (field (w 5) 24 6) dsp ssp (sextNat (w 6) 32) (sextNat (w 7) 32) f)
      let ring := if dsp = .ring then s.engRing a (dst % 64) rowb else none
      if o.mod.getLsbD 3 then
        let m := fun k => (a.s (o.c.toNat + k)).toNat
        let q := field (m 2) 20 3
        match s.followCheck a m with
        | .illop => .illop
        | .align x => .align x
        | .ringErr x => .ringErr (ring.getD x)
        | .ok mop =>
          match ring with
          | some x => .ringErr x
          | none => op (some (⟨s.nextId, (s.cur.map (fun c => c.agent)).getD 0, s.nextId, b, p.flagOf o.fs, (m 2).testBit 19, (m 2).testBit 18, field (m 2) 16 2,
              a.fz, a.sbase, a.sshift, a.sfmt, mop, none, false, none, some s.nextId, s.nextId, p.mask, s.nextEv, false⟩, q))
      else match ring with
        | some x => .ringErr x
        | none => op none
  | _, _ => .illop

/-- CPY (R179). -/
def execCpy (o : MOps) (s : State) : Host.Outcome State Fault Refusal :=
  engOnce (.cpy o) o false (fun s a b p => s.cpyCheck o a b p) s

/-- Address of a GATH or SCAT element (R181). -/
def elemAddr (s : State) (a : Agent) (o : MOps) (L : Nat) : Nat :=
  let idx : Nat := BitVec.toNat (match o.b with | .vec r => a.v r.toNat L | _ => 0)
  let x : Int := if o.mod.getLsbD 2 then (idx : Int) else sextNat idx 32
  let sz : Nat := 2 ^ (o.mod.toNat % 4)
  if o.mod.getLsbD 3 then wrapNat ((valA s a o (.bits 1) L : Int) + x * (sz : Int)) 32
  else wrapNat ((valA s a o (.bits 2) L : Int) + x * (sz : Int)) 64

/-- GATH (R181). -/
def execGath (o : MOps) (s : State) : Host.Outcome State Fault Refusal :=
  s.onPath fun id b a p =>
    let act := a.active p o.g
    if act = 0 then .next (s.finish id b (.gath o) a)
    else
      let log := o.mod.toNat % 4
      .next (s.issueEng id b (.gath o) o a p true act [(o.d.toNat, if log = 3 then 2 else 1)]
        (.gath (o.mod.getLsbD 3) log o.d.toNat ((lanesOf act).map (fun L => (L, elemAddr s a o L)))))

/-- SCAT (R181). -/
def execScat (o : MOps) (s : State) : Host.Outcome State Fault Refusal :=
  s.onPath fun id b a p =>
    let act := a.active p o.g
    if act = 0 then .next (s.finish id b (.scat o) a)
    else
      let log := o.mod.toNat % 4
      .next (s.issueEng id b (.scat o) o a p true act []
        (.scat (o.mod.getLsbD 3) log s.nextId ((lanesOf act).map (fun L => (L, elemAddr s a o L, valC a o (if log = 3 then 2 else 1) L)))))

/-- A walk's block, checked at issue (R183, R184). Of several addresses that are not aligned, TADDR takes AADR, then BADR, then the keys' destination, and LANE the lowest lane of the path, where R183 does not say (log 33). -/
def State.walkCheck (s : State) (o : MOps) (merge : Bool) (a : Agent) : EngChk :=
  let w := blockWord a o
  let aadr := w 0 + 2 ^ 32 * w 1
  let badr := w 2 + 2 ^ 32 * w 3
  let keys := (w 6).testBit 8
  let dedup := (w 6).testBit 7
  let noring := (w 6).testBit 6
  let ring := field (w 6) 0 6
  let gm := o.mod.getLsbD 3
  let dst := if keys then valC a o (if gm then 1 else 2) 0 else 0
  if field (w 4) 24 8 ≠ 0 ∨ field (w 5) 24 8 ≠ 0 ∨ field (w 6) 9 23 ≠ 0 ∨ (merge = false ∧ dedup = true) ∨ (merge = true ∧ keys = false) ∨ keys ≠ o.kc then .illop
  else if aadr % 4 ≠ 0 then .align aadr
  else if badr % 4 ≠ 0 then .align badr
  else if dst % 4 ≠ 0 then .align dst
  else match (if noring then none else s.engRing a ring 8) with
    | some x => .ringErr x
    | none => .ok (.walk merge aadr badr (field (w 4) 0 24) (field (w 5) 0 24) keys dedup noring ring (w 7) gm dst)

/-- SISECT (R183). -/
def execSisect (o : MOps) (s : State) : Host.Outcome State Fault Refusal :=
  engOnce (.sisect o) o true (fun s a _ _ => s.walkCheck o false a) s
/-- SMERGE (R183). -/
def execSmerge (o : MOps) (s : State) : Host.Outcome State Fault Refusal :=
  engOnce (.smerge o) o true (fun s a _ _ => s.walkCheck o true a) s

/-- Every line of the windows mapped into a VF is written through: those that the release covers among them (R186). -/
def State.publish (s : State) (vf : Nat) : State :=
  s.writeBacks (s.dirtyIn (fun o => match o with | .win w => ((mapGet? s.windows w).bind (fun x => mapGet? x.members vf)).isSome | .vf _ => false))
/-- WIN.PUB (R186): a release fence at `.sys` for every lane of the warp, then a strong store of a pair at `.sys` that follows them all (R270); the tasks of a wave become irrevocable first (R307). -/
def execWinPub (o : MOps) (s : State) : Host.Outcome State Fault Refusal :=
  s.onPath fun id b a p =>
    if !guardAlways o.g then .next (s.finish id b (.winPub o) a)
    else .next (s.irrevThen id b p.mask (s.softLanes a p.mask) (fun s a p =>
      let L := lowLane p.mask
      let accs := [(⟨L, globAddr s a o L, 8⟩ : Acc)]
      s.alignAll id b p accs (s.access id b a p needW accs (fun s locs =>
        match locs with
        | [] => s
        | x :: _ =>
          if !s.inWindow x.2 then s.raise id b p.pos (laneBit L) ⟨cXLAT, false, L, BitVec.ofNat 64 x.1.va⟩
          else if !s.writeSound [(x.2, 8)] (x.2, 8) then s.memint id b p [x]
          else
            let all := ((s.agent? (a.rootId id)).getD a).started
            let s0 := s.fenceLanes id a all (.release 3) [] []
            let s1 := ((s0.put { Ev.of (a.party id L) (.at 3) with follows := a.issuers id all s0.nextEv, op := some (id, s.nextId) } x.2
              (bytesOf (valC a o 2 0) 8)).clash a L x.2).publish a.vf
            match s1.agent? id with
            | none => s1
            | some a => s1.issueOp id b (.winPub o) a (opOf s1 b (p.flagOf o.fs) [] [] [])))))

/-- CB.INVAL (R187): the VF's cached ring descriptors, the one named or all, are dropped; the model keeps no copy of the other kinds. -/
def execCbInval (o : MOps) (s : State) : Host.Outcome State Fault Refusal :=
  s.onPath fun id b a p =>
    if !guardAlways o.g then .next (s.finish id b (.cbInval o) a)
    else
      let va := globAddr s a o 0
      let pasid := s.pasidOf a.vf a.ctx
      let hit := fun (x : Nat × Nat × Nat × List DWord) =>
        x.1 == a.vf && (o.mod.toNat % 4 == 3 || (o.mod.toNat % 4 == 1 && x.2.1 == pasid && x.2.2.1 == va))
      let s := { s with ringCache := s.ringCache.filter (fun x => !(hit x)) }
      .next (s.issueOp id b (.cbInval o) a (opOf s b (p.flagOf o.fs) [] [] []))

end Sys2Proof.Machine
end

