-- ==== Sys2Proof/Machine/EngineSteps.lean ====
section
/-! DEFINITION. Steps of the copy and stream engines: chunks, completion, follow-on hand-over (R177 to R185, R324). -/

namespace Sys2Proof.Machine

/-- Pieces of a range with what their translations meet. -/
abbrev Pieces := List (Acc × Xl)
/-- The location of each byte of a range; none where the translation has failed. -/
def Pieces.bytes (ps : Pieces) : List (Option Loc) :=
  ps.flatMap (fun x => (List.range x.1.n).map (fun k => match x.2 with | .ok l _ => some (l.add k) | _ => none))
/-- What pieces have to wait for: an answer, pages, or nothing. -/
inductive PieceWait where
  | ready
  | wait (s : State)

/-- Who a command is as a waiter. -/
def EngCmd.who (c : EngCmd) (cluster : Nat) (se : Bool) : Waiter := .eng cluster se c.id
/-- A range of a command's global addresses translated. -/
def State.engPieces (s : State) (c : EngCmd) (cluster : Nat) (se : Bool) (need : Need) (va n : Nat) : Pieces :=
  (rangeAccs 0 va n).map (fun x => (x, s.xlate (c.who cluster se) (clusterCaches cluster) c.vf (s.pasidOf c.vf c.ctx) x.va need))
/-- Translations to come are asked for; pages not present are waited for; otherwise the pieces are ready (R178, R352, R378). -/
def State.engReady (s : State) (c : EngCmd) (cluster : Nat) (se : Bool) (ps : Pieces) : PieceWait :=
  let who := c.who cluster se
  let pasid := s.pasidOf c.vf c.ctx
  let missing := ps.filter (fun x => x.2 == .miss)
  let absent := ps.filterMap (fun x => match x.2 with | .absent k => some (x.1, k) | _ => none)
  if s.pageHeld who then .wait s
  else if !missing.isEmpty then .wait (missing.foldl (fun s x => s.ask who (clusterCaches cluster) c.vf pasid (pageOf x.1.va) false) s)
  else if !absent.isEmpty then .wait ((s.pageEvent who c.vf pasid (pagesOf absent)).await who c.vf pasid (pagesOf absent))
  else if ps.any (fun x => match x.2 with | .ok l _ => s.heldLoc l | _ => false) then .wait s
  else .ready

/-- A failing element noted: the lowest-numbered stays (R178). -/
def EngCmd.note (c : EngCmd) (elem cause addr lane : Nat) : EngCmd :=
  match c.fail with
  | some (e, _) => if elem < e then { c with fail := some (elem, cause, addr, lane) } else c
  | none => { c with fail := some (elem, cause, addr, lane) }

/-- A read or a write of some of a command's bytes, each of which stands for itself (R177, R280). -/
def EngCmd.bytesEv (c : EngCmd) (a : Agent) (acc : Access) : Ev := { c.ev a 3 acc with sca := false }
/-- The key of the window that a binding names (R391). -/
def PeerBind.key (p : PeerBind) : Nat := 64 * p.dev + p.win
/-- A byte read by a CPY, or the cause and address of its failure (R178, R180, R386). -/
def State.cpyRead (s : State) (view : View) (c : EngCmd) (a : Agent) (sp : CpySpace) (peer : Nat) (va : Nat) (l : Option Loc) : Nat × Option (Nat × Nat) :=
  match sp with
  | .gm | .ring => if s.gmHit c.agent a (va % 2 ^ 32) 1 then (0, some (cMEMINT, va % 2 ^ 32)) else ((ofBytes (s.gmReadIn view c.agent a (va % 2 ^ 32) 1)), none)
  | .peer =>
    match mapGet? s.peers (64 * c.vf + peer) with
    | some x => if va % 2 ^ 64 < x.len then ((s.byteIn view (.peer x.key (va % 2 ^ 64))).toNat, none) else (0, some (cXLAT, va % 2 ^ 64))
    | none => (0, some (cXLAT, va % 2 ^ 64))
  | .glob =>
    match l with
    | none => (0, some (cXLAT, va % 2 ^ 64))
    | some l => if s.sound l 1 then ((s.byteIn view (.glob l)).toNat, none) else (0, some (cMEMINT, va % 2 ^ 64 / 256 * 256))
/-- Every byte of the 256-byte granule of an address is a destination of the CPY (R386). -/
def cpyCovers (dst rowb rows : Nat) (dstr : Int) (va : Nat) : Bool :=
  decide (256 ≤ rowb * rows) && (List.range 256).all (fun k => (List.range rows).any (fun r =>
    decide (wrapNat ((va / 256 * 256 + k : Nat) - ((dst : Int) + (r : Int) * dstr)) 64 < rowb)))
/-- Every byte of the 256-byte granule of an address is in an element of size sz that the command performs (R386). -/
def elemCovers (lanes : Mask) (elems : List (Nat × Nat × Nat)) (sz va : Nat) : Bool :=
  (List.range 256).all (fun k => elems.any (fun x =>
    lanes.getLsbD x.1 && x.2.1 % sz == 0 && decide (x.2.1 ≤ va / 256 * 256 + k) && decide (va / 256 * 256 + k < x.2.1 + sz)))
/-- The poison of a granule that a write covers is cleared (R386). -/
def State.clean (s : State) (l : Loc) : State := match l.granule? with | some g => s.renew g | none => s
/-- The first byte of a granule is written by a command that covers it (R386). -/
def State.cleanHead (s : State) (l : Loc) (covers : Unit → Bool) : State :=
  match l with
  | .dev d => if d % 256 = 0 && covers () then s.clean l else s
  | .host _ => s
/-- A byte written by a CPY, or the cause and address of its failure. -/
def State.cpyWrite (s : State) (c : EngCmd) (a : Agent) (sp : CpySpace) (peer : Nat) (va : Nat) (l : Option Loc) (covers : Nat → Bool) (v : Nat) : State × Option (Nat × Nat) :=
  let bs := [BitVec.ofNat 8 v]
  match sp with
  | .gm | .ring => (s.gmPut (c.bytesEv a .weak) c.agent a (va % 2 ^ 32) bs, none)
  | .peer =>
    match mapGet? s.peers (64 * c.vf + peer) with
    | some x =>
      if va % 2 ^ 64 < x.len then
        (((s.wrote (c.bytesEv a (.at 3)) [(.peer x.key (va % 2 ^ 64), BitVec.ofNat 8 v)]).spotPut (.peer x.key (va % 2 ^ 64)) (BitVec.ofNat 8 v)).emit (.peerWrite x.dev x.win (va % 2 ^ 64) bs), none)
      else (s, some (cXLAT, va % 2 ^ 64))
    | none => (s, some (cXLAT, va % 2 ^ 64))
  | .glob =>
    match l with
    | none => (s, some (cXLAT, va % 2 ^ 64))
    | some l =>
      if s.sound l 1 then ((s.cleanHead l (fun _ => covers (va % 2 ^ 64))).put (c.bytesEv a (s.accAt .weak l)) l bs, none)
      else if covers (va % 2 ^ 64) then
        ((s.clean l).put (c.bytesEv a (s.accAt .weak l)) l bs, none)
      else (s, some (cMEMINT, va % 2 ^ 64 / 256 * 256))

/-- A failing element of a command; its first integrity failure is reported to the VF, in one event (R386). -/
def State.engNote (s : State) (c : EngCmd) (elem cause addr lane : Nat) (l : Option Loc) : State × EngCmd :=
  let c' := c.note elem cause addr lane
  match l with
  | some l => if cause = cMEMINT ∧ c.told = false then (s.reportPoison c.vf l, { c' with told := true }) else (s, c')
  | none => (s, c')

/-- One row, or the part of it in this chunk, of a CPY; the answer says whether it was performed (R180). Where the manual says nothing (log 33), that part of a row is one access of each side for GM_OOR (R151), and a byte whose source and destination both fail names the source (R178). -/
def State.cpySegment (s : State) (cluster : Nat) (c : EngCmd) : State × EngCmd × Bool :=
  match c.op, s.agent? c.agent with
  | .cpy src dst rowb rows peer dsp ssp sstr dstr _, some a =>
    let r := c.i / rowb
    let b0 := c.i % rowb
    let n := min (rowb - b0) (4096 * c.paid - c.i)
    let rs : Option (State × EngCmd) :=
      if dsp = .ring ∧ c.slot = none then
        match s.ring? cluster (dst % 64) with
        | none => none
        | some g => g.reserve.map (fun x => ((s.note { c.ev a 2 (.acquire 1) with takes := g.rsvLinks }).setRing cluster (dst % 64) x.2, { c with slot := some x.1 }))
      else some (s, c)
    -- a ring that is no longer open, or is another's, fails the rest of the command (R174)
    let lostRing : Option Nat := if dsp = .ring then
        match s.ringSeen cluster (dst % 64) a.ringOwner with
        | none => some 0
        | some g => if g.owner = a.ringOwner then none else some g.desc.toNat
      else none
    match lostRing with
    | some d => (s, { (c.note c.i cRINGERR d 0) with i := rowb * rows, slot := none }, true)
    | none =>
    match rs with
    | none => (s, c, false)
    | some (s, c) =>
      let sva := wrapNat ((src : Int) + (r : Int) * sstr + (b0 : Int)) 64
      let dva := if dsp = .ring then c.slot.getD 0 + b0 else wrapNat ((dst : Int) + (r : Int) * dstr + (b0 : Int)) 64
      let ps := if ssp = .glob then s.engPieces c cluster false needR sva n else []
      let pd := if dsp = .glob then s.engPieces c cluster false needW dva n else []
      -- nothing is routed through a fenced link: a CPY to or from a peer waits for a route (R422)
      let routed := (ssp != .peer && dsp != .peer) || ((mapGet? s.peers (64 * c.vf + peer)).map (fun x => (s.linkTo x.dev).isSome)).getD true
      let filled := routed && (ssp != .gm || s.gmFilled a (sva % 2 ^ 32) n) && (dsp == .glob || dsp == .peer || s.gmFilled a (dva % 2 ^ 32) n)
      match s.engReady c cluster false (ps ++ pd) with
      | .wait s => (s, c, false)
      | .ready =>
        if !filled then (s, c, false)
        else
          let sl := ps.bytes
          let dl := pd.bytes
          let s := if ssp = .gm then s.gmCount c.agent a (sva % 2 ^ 32) n else s
          let s := if dsp = .gm ∨ dsp = .ring then s.gmCount c.agent a (dva % 2 ^ 32) n else s
          let from' := (sl.filterMap (fun l => l.bind (fun l => if s.sound l 1 then some (c.bytesEv a (s.accAt .weak l), [Spot.glob l]) else none)))
            ++ (if ssp = .gm then [(c.bytesEv a .weak, s.gmSpots c.agent a (sva % 2 ^ 32) n)] else [])
            ++ (match ssp, mapGet? s.peers (64 * c.vf + peer) with
              | .peer, some x => [(c.bytesEv a (.at 3), ((List.range n).filter (fun k => decide ((sva + k) % 2 ^ 64 < x.len))).map (fun k => Spot.peer x.key ((sva + k) % 2 ^ 64)))]
              | _, _ => [])
          let view := s.sight from'
          let s := view.1
          let x := (List.range n).foldl (fun (x : State × EngCmd) k =>
            let sk := (sl[k]?).getD none
            let dk := (dl[k]?).getD none
            match x.1.cpyRead view.2 c a ssp peer (sva + k) sk with
            | (_, some e) => x.1.engNote x.2 (c.i + k) e.1 e.2 0 sk
            | (v, none) =>
              match x.1.cpyWrite c a dsp peer (dva + k) dk (cpyCovers dst rowb rows dstr) v with
              | (s, none) => (s, x.2)
              | (s, some e) => s.engNote x.2 (c.i + k) e.1 e.2 0 dk) (s, c)
          let c2 := { x.2 with i := c.i + n }
          if dsp = .ring ∧ b0 + n = rowb then
            match c2.slot, x.1.ring? cluster (dst % 64) with
            | some q, some g =>
              (match g.post q with | some g' => (x.1.note { c.ev a 4 (.release 1) with gives := g.postLinks q }).setRing cluster (dst % 64) g' | none => x.1, { c2 with slot := none }, true)
            | _, _ => (x.1, { c2 with slot := none }, true)
          else (x.1, c2, true)
  | _, _ => (s, c, false)

/-- Segments of a CPY until its chunk ends or it must wait. -/
def State.cpyRun (s : State) (cluster : Nat) (c : EngCmd) (total : Nat) (went : Bool) : Nat → State × EngCmd × Bool
  | 0 => (s, c, went)
  | fuel + 1 =>
    if c.i ≥ total ∨ c.i ≥ 4096 * c.paid then (s, c, went)
    else match s.cpySegment cluster c with
      | (s, c, false) => (s, c, went)
      | (s, c, true) => s.cpyRun cluster c total true fuel

/-- The elements of a GATH or SCAT in the order in which they are performed: by rank for SCAT, so that the highest stays (R182). -/
def rankInsert (serial : Nat) (x : Nat × Nat × Nat) : List (Nat × Nat × Nat) → List (Nat × Nat × Nat)
  | [] => [x]
  | y :: r => if Config.scatRank serial x.1 ≤ Config.scatRank serial y.1 then x :: y :: r else y :: rankInsert serial x r

/-- Elements not yet performed of a GATH or SCAT: those whose page is waited for wait, the others are performed at once, and the pages found not present in this turn are one event (R182, R358, R364). -/
def State.elemRun (s : State) (cluster : Nat) (c : EngCmd) (gm : Bool) (sz : Nat) (need : Need) (elems : List (Nat × Nat × Nat))
    (perform : State → Agent → EngCmd → (Nat × Nat × Nat) → Option Loc → State × EngCmd) : State × EngCmd × Bool :=
  match s.agent? c.agent with
  | none => (s, { c with finished := true }, true)
  | some a =>
    let who := c.who cluster true
    let pasid := s.pasidOf c.vf c.ctx
    let todo := elems.filter (fun x => c.lanes.getLsbD x.1 && !(c.done.getLsbD x.1))
    let step (y : State × EngCmd × List (Acc × Need)) (x : Nat × Nat × Nat) : State × EngCmd × List (Acc × Need) :=
      let s := y.1
      let c := y.2.1
      let mark (c : EngCmd) : EngCmd := { c with done := c.done ||| laneBit x.1 }
      let failed (cause addr : Nat) (l : Option Loc) : State × EngCmd × List (Acc × Need) :=
        let z := s.engNote (mark c) x.1 cause addr x.1 l
        (z.1, { z.2 with bad := c.bad ||| laneBit x.1 }, y.2.2)
      if x.2.1 % sz ≠ 0 then failed cALIGN x.2.1 none
      else if gm then
        if s.gmFilled a x.2.1 sz && !need.w && s.gmHit c.agent a x.2.1 sz then failed cMEMINT x.2.1 none
        else if s.gmFilled a x.2.1 sz then
          let r := (s.gmCount c.agent a x.2.1 sz)
          let z := perform r a c x none
          (z.1, mark z.2, y.2.2)
        else (s, c, y.2.2)
      else if s.pageWaits who pasid (pageOf x.2.1) then y
      else match s.xlate who (clusterCaches cluster) c.vf pasid x.2.1 need with
        | .failed => failed cXLAT x.2.1 none
        | .miss => (s.ask who (clusterCaches cluster) c.vf pasid (pageOf x.2.1) false, c, y.2.2)
        | .absent k => (s, c, y.2.2 ++ [((⟨x.1, x.2.1, sz⟩ : Acc), k)])
        | .ok l _ =>
          if s.heldLoc l then (s, c, y.2.2)
          else if !s.sound l sz && !(need.w && elemCovers c.lanes elems sz x.2.1) then failed cMEMINT (x.2.1 / 256 * 256) (some l)
          else
            let z := perform (if !need.w then s else if s.sound l sz then s.cleanHead l (fun _ => elemCovers c.lanes elems sz x.2.1) else s.clean l) a c x (some l)
            (z.1, mark z.2, y.2.2)
    let y := todo.foldl step (s, c, [])
    let s1 := if y.2.2.isEmpty then y.1
      else (y.1.pageEvent who c.vf pasid (pagesOf y.2.2)).await who c.vf pasid (pagesOf y.2.2)
    let c1 := y.2.1
    let left := elems.any (fun x => c1.lanes.getLsbD x.1 && !(c1.done.getLsbD x.1))
    (s1, { c1 with finished := !left }, c1.done != c.done || !left)

/-- A GATH element lands: its lane's D will be written when the command completes (R181, R182). A command issued by a speculative task tracks no lines, where R286 and R309 do not say (log 33). -/
def gathPerform (cluster d sz : Nat) (s : State) (a : Agent) (c : EngCmd) (x : Nat × Nat × Nat) (l : Option Loc) : State × EngCmd :=
  let _ := cluster
  let view := s.sight [match l with | some l => (c.ev a 3 (s.accAt .weak l), l.spots sz) | none => (c.ev a 3 .weak, s.gmSpots c.agent a x.2.1 sz)]
  let v := ofBytes (match l with | some l => s.loadIn view.2 l sz | none => s.gmReadIn view.2 c.agent a x.2.1 sz)
  (view.1.modAgent c.agent (fun a => { a with ops := a.ops.map (fun op =>
    if op.id == c.opId then { op with writes := op.writes ++ laneWrites x.1 d (if sz = 8 then 2 else 1) v } else op) }), c)
/-- A SCAT element is written (R181). -/
def scatPerform (sz : Nat) (s : State) (a : Agent) (c : EngCmd) (x : Nat × Nat × Nat) (l : Option Loc) : State × EngCmd :=
  let bs := bytesOf x.2.2 sz
  match l with
  | some l => (s.put (c.ev a 3 (s.accAt .weak l)) l bs, c)
  | none => (s.gmPut (c.ev a 3 .weak) c.agent a x.2.1 bs, c)

/-- What one access of a walk meets (R185). -/
inductive WalkAcc where
  | ok (s : State) (l : Option Loc)
  | wait (s : State)
  | fail (s : State) (cause addr : Nat)

/-- A key read or written by a walk, whose writes have begun at an address; sure says that the walk's writes cover the granule (R386). -/
def State.walkAcc (s : State) (cluster : Nat) (c : EngCmd) (a : Agent) (gm : Bool) (need : Need) (start va : Nat) (sure : Nat → Bool) : WalkAcc :=
  if gm then (if s.gmFilled a va 4 then .ok (s.gmCount c.agent a va 4) none else .wait s)
  else
    let ps := s.engPieces c cluster true need va 4
    match s.engReady c cluster true ps with
    | .wait s => .wait s
    | .ready =>
      match ps with
      | (_, .ok l _) :: _ => if s.sound l 4 then .ok (if need.w && decide (va % 256 = 252) && decide (start ≤ va - 252) then s.clean l else s) (some l) else if sure va then .ok (s.clean l) (some l) else .fail (s.reportPoison c.vf l) cMEMINT (va / 256 * 256)
      | _ => .fail s cXLAT va

/-- The walk has ended: by its streams or by a failure (R184, R185). -/
def EngCmd.walkDone (c : EngCmd) : Bool :=
  match c.op with
  | .walk merge _ _ alen blen _ _ _ _ _ _ _ =>
    c.fail.isSome || (if merge then decide (c.i ≥ alen) && decide (c.j ≥ blen) else decide (c.i ≥ alen) || decide (c.j ≥ blen))
  | _ => true

/-- One step of a SISECT or SMERGE walk, which reads each key once (R266, R277); the answer says whether it went on (R184, R185). -/
def State.walkStep (s : State) (cluster : Nat) (c : EngCmd) (sure : Nat → Bool) : State × EngCmd × Bool :=
  match c.op, s.agent? c.agent with
  | .walk merge aadr badr alen blen keys dedup _ _ _ gm dst, some a =>
    let pa := (aadr + 4 * c.i) % 2 ^ 64
    let pb := (badr + 4 * c.j) % 2 ^ 64
    let failed (s : State) (cause addr : Nat) : State × EngCmd × Bool := (s, c.note 0 cause addr 0, true)
    let out (s : State) (k : Nat) (kept next : EngCmd) : State × EngCmd × Bool :=
      let va := if gm then (dst + 4 * c.n) % 2 ^ 32 else (dst + 4 * c.n) % 2 ^ 64
      match s.walkAcc cluster c a gm needW dst va sure with
      | .wait s => (s, kept, false)
      | .fail s cause addr => failed s cause addr
      | .ok s l => (match l with | some l => s.put (c.ev a 3 (s.accAt .weak l)) l (bytesOf k 4) | none => s.gmPut (c.ev a 3 .weak) c.agent a va (bytesOf k 4), next, true)
    let ra : WalkAcc := if c.i < alen ∧ c.keyA = none then s.walkAcc cluster c a false needR 0 pa (fun _ => false) else .ok s none
    match ra with
    | .wait s => (s, c, false)
    | .fail s cause addr => failed s cause addr
    | .ok s la =>
      let rb : WalkAcc := if c.j < blen ∧ c.keyB = none then s.walkAcc cluster c a false needR 0 pb (fun _ => false) else .ok s none
      match rb with
      | .wait s => (s, c, false)
      | .fail s cause addr => failed s cause addr
      | .ok s lb =>
        let v := s.sight ((la.toList ++ lb.toList).map (fun l => (c.ev a 3 (s.accAt .weak l), l.spots 4)))
        let key (l : Option Loc) (k : Option Nat) : Nat := match l with | some l => ofBytes (s.loadIn v.2 l 4) | none => k.getD 0
        let x := key la c.keyA
        let y := key lb c.keyB
        let s := v.1
        let c := { c with keyA := if c.i < alen then some x else none, keyB := if c.j < blen then some y else none }
        if merge then
          let fromA := decide (c.j ≥ blen) || (decide (c.i < alen) && decide (x ≤ y))
          let k := if fromA then x else y
          let next : EngCmd := if fromA then { c with i := c.i + 1, keyA := none, last := some k } else { c with j := c.j + 1, keyB := none, last := some k }
          if dedup && c.last == some k then (s, next, true) else out s k c { next with n := c.n + 1 }
        else if x < y then (s, { c with i := c.i + 1, keyA := none }, true)
        else if y < x then (s, { c with j := c.j + 1, keyB := none }, true)
        else
          let next : EngCmd := { c with i := c.i + 1, j := c.j + 1, keyA := none, keyB := none, n := c.n + 1 }
          if keys then out s x c next else (s, next, true)
  | _, _ => (s, c, false)

/-- Keys that a walk will have written at its end, as far as its streams can be read now. -/
def State.walkTotal (s : State) (cluster : Nat) (c : EngCmd) : Nat → Nat
  | 0 => c.n
  | fuel + 1 =>
    if c.walkDone then c.n
    else match s.walkStep cluster c (fun _ => true) with
      | (_, c, false) => c.n
      | (s, c, true) => s.walkTotal cluster c fuel
/-- The keys that a walk writes fill the granule of an address (R386). -/
def State.walkCovers (s : State) (cluster : Nat) (c : EngCmd) (va : Nat) : Bool :=
  match c.op with
  | .walk _ _ _ alen blen _ _ _ _ _ _ dst =>
    decide (dst ≤ va / 256 * 256) && decide (va / 256 * 256 + 256 ≤ dst + 4 * s.walkTotal cluster c (alen + blen + 1))
  | _ => false
/-- Steps of a walk until its chunk ends, it ends, or it must wait. -/
def State.walkRun (s : State) (cluster : Nat) (c : EngCmd) (went : Bool) : Nat → State × EngCmd × Bool
  | 0 => (s, c, went)
  | fuel + 1 =>
    if c.walkDone || decide (c.i + c.j ≥ 1024 * c.paid) then (s, c, went)
    else match s.walkStep cluster c (s.walkCovers cluster c) with
      | (s, c, false) => (s, c, went)
      | (s, c, true) => s.walkRun cluster c true fuel

/-- The result slot of a walk that has ended: reserved, written, posted (R184, R185). -/
def State.walkPost (s : State) (cluster : Nat) (c : EngCmd) : State × EngCmd × Bool :=
  match c.op, s.agent? c.agent with
  | .walk _ _ _ _ _ _ _ noring ring tag _ _, some a =>
    if noring then (s, { c with finished := true }, true)
    else match s.ringSeen cluster ring a.ringOwner with
      | none => (s, { (c.note 1 cRINGERR 0 0) with finished := true }, true)
      | some g =>
        if g.owner ≠ a.ringOwner then (s, { (c.note 1 cRINGERR g.desc.toNat 0) with finished := true }, true)
        else match g.reserve with
          | none => (s, c, false)
          | some (q, g1) =>
            let s := (s.note { c.ev a 2 (.acquire 1) with takes := g.rsvLinks }).gmPut (c.ev a 3 .weak) c.agent a (q % 2 ^ 32) (bytesOf (c.n % 2 ^ 32) 4 ++ bytesOf tag 4)
            ((s.note { c.ev a 4 (.release 1) with gives := g1.postLinks q }).setRing cluster ring ((g1.post q).getD g1), { c with finished := true }, true)
  | _, _ => (s, { c with finished := true }, true)

/-- The chunk at which a command stands. -/
def EngCmd.chunk (c : EngCmd) : Nat := match c.op with | .cpy .. => c.i / 4096 | .walk .. => (c.i + c.j) / 1024 | _ => 0
/-- A command has moved all that it moves in chunks. -/
def EngCmd.past (c : EngCmd) : Bool := match c.op with | .cpy _ _ rowb rows _ _ _ _ _ _ => decide (c.i ≥ rowb * rows) | .walk .. => c.walkDone | _ => false
/-- A chunk of the command is in progress: paid for, begun, and not at its end (R324, R397). -/
def EngCmd.inChunk (c : EngCmd) : Bool := c.begun && !c.finished && !c.past && decide (c.chunk < c.paid)
/-- The chunk at which a command stands is paid for (R320, R324). -/
def State.engPay (s : State) (cluster : Nat) (se : Bool) (c : EngCmd) : State × EngCmd × Bool :=
  if c.past || decide (c.chunk < c.paid) then (s, c, true)
  else
    let x := s.pay cluster c.quad c.vf (.eng se c.id) (if se then 40 else 32)
    if x.2 then (x.1, { c with paid := c.paid + 1 }, true) else (x.1, c, false)

/-- A command whose entry has a double-bit error performs nothing more, and fails with TADDR 0 (R178, R410). -/
def EngCmd.struck (c : EngCmd) : EngCmd := { c with finished := true, fail := some (0, cMEMINT, 0, 0), bad := c.lanes }
/-- One command tried for a chunk; the answer says whether it went on. -/
def State.engTry (s : State) (cluster : Nat) (se : Bool) (c : EngCmd) : State × Bool :=
  if s.cmdBad.contains c.id then (s.modEng cluster se c.id EngCmd.struck, true) else
  let p := s.engPay cluster se c
  if !p.2.2 then (p.1, false)
  else
    let c := { p.2.1 with begun := true }
    let s0 := if p.2.1.begun then p.1 else c.acquires p.1
    let y : State × EngCmd × Bool :=
      match c.op with
      | .cpy _ _ rowb rows _ _ _ _ _ _ =>
        let x := s0.cpyRun cluster c (rowb * rows) false 4097
        (x.1, { x.2.1 with finished := decide (x.2.1.i ≥ rowb * rows) }, x.2.2)
      | .gath gm log d elems => s0.elemRun cluster c gm (2 ^ log) needR (elems.map (fun e => (e.1, e.2, 0))) (gathPerform cluster d (2 ^ log))
      | .scat gm log serial elems => s0.elemRun cluster c gm (2 ^ log) needW (elems.foldl (fun l x => rankInsert serial x l) []) (scatPerform (2 ^ log))
      | .walk .. =>
        let x := s0.walkRun cluster c false 1025
        if x.2.1.walkDone then let z := x.1.walkPost cluster x.2.1; (z.1, z.2.1, x.2.2 || z.2.2) else x
    (y.1.modEng cluster se c.id (fun _ => y.2.1), y.2.2)

/-- Commands in the order in which the engine selects: priority, then age (R324). -/
def engInsert (c : EngCmd) : List EngCmd → List EngCmd
  | [] => [c]
  | d :: r => if d.prio < c.prio ∨ (d.prio = c.prio ∧ c.seq < d.seq) then c :: d :: r else d :: engInsert c r
/-- The first command that goes on. -/
def State.engFirst (s : State) (cluster : Nat) (se : Bool) : List EngCmd → State
  | [] => s
  | c :: r => let x := s.engTry cluster se c; if x.2 then x.1 else x.1.engFirst cluster se r

/-- A command may be selected: its context runs, or is halting with the command's chunk in progress; it is in its queue, and no earlier one of its context has still to come back there (R397, R406). -/
def State.engMay (s : State) (cluster : Nat) (se : Bool) (c : EngCmd) : Bool :=
  !c.finished && !c.out && (s.ctxRuns c.vf c.ctx || (s.ctxHalting c.vf c.ctx && c.inChunk)) && s.groupFilled c.agent
    && !((s.engQ cluster se).any (fun x => x.out && x.vf == c.vf && x.ctx == c.ctx && decide (x.seq < c.seq)))
/-- ENGINE_CHUNK (R178, R180 to R185, R324): the engine's next chunk. -/
def execEngineChunk (cluster : Nat) (se : Bool) (s : State) : Host.Outcome State Fault Refusal :=
  let q := (s.engQ cluster se).filter (fun c => s.engMay cluster se c)
  .next (s.engFirst cluster se (q.foldl (fun l c => engInsert c l) []))

/-- A command's failure is recorded, for GATH and SCAT against the lanes whose elements failed (R178, R306). -/
def State.engRecord (s : State) (c : EngCmd) : State :=
  match c.fail with
  | some (_, cause, addr, lane) =>
    let lanes := match c.op with | .gath .. => c.bad | .scat .. => c.bad | _ => c.lanes
    s.recordTrap c.agent c.flag c.seq cause addr lane lanes
  | none => s

/-- The command leaves its queue. -/
def State.engRemove (s : State) (cluster : Nat) (se : Bool) (c : EngCmd) : State :=
  (s.setEngQ cluster se ((s.engQ cluster se).filter (fun x => x.id != c.id))).forget (c.who cluster se)

/-- ENGINE_COMMAND_COMPLETE (R177, R178): a command that has performed all, and has no follow-on, records its failure, signals and leaves. -/
def execEngineCommandComplete (cluster : Nat) (se : Bool) (cmd : Nat) (s : State) : Host.Outcome State Fault Refusal :=
  match (s.engQ cluster se).find? (fun c => c.id == cmd) with
  | none => .next s
  | some c =>
    let follow := match c.op with | .cpy _ _ _ _ _ _ _ _ _ f => f.isSome | _ => false
    let filled := match s.agent? c.agent with | some a => a.opFilled c.opId | none => true
    if !c.finished || follow || s.ctxHalted c.vf c.ctx || !filled then .next s
    else .next ((((c.releases s).engRemove cluster se c).engRecord c).signalCmd c.agent c.opId false fNone)

/-- The follow-on of a CPY has been paid for: one more draw than its chunks (R318). -/
def EngCmd.followPaid (c : EngCmd) : Bool := decide (c.paid > max c.op.chunks 1)
/-- FOLLOW_ON_HANDOVER (R180, R219, R225, R318): the follow-on is paid for at the CPY's last chunk boundary; then, once its queue has an entry for it, its ring is checked again and it enters the queue. -/
def execFollowOnHandover (cluster cmd : Nat) (s : State) : Host.Outcome State Fault Refusal :=
  match (s.engQ cluster false).find? (fun c => c.id == cmd) with
  | none => .next s
  | some c =>
    match c.op, s.agent? c.agent with
    | .cpy _ _ _ _ _ _ _ _ _ (some (m, quad)), some a =>
      if !c.finished || c.handed || !s.ctxRuns c.vf c.ctx then .next s
      else
        let x := if c.followPaid then (s, true) else s.pay cluster quad c.vf (.eng false c.id) (muPrice m.op)
        let paid := x.1.modEng cluster false cmd (fun c => { c with paid := max c.op.chunks 1 + 1 })
        if !x.2 then .next x.1
        else if !s.muRoom cluster quad c.vf c.ctx then .next paid
        else
          let bad : Option (Nat × Nat) := match m.op with
            | .mma _ pr _ _ f _ _ true _ aadr ast _ _ mv k _ _ =>
              (s.muRing a.muCtx (aadr % 64) ((mv - 1) * ast + rowBytes f pr k)).map (fun d => (cRINGERR, d.toNat))
            | _ => none
          let s1 := ((c.releases paid).modEng cluster false cmd (fun c => { c with handed := true })).engRecord c
          .next (s1.modMu (muKey cluster quad c.vf c.ctx) (fun u => { u with queue := u.queue ++ [{ m with id := c.id, fail := bad, seq := s.nextId }] }))
    | _, _ => .next s

end Sys2Proof.Machine
end

