-- ==== Sys2Proof/Machine/Fragments.lean ====
section
/-! DEFINITION. Fragments: start, pulls, pushes, merge, and their barrier and exit messages (R250 to R258). -/

namespace Sys2Proof.Machine

/-- A granule has a bad row for some of the lanes (R409). -/
def Agent.badRows (a : Agent) (g : Nat) (m : Mask) : Bool := (granuleRegs g).any (fun r => (mapGetD a.bad r 0 &&& m) != 0)
/-- A granule is bad, where a transfer reads it, for some of the lanes (R64, R409). -/
def Agent.badIn (a : Agent) (g : Nat) (m : Mask) : Bool := (granuleRegs g).any (fun r => (a.rowBad r &&& m) != 0)
/-- A granule marked bad, or sound, for lanes: its rows, and the copies of those that are staged. -/
def Agent.setBad (a : Agent) (g : Nat) (m : Mask) (b : Bool) : Agent :=
  let st := a.staged
  (granuleRegs g).foldl (fun a r =>
    let a := a.soundRow r m
    if b then { a with bad := mapPut 0 a.bad r (mapGetD a.bad r 0 ||| m), stgPar := if st.contains r then mapPut 0 a.stgPar r (mapGetD a.stgPar r 0 ||| m) else a.stgPar } else a) a
/-- Registers of a granule copied for lanes; a transfer that reads a bad row marks the destination granule poisoned (R409). -/
def Agent.copyGranule (dst src : Agent) (g : Nat) (m : Mask) : Agent :=
  let d := (lanesOf m).foldl (fun d L => (granuleRegs g).foldl (fun d r => d.setV r L (src.v r L)) d) dst
  if !dst.marked && !src.marked then d else d.setBad g m (src.badIn g m)
/-- The fragment's parent and the fragment. -/
def State.withFrag (s : State) (frag : Nat) (k : Agent → Nat → Agent → Host.Outcome State Fault Refusal) : Host.Outcome State Fault Refusal :=
  match s.agent? frag with
  | none => .next s
  | some f =>
    match f.kind with
    | .frag p _ _ => (match s.agent? p with | some a => k f p a | none => .next s)
    | _ => .next s

/-- FRAGMENT_START (R195, R250): the export has arrived, and the fragment may issue. -/
def execFragmentStart (frag : Nat) (s : State) : Host.Outcome State Fault Refusal :=
  match s.takeMsg (fun m => m == .start frag) with
  | some (_, s) => .next (s.modAgent frag (fun f => { f with begun := true }))
  | none => .next s

/-- PULL_REQUEST (R251): the request reaches the quadrant, which sends the granules asked for once the parent's own outstanding writes to them are there. -/
def execPullRequest (frag : Nat) (s : State) : Host.Outcome State Fault Refusal :=
  let s1 := match s.takeMsg (fun m => match m with | .pullReq x _ => x == frag | _ => false) with
    | some (.pullReq x gs, s) => s.modAgent x (fun f => { f with asked := gs.foldl insertNat f.asked })
    | _ => s
  s1.withFrag frag fun f _ a =>
    let gs := f.asked.filter a.settled
    if gs.isEmpty then .next s1
    else .next ((s1.setAgent frag { f with asked := f.asked.filter (fun g => !(gs.contains g)) }).sendDown f (.pullResp frag gs))

/-- A granule brought to a fragment: clean where it was absent (R251, R252). What a halt has spilt of it is out of date, and no fill brings it back (R256, R407). -/
def State.bringGranule (s : State) (frag : Nat) (f a : Agent) (g : Nat) : State :=
  if f.granule g = .absent then
    let f1 := (f.copyGranule a g f.live).setGranule g .clean
    s.setAgent frag { f1 with unfilled := f1.unfilled.filter (fun x => x != g), saved := f1.saved.filter (fun x => x != g) }
  else s
/-- Granules that have arrived at a fragment. -/
def State.bringGranules (s : State) (frag : Nat) (gs : List Nat) : State :=
  gs.foldl (fun s g => match s.agent? frag with
    | some f => (match f.kind with
      | .frag p _ _ => (match s.agent? p with | some a => s.bringGranule frag f a g | none => s)
      | _ => s)
    | none => s) s

/-- PULL_RESPONSE (R251). -/
def execPullResponse (frag : Nat) (s : State) : Host.Outcome State Fault Refusal :=
  match s.takeMsg (fun m => match m with | .pullResp x _ => x == frag | _ => false) with
  | some (.pullResp _ gs, s) => .next (s.bringGranules frag gs)
  | _ => .next s

/-- PUSH (R252): a granule that the parent is about to write, for the fragment's lanes. -/
def execPush (frag granule : Nat) (s : State) : Host.Outcome State Fault Refusal :=
  match s.takeMsg (fun m => m == .push frag granule) with
  | some (_, s) => .next (s.bringGranules frag [granule])
  | none => .next s

/-- The fragment's first path stands at the parent's r (R190, R196). -/
def Agent.atJoin (f : Agent) (b : Bool) : Bool :=
  match f.kind, (f.slot b).path with
  | .frag _ _ r, some p => (f.slot b).wait == .none && (match p.jix with | .parent _ => true | _ => false) && p.phase == .header && p.pos.ix == 0 && p.pos.hdr == r
  | _, _ => false
/-- The fragment has arrived, or all of its lanes have exited (R196, R253). -/
def Agent.fragEnded (f : Agent) : Bool :=
  ((f.atJoin false && f.slotB.path.isNone) || (f.atJoin true && f.slotA.path.isNone) || (f.slotA.path.isNone && f.slotB.path.isNone))
    && f.stack.all (fun e => e.kind == .retired)

/-- Predicates of lanes that come with a merge. -/
def Agent.mergePreds (a f : Agent) (m : Mask) : Agent := (List.range 8).foldl (fun a k => a.setP k m (f.p k)) a

/-- A message from a fragment to its quadrant has still to be delivered. -/
def State.upstream (s : State) (f : Agent) : Bool :=
  (mapGetD s.saddle f.cluster []).any (fun m => m.src == f.core.port && m.dst == s.muQuad f && (match m.msg with | .matrix _ _ _ _ h => !h | _ => true))

/-- MERGE (R44, R53, R253): with its flags clear and its traps taken, the fragment returns its dirty granules and predicates, behind the messages that it has sent (R250, R258); PEND falls, and its contexts are free. A trap recorded for a fragment all of whose lanes have exited finds no path to take it, and goes with the fragment (log 33). -/
def execMerge (frag : Nat) (s : State) : Host.Outcome State Fault Refusal :=
  s.withFrag frag fun f p a =>
    let lanes := f.live
    if f.faulted || f.halted || !f.fragEnded || !f.flags.isEmpty || !f.ops.isEmpty || (!f.traps.isEmpty && f.handler.isNone && lanes != 0) || s.upstream f then .next s
    else
      let dirty := (f.granules.filter (fun x => x.2 == .dirty)).map (fun x => x.1)
      if dirty.any (fun g => a.unfilled.contains g || f.unfilled.contains g) then .next s else
      let a1 := dirty.foldl (fun a g => a.copyGranule f g lanes) a
      let a2 := (a1.mergePreds f lanes).raise (f.fpc.zeroExtend 7)
      match f.kind with
      | .frag _ j _ =>
        let s1 : State := { s with agents := mapErase s.agents frag }
        .next ((s1.settle p (a2.endPath (.own j))).overHandler p)
      | _ => .next s

/-- The wait of a BAR whose arrival has been recorded: for the generation that was open then (R257). -/
def Wait.arrived (w : Wait) (tok gen : Nat) : Wait := match w with | .barSent b t => if t = tok then .bar b gen else w | w => w
/-- BARRIER_ARRIVAL (R168, R257): a fragment's arrival is recorded at the barrier unit; the path of a BAR waits for the generation in which its lanes have arrived. -/
def execBarrierArrival (frag : Nat) (s : State) : Host.Outcome State Fault Refusal :=
  match s.takeMsg (fun m => match m with | .barArrive x _ _ _ _ _ _ => x == frag | _ => false) with
  | some (.barArrive x g w b lanes tok stamp, s) =>
    match mapGet? s.groups g with
    | none => .next s
    | some gr =>
      let new := lanes &&& ~~~(gr.here b w)
      let s1 := match tok with
        | some t => s.modAgent x (fun f => f.mapWaits (fun y => y.arrived t (gr.bar b).gen))
        | none => s
      let s2 := match s.agent? x with
        | some a => s1.note { Ev.link [] [.bar g b (gr.bar b).gen] [] with follows := a.issuers x new stamp }
        | none => s1
      .next (if new = 0 then s1 else s2.atBarrier g (fun y => y.arrive b w new))
  | _ => .next s

/-- Lanes whose BAR.ARV waited for a generation that has completed. -/
def Wait.late (w : Wait) (b gen : Nat) : Mask := match w with | .barArv k n l => if k = b ∧ n ≤ gen then l else 0 | _ => 0
/-- A BAR waits for a generation that has completed; the lanes of a slot in which one does. -/
def Wait.isBar (w : Wait) (b gen : Nat) : Bool := match w with | .bar k n => k == b && decide (n ≤ gen) | _ => false
def Slot.here (x : Slot) (b gen : Nat) : Mask := match x.path with | some p => if x.wait.isBar b gen then p.mask else 0 | none => 0
/-- BARRIER_COMPLETION (R257): a fragment learns that a generation has completed; lanes of a waiting BAR.ARV then arrive in the next. A halted fragment keeps its wait, which its control record states, and learns it again when it resumes (R170, R405, R408). -/
def execBarrierCompletion (frag : Nat) (s : State) : Host.Outcome State Fault Refusal :=
  match s.takeMsg (fun m => match m with | .barDone x _ _ => x == frag | _ => false) with
  | some (.barDone x b gen, s) =>
    match s.agent? x with
    | none => .next s
    | some f =>
      if f.halted then .next s else
      let lanes := f.slotA.wait.late b gen ||| f.slotB.wait.late b gen ||| f.stack.foldl (fun m e => m ||| e.wait.late b gen) 0
      let s1 := s.setAgent x (f.mapWaits (fun y => if y.overBar b gen then .none else y))
      let here := f.slotA.here b gen ||| f.slotB.here b gen ||| f.stack.foldl (fun m e => if e.wait.isBar b gen then m ||| e.mask else m) 0
      .next (match f.group with
        | some g =>
          let s2 := s1.fenceLanes x f here (.acquire 1) [] [.bar g b gen]
          let s3 := s2.fenceLanes x f lanes (.release 1) [] []
          if lanes = 0 then s2 else s3.sendUp f (.barArrive x g f.warp b lanes none s3.nextEv)
        | none => s1)
  | _ => .next s

/-- FRAGMENT_EXIT_MESSAGE (R168, R257): exited lanes leave E and lose their arrivals. -/
def execFragmentExitMessage (frag : Nat) (s : State) : Host.Outcome State Fault Refusal :=
  match s.takeMsg (fun m => match m with | .fragExit x _ _ _ => x == frag | _ => false) with
  | some (.fragExit _ g w lanes, s) => .next (s.atBarrier g (fun x => x.exit w lanes))
  | _ => .next s

end Sys2Proof.Machine
end

