-- ==== Sys2Proof/Machine/GroupMem.lean ====
section
/-! DEFINITION. Group-memory loads and stores, plain and through a tensor layout word (R67, R151, R152, R161, R162, R292, R309). -/

namespace Sys2Proof.Machine

/-- Bytes and registers of a size code (R161). -/
def gmSize (o : MOps) : Nat := match o.mod.toNat / 32 with | 0 | 1 => 1 | 2 | 3 => 2 | 4 => 4 | 5 => 8 | _ => 16
def gmRegCount (o : MOps) : Nat := match o.mod.toNat / 32 with | 5 => 2 | 6 => 4 | _ => 1
/-- Extension of a loaded value. -/
def gmExt (o : MOps) (x : Nat) : Nat := match o.mod.toNat / 32 with | 1 => sextReg 8 x | 3 => sextReg 16 x | _ => x
/-- Strength and order of a group-memory access; its scope is `.grp` (R90, R153). -/
def gmAcc (o : MOps) (isStore : Bool) : Access := orderOf (o.mod.toNat / 8 % 4) 1 isStore

/-- Bytes at a group-memory address; an address beyond 2^20 of a layout word is out of range (R162). -/
def State.gmGet (s : State) (v : View) (id : Nat) (a : Agent) (k : Option Nat) (n : Nat) : List Byte :=
  match k with | some k => s.gmReadIn v id a k n | none => List.replicate n 0
/-- One access counted when it is out of range. -/
def State.gmTally (s : State) (id : Nat) (a : Agent) (k : Option Nat) (n : Nat) : State :=
  s.gmCount id a (k.getD (2 ^ 32 - 1)) n

/-- A group-memory load: addr answers the logical address, for ALIGN, and where it lies. A speculative task waits (R309). -/
def gmLoadOp (i : Instr) (o : MOps) (addr : State → Agent → Nat → Nat × Option Nat) (s : State) : Host.Outcome State Fault Refusal :=
  s.onPath fun id b a p =>
    let act := a.active p o.g
    let n := gmSize o
    if act = 0 then .next (s.finish id b i a)
    else
      let ls := lanesOf act
      .next (s.alignAll id b p (ls.map (fun L => ⟨L, (addr s a L).1, n⟩)) (
        if s.specLanes a act ≠ 0 then s
        else if ls.any (fun L => match (addr s a L).2 with | some k => !s.gmFilled a k n | none => false) then s
        else
          let hit := ls.filterMap (fun L => ((addr s a L).2.filter (fun k => s.gmHit id a k n)).map (fun k => (L, k)))
          if !hit.isEmpty then s.gmInt id b p hit
          else
          let v := s.sight (ls.filterMap (fun L => (addr s a L).2.map (fun k => s.laneRead id a L .gm (gmAcc o false) k (s.gmSpots id a k n))))
          let rs := ls.map (fun L =>
            let k := (addr s a L).2
            (L, gmExt o (ofBytes (s.readLane id a L .gm (k.getD (2 ^ 32)) (s.gmGet v.2 id a k n)))))
          let s1 := ls.foldl (fun s L => s.gmTally id a (addr s a L).2 n) v.1
          s1.finish id b i (rs.foldl (fun x r => x.setVN o.d.toNat r.1 (gmRegCount o) r.2) (a.account s i))))

/-- The buffer entry of a group-memory store; its bytes that lie out of range are discarded when they are read or performed (R151, R305). -/
def gmEntry (c : Access) (addr : Nat × Option Nat) (bs : List Byte) : BufEntry := storeEntry .gm c (addr.2.getD addr.1) bs (.dev 0)
/-- A group-memory store (R154, R157, R161). -/
def gmStoreOp (i : Instr) (o : MOps) (addr : State → Agent → Nat → Nat × Option Nat) (s : State) : Host.Outcome State Fault Refusal :=
  s.onPath fun id b a p =>
    let act := a.active p o.g
    let n := gmSize o
    if act = 0 then .next (s.finish id b i a)
    else
      let full := s.overflow a act (fun L => gmEntry (gmAcc o true) (addr s a L) [0])
      .next (s.irrevThen id b act full (fun s a p =>
        let ls := lanesOf (a.active p o.g)
        s.alignAll id b p (ls.map (fun L => ⟨L, (addr s a L).1, n⟩)) (
          if ls.any (fun L => match (addr s a L).2 with | some k => !s.gmFilled a k n | none => false) then s
          else
            let soft := s.softLanes a (a.active p o.g)
            let s1 := ls.foldl (fun s L =>
              let bs := storeBytes a o n (gmRegCount o) L
              let s := s.gmTally id a (addr s a L).2 n
              if soft.getLsbD L then s.bufferLane a L (gmEntry (gmAcc o true) (addr s a L) bs)
              else match (addr s a L).2 with
              | none => s
              | some k => s.gmPut (Ev.of (a.party id L) (gmAcc o true)) id a k bs) s
            s1.finish id b i (a.account s i))))

def plainAddr (o : MOps) (s : State) (a : Agent) (L : Nat) : Nat × Option Nat := let k := gmAddr s a o L; (k, some k)
/-- LD of group memory (R161). -/
def execLdGm (o : MOps) (s : State) : Host.Outcome State Fault Refusal := gmLoadOp (.ldGm o) o (plainAddr o) s
/-- ST of group memory (R161). -/
def execStGm (o : MOps) (s : State) : Host.Outcome State Fault Refusal := gmStoreOp (.stGm o) o (plainAddr o) s

/-- The 96 bits of a tensor layout word (R67). -/
def layoutWord (a : Agent) (r : Nat) : Nat := a.sN r 3
/-- Bits of a moved by the PERM mapping (R67). -/
def layPerm (perm a : Nat) : Nat :=
  let mix (lo n from' : Nat) : Nat := a - 2 ^ lo * field a lo n + 2 ^ lo * (field a lo n ^^^ field a from' n)
  match perm with
  | 1 => mix 4 3 7
  | 2 => mix 4 3 8
  | 3 => mix 4 3 9
  | 4 => mix 4 4 8
  | _ => a
/-- A layout word that an instruction of a size may consume (R67, R162). -/
def layoutOk (w size : Nat) : Bool :=
  field w 87 9 == 0 && decide (field w 84 3 ≤ 4) && decide (field w 80 4 ≤ 4)
    && (match size with | 0 | 1 => field w 84 3 == 0 | 2 | 3 => field w 84 3 == 1 | k => decide (field w 84 3 + 2 = k))
/-- The address of a lane's element, logical and physical (R162). -/
def layAddr (o : MOps) (_ : State) (a : Agent) (L : Nat) : Nat × Option Nat :=
  match o.a, o.b with
  | .scal r, .vec v =>
    let w := layoutWord a r.toNat
    let c01 := (a.v v.toNat L).toNat
    let c23 := (a.v (v.toNat + 1) L).toNat
    let k := field w 0 20 + (c01 % 2 ^ 16) * 2 ^ field w 84 3 + (c01 / 2 ^ 16) * field w 20 20
      + (c23 % 2 ^ 16) * field w 40 20 + (c23 / 2 ^ 16) * field w 60 20
    (k, if k ≥ 2 ^ 20 then none else some (layPerm (field w 80 4) k))
  | _, _ => (0, none)

/-- The layout word is checked at issue (R162). -/
def layGuard (o : MOps) (k : Host.Outcome State Fault Refusal) (s : State) : Host.Outcome State Fault Refusal :=
  s.onPath fun id b a p =>
    let act := a.active p o.g
    let ok := match o.a with | .scal r => layoutOk (layoutWord a r.toNat) (o.mod.toNat / 32) | _ => false
    if act ≠ 0 ∧ ok = false then .next (s.illop id b p act) else k
/-- LDL (R162). -/
def execLdl (o : MOps) (s : State) : Host.Outcome State Fault Refusal := layGuard o (gmLoadOp (.ldl o) o (layAddr o) s) s
/-- STL (R162). -/
def execStl (o : MOps) (s : State) : Host.Outcome State Fault Refusal := layGuard o (gmStoreOp (.stl o) o (layAddr o) s) s

end Sys2Proof.Machine
end

