-- ==== Sys2Proof/Machine/IntAlu.lean ====
section
/-! DEFINITION. Integer arithmetic (R116, R117). -/

namespace Sys2Proof.Machine

/-- Truncating division by R116 and R117: by zero all ones. -/
def divTrunc (f : Fmt) (a b : Int) : Int := if b = 0 then (if fmtSigned f then -1 else intMax f) else a.tdiv b
/-- Remainder with the sign of A; by zero A (R117). -/
def remTrunc (a b : Int) : Int := if b = 0 then a else a.tmod b
/-- Element j of w bits of a 32-bit code, signed or unsigned by the type. -/
def subElem (f : Fmt) (w j c : Nat) : Int := if fmtSigned f then sextNat (c / 2 ^ (w * j)) w else ((c / 2 ^ (w * j)) % 2 ^ w : Nat)
/-- floor(A * B / 2^n). -/
def mulHigh (f : Fmt) (a b : Int) : Int := a * b / (2 ^ fmtWidth f : Nat)
/-- The dot product of k elements of w bits. -/
def dotElems (f : Fmt) (w k x y : Nat) : Int := ((List.range k).map (fun j => subElem f w j x * subElem f w j y)).foldl (· + ·) 0

/-- A + B, of the M and the short forms. -/
def addIntOp (i : Instr) (o : MOps) (s : State) : Host.Outcome State Fault Refusal := intOp i o (fun s a L => intA s a o L + intB s a o L) s
def subIntOp (i : Instr) (o : MOps) (s : State) : Host.Outcome State Fault Refusal := intOp i o (fun s a L => intA s a o L - intB s a o L) s

/-- ADD (R116). -/
def execAddInt (o : MOps) (s : State) : Host.Outcome State Fault Refusal := addIntOp (.addInt o) o s
/-- SUB (R116). -/
def execSubInt (o : MOps) (s : State) : Host.Outcome State Fault Refusal := subIntOp (.subInt o) o s
/-- MUL (R116). -/
def execMulInt (o : MOps) (s : State) : Host.Outcome State Fault Refusal := intOp (.mulInt o) o (fun s a L => intA s a o L * intB s a o L) s
/-- MULHI: bits [2n-1:n] of the exact product (R116). -/
def execMulhi (o : MOps) (s : State) : Host.Outcome State Fault Refusal := intOp (.mulhi o) o (fun s a L => mulHigh (tyOf o) (intA s a o L) (intB s a o L)) s
/-- MAD (R116). -/
def execMad (o : MOps) (s : State) : Host.Outcome State Fault Refusal := intOp (.mad o) o (fun s a L => intA s a o L * intB s a o L + intC a o L) s
/-- MADHI (R116). -/
def execMadhi (o : MOps) (s : State) : Host.Outcome State Fault Refusal := intOp (.madhi o) o (fun s a L => mulHigh (tyOf o) (intA s a o L) (intB s a o L) + intC a o L) s
/-- DIV (R116, R117). -/
def execDivInt (o : MOps) (s : State) : Host.Outcome State Fault Refusal := intOp (.divInt o) o (fun s a L => divTrunc (tyOf o) (intA s a o L) (intB s a o L)) s
/-- REM (R116, R117). -/
def execRem (o : MOps) (s : State) : Host.Outcome State Fault Refusal := intOp (.rem o) o (fun s a L => remTrunc (intA s a o L) (intB s a o L)) s
/-- MIN (R116). -/
def execMinInt (o : MOps) (s : State) : Host.Outcome State Fault Refusal := intOp (.minInt o) o (fun s a L => min (intA s a o L) (intB s a o L)) s
/-- MAX (R116). -/
def execMaxInt (o : MOps) (s : State) : Host.Outcome State Fault Refusal := intOp (.maxInt o) o (fun s a L => max (intA s a o L) (intB s a o L)) s
/-- ABS (R116, R117). -/
def execAbsInt (o : MOps) (s : State) : Host.Outcome State Fault Refusal := intOp (.absInt o) o (fun s a L => ((intA s a o L).natAbs : Int)) s
/-- NEG (R116, R117). -/
def execNegInt (o : MOps) (s : State) : Host.Outcome State Fault Refusal := intOp (.negInt o) o (fun s a L => -(intA s a o L)) s
/-- SAD: |A - B| exact, plus C (R116). -/
def execSad (o : MOps) (s : State) : Host.Outcome State Fault Refusal := intOp (.sad o) o (fun s a L => ((intA s a o L - intB s a o L).natAbs : Int) + intC a o L) s
/-- DP4 (R116). -/
def execDp4 (o : MOps) (s : State) : Host.Outcome State Fault Refusal :=
  intOp (.dp4 o) o (fun s a L => intC a o L + dotElems (tyOf o) 8 4 (valA s a o (intTy o) L) (valB s a o (intTy o) L)) s
/-- DP2 (R116). -/
def execDp2 (o : MOps) (s : State) : Host.Outcome State Fault Refusal :=
  intOp (.dp2 o) o (fun s a L => intC a o L + dotElems (tyOf o) 16 2 (valA s a o (intTy o) L) (valB s a o (intTy o) L)) s
/-- LEA: A + ext(B) * 2^sh, with B of 32 bits (R117). -/
def execLea (o : MOps) (s : State) : Host.Outcome State Fault Refusal :=
  intOp (.lea o) o (fun s a L =>
    let x := valB s a o (.bits 1) L
    ((valA s a o (.bits 2) L : Nat) : Int) + (if tyOf o = I64 then sextNat x 32 else (x : Int)) * (2 ^ o.c.toNat : Nat)) s
/-- ADD.I32 vD, vA, imm (R93). -/
def execAddI32SImm (o : SOps) (s : State) : Host.Outcome State Fault Refusal := addIntOp (.addI32SImm o) (shortOps (.addI32SImm o)) s
/-- ADD.I32 vD, vD, vA (R93). -/
def execAddI32S (o : SOps) (s : State) : Host.Outcome State Fault Refusal := addIntOp (.addI32S o) (shortOps (.addI32S o)) s
/-- SUB.I32 vD, vD, vA (R93). -/
def execSubI32S (o : SOps) (s : State) : Host.Outcome State Fault Refusal := subIntOp (.subI32S o) (shortOps (.subI32S o)) s

end Sys2Proof.Machine
end

