-- ==== Sys2Proof/Machine/LogicAlu.lean ====
section
/-! DEFINITION. Logic, shifts and bit fields (R118, R119). -/

namespace Sys2Proof.Machine

/-- All ones of n bits. -/
def onesN (n : Nat) : Nat := 2 ^ n - 1
/-- Shift left; a count of n or more gives 0 (R118). -/
def shlN (n x c : Nat) : Nat := if c ≥ n then 0 else (x * 2 ^ c) % 2 ^ n
/-- Shift right, logical or arithmetic by the type (R118). -/
def shrN (f : Fmt) (x c : Nat) : Nat :=
  let n := fmtWidth f
  if fmtSigned f then wrapNat (sextNat x n / (2 ^ (if c ≥ n then n else c) : Nat)) n else if c ≥ n then 0 else x / 2 ^ c
/-- Rotate left (R118). -/
def rotN (n x c : Nat) : Nat := let k := c % n; (x * 2 ^ k) % 2 ^ n + x / 2 ^ (n - k)
/-- Number of set bits below bit n. -/
def popN (n x : Nat) : Nat := ((List.range n).filter (fun i => x.testBit i)).length
/-- Leading zero bits (R118). -/
def clzN (n x : Nat) : Nat := if x = 0 then n else n - 1 - Nat.log2 x
/-- A number from its bits. -/
def bitsN (n : Nat) (f : Nat → Bool) : Nat := (List.range n).foldl (fun x i => if f i then x + 2 ^ i else x) 0
/-- The three-input bit function (R118). -/
def bitfN (n lut x y z : Nat) : Nat :=
  bitsN n (fun i => lut.testBit ((if x.testBit i then 4 else 0) + (if y.testBit i then 2 else 0) + (if z.testBit i then 1 else 0)))
/-- Bit-field extract (R118, R119). -/
def bfeN (f : Fmt) (x b : Nat) : Nat :=
  let n := fmtWidth f
  let pos := b % 256
  let len := min ((b / 256) % 256) n
  if len = 0 then 0
  else if fmtSigned f then wrapNat (sextNat (wrapNat (sextNat x n / (2 ^ pos : Nat)) len) len) n
  else (x / 2 ^ pos) % 2 ^ len
/-- Bit-field insert (R118, R119). -/
def bfiN (n x y c : Nat) : Nat :=
  let pos := c % 256
  let len := (c / 256) % 256
  bitsN n (fun i => if decide (pos ≤ i) && decide (i < pos + len) then y.testBit (i - pos) else x.testBit i)
/-- Byte permute (R118). -/
def prmbN (x y c : Nat) : Nat :=
  let v := y * 2 ^ 32 + x
  ((List.range 4).map (fun i =>
    let k := (c / 16 ^ i) % 16
    (if k ≥ 8 then 0 else (v / 256 ^ k) % 256) * 256 ^ i)).foldl (· + ·) 0
/-- Funnel shift (R118). -/
def shfN (x y c : Nat) : Nat := ((y * 2 ^ 32 + x) / 2 ^ (c % 64)) % 2 ^ 32

/-- Width of the type. -/
def wOf (o : MOps) : Nat := fmtWidth (tyOf o)

/-- A bitwise function of A and B. -/
def logic2 (i : Instr) (o : MOps) (f : Nat → Nat → Nat) (s : State) : Host.Outcome State Fault Refusal :=
  bitsOp i o (tyRegs o) (fun s a L => f (valA s a o (intTy o) L) (valB s a o (intTy o) L)) s
/-- A shift: the count is a 32-bit operand for every type (R118). -/
def shiftOp (i : Instr) (o : MOps) (f : Nat → Nat → Nat) (s : State) : Host.Outcome State Fault Refusal :=
  bitsOp i o (tyRegs o) (fun s a L => f (valA s a o (intTy o) L) (valB s a o (.bits 1) L)) s
/-- A function of A alone. -/
def logic1 (i : Instr) (o : MOps) (n : Nat) (f : Nat → Nat) (s : State) : Host.Outcome State Fault Refusal :=
  bitsOp i o n (fun s a L => f (valA s a o (intTy o) L)) s

def andOp (i : Instr) (o : MOps) (s : State) : Host.Outcome State Fault Refusal := logic2 i o (fun x y => x &&& y) s
def orOp (i : Instr) (o : MOps) (s : State) : Host.Outcome State Fault Refusal := logic2 i o (fun x y => x ||| y) s
def xorOp (i : Instr) (o : MOps) (s : State) : Host.Outcome State Fault Refusal := logic2 i o (fun x y => x ^^^ y) s
def shlOp (i : Instr) (o : MOps) (s : State) : Host.Outcome State Fault Refusal := shiftOp i o (shlN (wOf o)) s
def shrOp (i : Instr) (o : MOps) (s : State) : Host.Outcome State Fault Refusal := shiftOp i o (shrN (tyOf o)) s

/-- AND (R118). -/
def execAndB (o : MOps) (s : State) : Host.Outcome State Fault Refusal := andOp (.andB o) o s
/-- OR (R118). -/
def execOrB (o : MOps) (s : State) : Host.Outcome State Fault Refusal := orOp (.orB o) o s
/-- XOR (R118). -/
def execXor (o : MOps) (s : State) : Host.Outcome State Fault Refusal := xorOp (.xor o) o s
/-- NOT (R118). -/
def execNotB (o : MOps) (s : State) : Host.Outcome State Fault Refusal := logic1 (.notB o) o (tyRegs o) (fun x => x ^^^ onesN (wOf o)) s
/-- ANDN (R118). -/
def execAndn (o : MOps) (s : State) : Host.Outcome State Fault Refusal := logic2 (.andn o) o (fun x y => x &&& (y ^^^ onesN (wOf o))) s
/-- BITF: the old D is the third input (R118). -/
def execBitf (o : MOps) (s : State) : Host.Outcome State Fault Refusal :=
  bitsOp (.bitf o) o (tyRegs o) (fun s a L => bitfN (wOf o) o.c.toNat (valA s a o (intTy o) L) (valB s a o (intTy o) L) (a.vN o.d.toNat L (tyRegs o))) s
/-- SHL (R118). -/
def execShl (o : MOps) (s : State) : Host.Outcome State Fault Refusal := shlOp (.shl o) o s
/-- SHR (R118). -/
def execShr (o : MOps) (s : State) : Host.Outcome State Fault Refusal := shrOp (.shr o) o s
/-- SHF: in the L form the literal is the count C (R113, R118). -/
def execShf (o : MOps) (s : State) : Host.Outcome State Fault Refusal :=
  bitsOp (.shf o) o 1 (fun s a L =>
    shfN (valA s a o (.bits 1) L) (srcValue s a (.bits 1) L o.b) (match o.lit with | some w => w.toNat | none => valC a o 1 L)) s
/-- ROT (R118). -/
def execRot (o : MOps) (s : State) : Host.Outcome State Fault Refusal := shiftOp (.rot o) o (rotN (wOf o)) s
/-- POPC: a 32-bit count (R118). -/
def execPopc (o : MOps) (s : State) : Host.Outcome State Fault Refusal := logic1 (.popc o) o 1 (popN (wOf o)) s
/-- CLZ: a 32-bit count (R118). -/
def execClz (o : MOps) (s : State) : Host.Outcome State Fault Refusal := logic1 (.clz o) o 1 (clzN (wOf o)) s
/-- BREV (R118). -/
def execBrev (o : MOps) (s : State) : Host.Outcome State Fault Refusal := logic1 (.brev o) o (tyRegs o) (fun x => bitsN (wOf o) (fun i => x.testBit (wOf o - 1 - i))) s
/-- BFE (R118, R119). -/
def execBfe (o : MOps) (s : State) : Host.Outcome State Fault Refusal := shiftOp (.bfe o) o (bfeN (tyOf o)) s
/-- BFI: C is a 32-bit operand (R118, R119). -/
def execBfi (o : MOps) (s : State) : Host.Outcome State Fault Refusal :=
  bitsOp (.bfi o) o (tyRegs o) (fun s a L => bfiN (wOf o) (valA s a o (intTy o) L) (valB s a o (intTy o) L) (valC a o 1 L)) s
/-- PRMB (R118). -/
def execPrmb (o : MOps) (s : State) : Host.Outcome State Fault Refusal :=
  bitsOp (.prmb o) o 1 (fun s a L => prmbN (valA s a o (.bits 1) L) (valB s a o (.bits 1) L) (valC a o 1 L)) s
/-- SHL.B32 by an immediate (R93). -/
def execShlB32S (o : SOps) (s : State) : Host.Outcome State Fault Refusal := shlOp (.shlB32S o) (shortOps (.shlB32S o)) s
/-- SHR.N32 by an immediate (R93). -/
def execShrN32S (o : SOps) (s : State) : Host.Outcome State Fault Refusal := shrOp (.shrN32S o) (shortOps (.shrN32S o)) s
/-- SHR.I32 by an immediate (R93). -/
def execShrI32S (o : SOps) (s : State) : Host.Outcome State Fault Refusal := shrOp (.shrI32S o) (shortOps (.shrI32S o)) s
/-- AND.B32 vD, vD, vA (R93). -/
def execAndB32S (o : SOps) (s : State) : Host.Outcome State Fault Refusal := andOp (.andB32S o) (shortOps (.andB32S o)) s
/-- OR.B32 vD, vD, vA (R93). -/
def execOrB32S (o : SOps) (s : State) : Host.Outcome State Fault Refusal := orOp (.orB32S o) (shortOps (.orB32S o)) s
/-- XOR.B32 vD, vD, vA (R93). -/
def execXorB32S (o : SOps) (s : State) : Host.Outcome State Fault Refusal := xorOp (.xorB32S o) (shortOps (.xorB32S o)) s

end Sys2Proof.Machine
end

