-- ==== Sys2Proof/Machine/Mailbox.lean ====
section
/-! DEFINITION. The management mailboxes, and the requests of a VF: contexts, queues, the event queue, and the query of a cluster (R337, R368 to R371, R373). -/

namespace Sys2Proof.Machine

/-- The mailbox of a function (R368). -/
def State.box (s : State) (f : Fn) : Mailbox := match f with | .pf => s.pfBox | .vf n => mapGetD s.vfBoxes n Mailbox.reset
def State.setBox (s : State) (f : Fn) (m : Mailbox) : State :=
  match f with
  | .pf => { s with pfBox := m }
  | .vf n => { s with vfBoxes := mapPut Mailbox.reset s.vfBoxes n m }
/-- Firmware runs: there is power, and the boot ROM is not in recovery (R418, R428). -/
def State.up (s : State) : Bool := s.powered && !s.fw.recovery
/-- The function presents a mailbox: not in recovery, and a VF only while it is enabled (R418, R428). -/
def State.present (s : State) (f : Fn) : Bool :=
  s.up && (match f with | .pf => true | .vf n => (s.vf n).enabled)

/-- Results (R368). -/
inductive MbResult where
  | done | refused | denied | unknown
  deriving DecidableEq, Repr
def MbResult.code : MbResult → Nat
  | .done => 0
  | .refused => 1
  | .denied => 2
  | .unknown => 3

/-- GO reads 0 once Dale has taken the request (R368). -/
def goClear (cmd : Word) : Word := cmd &&& 0x7FFFFFFF
/-- Argument word k, as read at GO (R368). -/
def Mailbox.arg (m : Mailbox) (k : Nat) : Nat := (mapGetD m.args k 0).toNat
/-- An argument word that a request of n words does not use is not zero (R369). -/
def Mailbox.spare (m : Mailbox) (n : Nat) : Bool := m.args.any (fun x => decide (n ≤ x.1) && x.2 != 0)
def Mailbox.reqCode (m : Mailbox) : Nat := (m.cmd.extractLsb' 0 8).toNat
/-- A request waits to be taken. -/
def Mailbox.waiting (m : Mailbox) : Bool := m.busy && m.pend.isNone

/-- The result is written, BUSY clears, and MSI-X vector 0 is raised (R368). -/
def State.answer (s : State) (f : Fn) (r : MbResult) : State :=
  (s.setBox f { s.box f with cmd := goClear (s.box f).cmd, busy := false, result := r.code, pend := none }).emit (.msix f 0)
/-- The same with a value returned in D0. -/
def State.answerD0 (s : State) (f : Fn) (d0 : Nat) : State :=
  State.answer (s.setBox f { s.box f with data := mapPut 0 (s.box f).data 0 (BitVec.ofNat 64 d0) }) f .done
/-- Dale has taken the request and holds it: BUSY stays 1. -/
def State.holdReq (s : State) (f : Fn) (p : Pending) : State := s.setBox f { s.box f with cmd := goClear (s.box f).cmd, pend := some p }

/-- What a request does once Dale takes it. -/
inductive Done where
  /-- a result, the state otherwise unchanged -/
  | stop (r : MbResult)
  /-- DONE with a new state -/
  | done (s : State)
  /-- DONE, and a value in D0 -/
  | value (s : State) (d0 : Nat)
  /-- taken, to be finished by a later event -/
  | hold (s : State) (p : Pending)
  /-- not yet: something it reads has been asked for -/
  | wait (s : State)

/-- A request of a function whose code is waiting in its mailbox. -/
def State.request (s : State) (f : Fn) (code : Nat) (k : Mailbox → Done) : Host.Outcome State Fault Refusal :=
  let m := s.box f
  if !s.present f || !m.waiting || m.reqCode != code then .next s
  else match k m with
    | .stop r => .next (s.answer f r)
    | .done s => .next (s.answer f .done)
    | .value s d => .next (s.answerD0 f d)
    | .hold s p => .next (s.holdReq f p)
    | .wait s => .next s

/-- A request of n argument words: REFUSED when another word is not zero (R369). -/
def Mailbox.using (m : Mailbox) (n : Nat) (k : Mailbox → Done) : Done := if m.spare n then .stop .refused else k m
/-- A request of a VF, of n argument words; from the PF it is DENIED (R369; log 13). -/
def State.vfRequest (s : State) (f : Fn) (code n : Nat) (k : Nat → Mailbox → Done) : Host.Outcome State Fault Refusal :=
  s.request f code (fun m => match f with | .pf => .stop .denied | .vf v => m.using n (k v))
/-- A request of the PF, of n argument words; from a VF it is DENIED (R368). -/
def State.pfRequest (s : State) (f : Fn) (code n : Nat) (k : Mailbox → Done) : Host.Outcome State Fault Refusal :=
  s.request f code (fun m => match f with | .pf => m.using n k | .vf _ => .stop .denied)

/-- Offsets in a function's BAR0: MBCMD, MBSTS, MBDATA k, and the doorbell of a queue and CTXCTL in a context's page (R338, R368, R395). -/
def mbCmdAt : Nat := 0x00
def mbStsAt : Nat := 0x04
def mbDataAt (k : Nat) : Nat := 0x40 + 8 * k
def doorbellAt (ctx q : Nat) : Nat := 0x10000 + 0x1000 * ctx + 8 * q
def ctxctlAt (ctx : Nat) : Nat := 0x10000 + 0x1000 * ctx + 0x800
/-- What a host write at an offset of BAR0 reaches: a register, or a doorbell. -/
inductive Bar0 where
  | reg (r : DevReg)
  | bell (q : QRef)
  deriving DecidableEq, Repr
/-- The PF's own blocks: migration from offset 0x4000 (R423), recovery from 0x8000 (R418). -/
def pfBlockAt (off : Nat) : Option DevReg :=
  match off with
  | 0x4000 => some .migctl
  | 0x4008 => some .migbuf
  | 0x4010 => some .miglen
  | 0x8000 => some .rcvctl
  | 0x8008 => some .rcvaddr
  | 0x8010 => some .rcvlen
  | _ => none
/-- A VF's doorbell pages: the doorbells of a context's queues, and its CTXCTL (R338, R368, R395). -/
def vfPageAt (n off : Nat) : Option Bar0 :=
  let c := (off - 0x10000) / 0x1000
  let q := (off - 0x10000) % 0x1000 / 8
  if off < 0x10000 ∨ 16 ≤ c then none
  else if off = ctxctlAt c then some (.reg (.ctxctl n c))
  else if q < 32 ∧ off = doorbellAt c q then some (.bell ⟨n, c, q⟩)
  else none
/-- The register or the doorbell at an offset of a function's BAR0 (R338, R368, R395, R418, R423); none elsewhere. -/
def bar0At (f : Fn) (off : Nat) : Option Bar0 :=
  if off = mbCmdAt then some (.reg (.mbcmd f))
  else match (List.range 8).find? (fun k => mbDataAt k == off) with
    | some k => some (.reg (.mbdata f k))
    | none => match f with
      | .pf => (pfBlockAt off).map .reg
      | .vf n => vfPageAt n off
/-- MBSTS: BUSY and RESULT (R368). -/
def Mailbox.status (m : Mailbox) : Word := BitVec.ofNat 32 ((if m.busy then 2 ^ 31 else 0) + m.result % 256)

/-- CTX_NEW (R370). -/
def execCtxNew (f : Fn) (s : State) : Host.Outcome State Fault Refusal :=
  s.vfRequest f 0x01 1 fun v m =>
    let d := m.arg 0
    let used := (s.vf v).ctxs
    if d ≥ 2 ^ 20 || used.any (fun c => c.2.pasid == d) then .stop .refused
    else match (List.range 16).find? (fun n => !used.any (fun c => c.1 == n)) with
      | none => .stop .refused
      | some n => .value (s.modVf v (fun x => { x with ctxs := mapSet x.ctxs n ⟨d, .run, none, [], []⟩ })) n

/-- CTX_FREE (R370, R218): the matrix-unit state of the context goes with it. -/
def execCtxFree (f : Fn) (s : State) : Host.Outcome State Fault Refusal :=
  s.vfRequest f 0x02 1 fun v m =>
    let n := m.arg 0
    if n ≥ 16 then .stop .refused
    else match s.ctx? v n with
      | none => .stop .denied
      | some c =>
        if !c.queues.isEmpty then .stop .refused
        else .done (State.modVf { s with mus := s.mus.filter (fun x => decide (x.1 % 1024 ≠ 16 * v + n)) } v (fun x => { x with ctxs := mapErase x.ctxs n }))

/-- Argument word 0 of a request on a queue: context and queue; none when another bit is set. -/
def queueArg (d : Nat) : Option (Nat × Nat) :=
  if field d 4 4 ≠ 0 ∨ d ≥ 2 ^ 13 then none else some (field d 0 4, field d 8 5)

/-- The 32 bytes of a queue descriptor; none when a limit is broken (R337). -/
def queueOf (w : Nat) : Option Queue :=
  let base := field w 0 64
  let caddr := field w 64 64
  let prio := field w 144 5
  let logn := field w 128 5
  if base % 128 ≠ 0 ∨ caddr % 8 ≠ 0 ∨ prio > 23 ∨ logn = 0 ∨ logn > 16 then none
  else some ⟨BitVec.ofNat 64 base, BitVec.ofNat 64 caddr, w.testBit 159, prio, logn, 0, 0, false⟩

/-- Launches of a queue that have not completed. -/
def State.busyQueue (s : State) (r : QRef) : Bool := s.launches.any (fun x => x.2.vf == r.vf && x.2.ctx == r.ctx && x.2.q == r.q)

/-- The device's read or write for a request: wait while a translation is asked for, and refused where there is none (log 13). -/
def State.reqAccess (s : State) (who : Waiter) (vf pasid : Nat) (need : Need) (va n : Nat) (k : Done) : Option Done :=
  match s.plan who [0] vf pasid need (rangeAccs 0 va n) with
  | .fail _ => some (.stop .refused)
  | .absent _ => some (.stop .refused)
  | .miss l => some (.wait (l.foldl (fun s x => s.ask who [0] vf pasid (pageOf x.va) false) s))
  | .go l => if l.any (fun x => !s.sound x.2 x.1.n) then some (.stop .refused) else if l.any (fun x => s.heldLoc x.2) then some k else none

/-- Q_REG (R337): the descriptor is read once, and the completion word is written as 0. -/
def execQReg (f : Fn) (s : State) : Host.Outcome State Fault Refusal :=
  s.vfRequest f 0x03 2 fun v m =>
    match queueArg (m.arg 0) with
    | none => .stop .refused
    | some (n, q) =>
      match s.ctx? v n with
      | none => .stop .denied
      | some c =>
        let r : QRef := ⟨v, n, q⟩
        let who : Waiter := .queue r
        if s.busyQueue r then .stop .refused
        else match s.reqAccess who v c.pasid needR (m.arg 1) 32 (.wait s) with
          | some d => d
          | none =>
            match (s.devRead who v c.pasid (m.arg 1) 32).2 with
            | none => .wait s
            | some bs =>
              match queueOf (ofBytes bs) with
              | none => .stop .refused
              | some x =>
                match s.reqAccess who v c.pasid needW x.caddr.toNat 8 (.wait s) with
                | some d => d
                | none => .done ((s.devWrite who v c.pasid x.caddr.toNat (bytesOf 0 8) (Ev.link [] [] [])).1.modCtx v n (fun c => { c with queues := mapSet c.queues q x }))

/-- Q_UNREG (R369). -/
def execQUnreg (f : Fn) (s : State) : Host.Outcome State Fault Refusal :=
  s.vfRequest f 0x04 2 fun v m =>
    match queueArg (m.arg 0) with
    | none => .stop .refused
    | some (n, q) =>
      if m.arg 1 ≠ 0 then .stop .refused
      else match (s.ctx? v n).bind (fun c => c.queue? q) with
        | none => .stop .denied
        | some _ => if s.busyQueue ⟨v, n, q⟩ then .stop .refused else .done (s.modCtx v n (fun c => { c with queues := mapErase c.queues q }))

/-- EVQ_SET (R371). -/
def execEvqSet (f : Fn) (s : State) : Host.Outcome State Fault Refusal :=
  s.vfRequest f 0x05 2 fun v m =>
    let l := m.arg 0
    if l < 4 ∨ l > 12 ∨ m.arg 1 % 4096 ≠ 0 then .stop .refused
    else .done (s.modVf v (fun x => { x with evq := some ⟨m.arg 1, l, 0, 0⟩ }))

/-- Group-memory banks of a cluster (R6, R373). -/
def State.split (s : State) (cluster : Nat) : Nat := mapGetD s.splits cluster 8
/-- Sums over the holdings of all VFs but one on a cluster. -/
def State.othersOn (s : State) (cluster vf : Nat) : List PartSet :=
  (s.parts.filter (fun x => x.1 / 64 == cluster && x.1 % 64 != vf)).map (fun x => x.2)

/-- CL_QRY (R373). -/
def execClQry (f : Fn) (s : State) : Host.Outcome State Fault Refusal :=
  s.request f 0x06 fun m =>
    let c := m.arg 0
    if c ≥ 128 || m.spare 1 then .stop .refused
    else
      let n := s.split c
      let counts := n + 2 ^ 8 * (40 - n)
      match f with
      | .vf v =>
        let p := s.part c v
        if p.qmask = 0 then .stop .denied else .value s (counts + 2 ^ 16 * p.gmb.length + 2 ^ 24 * p.l1b)
      | .pf =>
        let held := s.othersOn c 64
        .value s (counts + 2 ^ 16 * (n - (held.map (fun p => p.gmb.length)).foldl (· + ·) 0) + 2 ^ 24 * (40 - n - (held.map (fun p => p.l1b)).foldl (· + ·) 0))

/-- The request codes that R369 assigns. -/
def assignedCode (c : Nat) : Bool := (decide (1 ≤ c) && decide (c ≤ 6)) || (decide (0x40 ≤ c) && decide (c ≤ 0x4E))
/-- MAILBOX_UNKNOWN (R369). -/
def execMailboxUnknown (f : Fn) (s : State) : Host.Outcome State Fault Refusal :=
  let m := s.box f
  if !s.present f || !m.waiting || assignedCode m.reqCode then .next s else .next (s.answer f .unknown)

end Sys2Proof.Machine
end

