-- ==== Sys2Proof/Machine/MuSteps.lean ====
section
/-! DEFINITION. Steps of the matrix unit: forwarded commands, start, and completion (R218 to R222, R228 to R241). -/

namespace Sys2Proof.Machine

/-- The image whose queue a matrix unit serves next: one with a started head, else the oldest head, in the queue, of a running context (R220, R400). -/
def State.muPick (s : State) (cluster quad : Nat) : Option Nat :=
  let ms := s.mus.filter (fun x => x.1 / 1024 == cluster * 8 + quad && (match x.2.queue with | c :: _ => !c.out | [] => false))
  match ms.find? (fun x => match x.2.queue with | c :: _ => c.started | [] => false) with
  | some x => some x.1
  | none =>
    (ms.filter (fun x => s.ctxRuns (x.1 / 16 % 64) (x.1 % 16))).foldl (fun best x =>
      match best with
      | none => some x.1
      | some k =>
        let age (k : Nat) : Nat := match (s.mu k).queue with | c :: _ => c.seq | [] => 0
        if age x.1 < age k then some x.1 else some k) none

/-- Tiles and WB slots (16 + slot) that a command names (R407). -/
def MuOp.units (op : MuOp) : List Nat :=
  match op with
  | .mma x64 _ _ _ f act _ _ wbs _ _ _ _ _ _ _ _ => [act, 16 + wbs] ++ (if x64 || f == FP64 then [act + 1] else [])
  | .wbLd _ sp _ _ f pr wbs k _ _ _ _ => (List.range (ceilDiv (64 * rowBytes f pr (if sp then k / 2 else k)) 8192)).map (fun i => 16 + wbs + i)
  | .accRd w64 act _ _ => if w64 then [act, act + 1] else [act]
  | .accWr w64 act _ _ => if w64 then [act, act + 1] else [act]
  | .accZero m => (List.range 16).filter (fun t => m.testBit t)
  | .fence => []

/-- A scales apply (R230). -/
def MuCmd.aScales (c : MuCmd) : Bool :=
  match c.op with
  | .mma false _ _ _ f _ _ _ _ _ _ _ _ _ _ _ _ => c.sfmt.getLsbD 16 && ((mmaFmt f).map (fun t => t.scales)).getD false
  | _ => false
/-- B scales apply (R230). -/
def MuCmd.bScales (c : MuCmd) : Bool :=
  match c.op with
  | .wbLd _ _ _ _ f _ _ _ _ _ _ _ => c.sfmt.getLsbD 17 && ((mmaFmt f).map (fun t => t.scales)).getD false
  | _ => false
/-- Stored elements of a column: half of K when sparse (R232). -/
def storedK (sp : Bool) (k : Nat) : Nat := if sp then k / 2 else k
/-- ACM tiles that a command on tile t touches. -/
def tilesFrom (t : Nat) (w64 : Bool) : List Nat := if w64 then [t, t + 1] else [t]
/-- Tiles, slots as 16 + slot, and 32 for the scale cache, that a command reads, and those it writes whole (R239, R240). -/
def MuCmd.unitsRead (c : MuCmd) (m : Mu) : List Nat :=
  match c.op with
  | .mma x64 pr _ _ f act za _ wbs _ _ _ _ _ _ _ _ =>
    let w64 := match (if x64 then x64Fmt f pr else mmaFmt f) with | some t => t.acc == FP64 | none => false
    let slots := match mapGet? m.wb wbs with | some (.head _ _ _ _ _ _ _ _ _ n) => n | _ => 1
    (if za then [] else tilesFrom act w64) ++ (List.range slots).map (fun i => 16 + wbs + i) ++ (if c.aScales && !c.acq then [32] else [])
  | .accRd w64 act _ _ => tilesFrom act w64
  | _ => []
def MuCmd.unitsWritten (c : MuCmd) : List Nat :=
  match c.op with
  | .wbLd _ sp _ _ f pr wbs K _ _ _ _ => (List.range (ceilDiv (64 * rowBytes f pr (storedK sp K)) 8192)).map (fun i => 16 + wbs + i)
  | .accWr w64 act _ _ => tilesFrom act w64
  | .accZero mask => (List.range 16).filter (fun t => mask.testBit t)
  | _ => []
/-- Everything of a matrix unit's image that a command reads or writes: what it names, every slot of its tile, and the scale cache (R400, R407). -/
def MuCmd.units (c : MuCmd) (m : Mu) : List Nat := c.op.units ++ c.unitsRead m ++ (if c.aScales then [32] else [])
/-- Bytes of a column's metadata (R233). -/
def metaBytes (k : Nat) : Nat := ceilDiv k 8

/-- Global bytes that a command reads (R221, R230, R233). -/
def MuCmd.reads (c : MuCmd) : List Acc :=
  match c.op with
  | .mma _ _ _ _ _ _ _ _ _ _ _ _ _ mv k arb ablk =>
    if c.aScales then (List.range mv).flatMap (fun i => rangeAccs 0 ((c.sbase.toNat + ablk + i * arb) % 2 ^ 64) (ceilDiv k 32)) else []
  | .wbLd gm sp badr bst f pr _ k madr brb bblk mst =>
    (if gm then [] else
      (List.range 64).flatMap (fun j => rangeAccs 0 ((badr + j * bst) % 2 ^ 64) (rowBytes f pr (storedK sp k)))
      ++ (if sp then (List.range 64).flatMap (fun j => rangeAccs 0 ((madr + j * mst) % 2 ^ 64) (metaBytes k)) else []))
    ++ (if c.bScales then (List.range 64).flatMap (fun j => rangeAccs 0 ((c.sbase.toNat + bblk + j * brb) % 2 ^ 64) (ceilDiv k 32)) else [])
  | _ => []

def State.setHead (s : State) (k : Nat) (c : MuCmd) : State := s.modMu k (fun m => { m with queue := match m.queue with | _ :: r => c :: r | [] => [] })

/-- A command's acquire, where it has one: it empties the scale cache of its image (R221, R231). -/
def MuCmd.acquire (c : MuCmd) (k : Nat) (s : State) : State := if c.acq then (c.acquires s).modMu k (fun m => { m with scache := [] }) else s
/-- The ring slot of a command whose A comes from a ring, taken after the command's acquire: none while it waits (R221, R226, R242). -/
def State.muSlot (s : State) (cluster k : Nat) (c : MuCmd) : Option (State × MuCmd) :=
  match c.op, (if c.fail.isSome then some 0 else c.slot) with
  | .mma _ _ _ _ _ _ _ true _ aadr _ _ _ _ _ _ _, none =>
    match (s.agent? c.agent), (s.agent? c.agent).bind (fun a => s.ringSeen cluster (aadr % 64) a.ringOwner) with
    | some a, some r =>
      if r.owner ≠ a.ringOwner then some (s, { c with fail := some (cRINGERR, r.desc.toNat) })
      else match r.take with
        | none => none
        | some x => some (((c.acquire k s).note { c.ev a 2 (.acquire 1) with takes := r.takeLinks }).setRing cluster (aadr % 64) x.2, { c with slot := some x.1 })
    | _, _ => some (s, { c with fail := some (cRINGERR, 0) })
  | _, _ => some (s, c)

/-- No halted context of the VF still keeps a tile or slot that a command uses: it is claimed, and spilt, first (R400). -/
def State.unitsClear (s : State) (cluster quad k : Nat) (us : List Nat) : Bool :=
  !(s.mus.any (fun x => x.1 / 1024 == cluster * 8 + quad && x.1 != k && x.1 / 16 == k / 16 && s.ctxHalted (x.1 / 16 % 64) (x.1 % 16)
    && us.any (fun u => !(x.2.spilt.contains u))))

/-- A command starts, with its acquire where it has taken no ring slot before, whatever it reads and however it ends (R221, R222, R231). -/
def State.startHead (s : State) (k : Nat) (c : MuCmd) : State :=
  (if c.slot.isSome then s else c.acquire k s).setHead k { c with started := true }

/-- MU_COMMAND_START (R222): the head command starts once its ring slot, its absent tiles and slots, and its translations are ready. -/
def execMuCommandStart (cluster quad : Nat) (s : State) : Host.Outcome State Fault Refusal :=
  match s.muPick cluster quad with
  | none => .next s
  | some k =>
    let m := s.mu k
    match m.queue with
    | [] => .next s
    | c :: _ =>
      if c.started || (c.units m).any (fun u => m.unfilled.contains u) || !s.groupFilled c.agent || !s.unitsClear cluster quad k (c.units m) then .next s
      else match s.muSlot cluster k c with
        | none => .next s
        | some (s, c) =>
          if c.fail.isSome then .next (s.startHead k c)
          else
            let s := s.setHead k c
            match s.engPlan (.mu k c.id) cluster (k / 16 % 64) (k % 16) needR c.reads with
            | .wait s => .next s
            | .fail x => .next (s.startHead k { c with fail := some (cXLAT, x.va) })
            | .go _ => .next ((s.forget (.mu k c.id)).startHead k c)

/-- Columns of a tile as codes along k: sparse elements at the places the metadata names (R228, R233). -/
def tileColumn (f : Fmt) (pr sp : Bool) (k : Nat) (row md : Nat) : List Nat :=
  if !sp then (List.range k).map (rowElem f pr row)
  else (List.range k).map (fun x =>
    let g := x / 4
    let i0 := field md (4 * g) 2
    let i1 := field md (4 * g + 2) 2
    if x % 4 = i1 then rowElem f pr row (2 * g + 1) else if x % 4 = i0 then rowElem f pr row (2 * g) else noElem)
/-- Every tile that shares a slot with a range is destroyed (R233). -/
def wbClear (wb : NMap WbSlot) (lo n : Nat) : NMap WbSlot :=
  wb.foldl (fun m x => match x.2 with
    | .head _ _ _ _ _ _ _ _ _ len =>
      if x.1 < lo + n ∧ lo < x.1 + len then (List.range len).foldl (fun m i => mapErase m (x.1 + i)) m else m
    | .cont => m) wb
/-- A tile written to its slots (R233). -/
def wbPut (wb : NMap WbSlot) (lo n : Nat) (h : WbSlot) : NMap WbSlot :=
  (List.range n).foldl (fun m i => mapSet m (lo + i) (if i = 0 then h else .cont)) (wbClear wb lo n)

/-- A scale byte of A: from the scale cache, or from memory (R231). -/
def scaleByte (cached : NMap Byte) (use : Bool) (va : Nat) (mem : Byte) : Byte :=
  if use then (mapGet? cached va).getD mem else mem

/-- A rows' scale bytes, row by row (R230). -/
def State.aScaleRows (s : State) (v : View) (k cluster : Nat) (c : MuCmd) (mv K arb ablk : Nat) : List (List Nat) :=
  if !c.aScales then []
  else
    let cache := (s.mu k).scache
    let use := Config.freeBool s.fresh
    (List.range mv).map (fun i =>
      let va := (c.sbase.toNat + ablk + i * arb) % 2 ^ 64
      ((s.readRange v (.mu k c.id) cluster (k / 16 % 64) (k % 16) va (ceilDiv K 32)).zipIdx).map (fun x =>
        (scaleByte cache use ((va + x.2) % 2 ^ 64) x.1).toNat))
/-- What the scale cache then holds; at most 4 KiB (R218, R231). -/
def State.scaleCache (s : State) (k : Nat) (c : MuCmd) (mv arb ablk : Nat) (rows : List (List Nat)) : NMap Byte :=
  let old := (s.mu k).scache
  let new := (List.range mv).foldl (fun m i =>
    (((rows[i]?).getD []).zipIdx).foldl (fun m x => mapSet m ((c.sbase.toNat + ablk + i * arb + x.2) % 2 ^ 64) (BitVec.ofNat 8 x.1)) m) old
  if new.length > 4096 then [] else new

/-- A scale's value: 1 where none applies (R30, R31, R230). -/
def scaleVal? (fmt : Fmt) (row : Option (List Nat)) (k : Nat) : Val :=
  match row with
  | none => .fin false 1 0
  | some l => decodeVal fmt ((l[k / 32]?).getD 0)

/-- The result of an MMA on the ACM: its bytes and its flags (R228, R229, R234 to R236, R238). In seven-product order the sums and products raise the flags of the whole 64 by 64 tile, and the last additions those of the elements that are written, where R236 does not say (log 33). -/
def mmaResult (acm : List Host.Cell) (x64 pr x7 sat : Bool) (f : Fmt) (act : Nat) (za : Bool) (nv mv K : Nat) (fz : Bool)
    (aRows : List Nat) (aSc : List (List Nat)) (afmt : Fmt) (cols : List (List Nat)) (bSc : List (List Nat)) (bfmt : Fmt) : List Host.Cell × FFlags :=
  match (if x64 then x64Fmt f pr else mmaFmt f) with
  | none => (acm, fNone)
  | some t =>
    let aCode := fun i k => rowElem f pr ((aRows[i]?).getD 0) k
    let bCode := fun k j => (((cols[j]?).getD [])[k]?).getD 0
    let aS := fun i k => scaleVal? afmt (aSc[i]?) k
    let bS := fun k j => scaleVal? bfmt (bSc[j]?) k
    let aVal := fun i k => if i < mv then elemVal f pr fz (aCode i k) else Val.zero false
    let bVal := fun k j => elemVal f pr fz (bCode k j)
    let w64 := t.acc == FP64
    let cells := (List.range mv).flatMap (fun i => (List.range nv).map (fun j => (i, j)))
    if x7 then
      let a : ValMat := (List.range 64).map (fun i => (List.range K).map (fun k => if i < mv then scaled (aS i k) (aVal i k) else Val.zero false))
      let b : ValMat := (List.range K).map (fun k => (List.range 64).map (fun j => scaled (bS k j) (bVal k j)))
      let bad := fun (v : Val) => isNaN v || isInfV v
      let rnf := (a.take mv).any (fun r => r.any bad) || b.any (fun r => r.any bad)
      let u := sevenU f t.kc K fz a b
      let pick := fun i j =>
        if i < 32 then (if j < 32 then u.1.1.at i j else u.1.2.1.at i (j - 32))
        else if j < 32 then u.1.2.2.1.at (i - 32) j else u.1.2.2.2.at (i - 32) (j - 32)
      let r := cells.foldl (fun (x : List Host.Cell × FFlags) ij =>
        let y := if za then (encodeExact FP32 (pick ij.1 ij.2), fNone)
          else fpAdd FP32 (binOf FP32) .rn fz (readVal FP32 fz (acmGet x.1 false act ij.1 ij.2)) (pick ij.1 ij.2)
        (acmPut x.1 false act ij.1 ij.2 y.1, x.2 ||| y.2)) (acm, u.2)
      (r.1, if rnf then r.2 ||| fRNF else r.2)
    else
      cells.foldl (fun (x : List Host.Cell × FFlags) ij =>
        let old := if za then none else some (acmGet x.1 w64 act ij.1 ij.2)
        let y :=
          if t.acc = I32 then classicalInt t.kc sat old ((List.range K).map (fun k => elemInt f (aCode ij.1 k) * elemInt f (bCode k ij.2)))
          else classicalFp t.acc t.kc fz old ((List.range K).map (fun k => scaledProd (aS ij.1 k) (aVal ij.1 k) (bS k ij.2) (bVal k ij.2)))
        (acmPut x.1 w64 act ij.1 ij.2 y.1, x.2 ||| y.2)) (acm, fNone)

/-- The effects of a command that has not failed, on what a view has its reads return: the state and its flags, or the cause that only execution can detect (R221, R222, R227, R238). -/
def State.muEffect (s : State) (v : View) (k cluster : Nat) (c : MuCmd) (a : Agent) : Option (State × FFlags) :=
  let m := s.mu k
  match c.op with
  | .mma x64 pr x7 sat f act za asrc wbs aadr ast sp nv mv K arb ablk =>
    match mapGet? m.wb wbs with
    | some (.head tf tpr tsp tk sc tsf tile md scales _) =>
      -- MMA.X64 looks at format, K and PR alone (R227, R238)
      if tf ≠ f ∨ (x64 = false ∧ tsp ≠ sp) ∨ tk ≠ K ∨ tpr ≠ pr then none
      else
        let cols := tile.zipIdx.map (fun x => tileColumn tf tpr tsp tk x.1 (md.getD x.2 0))
        let base := if asrc then c.slot.getD 0 else aadr
        let n := rowBytes f pr K
        let rows := (List.range mv).map (fun i => ofBytes (s.gmReadIn v c.agent a ((base + i * ast) % 2 ^ 32) n))
        let aSc := s.aScaleRows v k cluster c mv K arb ablk
        let r := mmaResult m.acm x64 pr x7 sat f act za nv mv K c.fz rows aSc (field c.sfmt.toNat 0 5) cols (if sc then scales else []) tsf
        let s1 := (List.range mv).foldl (fun s i => s.gmCount c.agent a ((base + i * ast) % 2 ^ 32) n) s
        let cache := if c.aScales then s.scaleCache k c mv arb ablk aSc else m.scache
        some (State.modMu { s1 with fresh := s1.fresh + 1 } k (fun m => { m with acm := r.1, scache := cache }), r.2)
    | _ => none
  | .wbLd gm sp badr bst f pr wbs K madr brb bblk mst =>
    let n := rowBytes f pr (storedK sp K)
    let slots := ceilDiv (64 * n) 8192
    let read := fun va len => ofBytes (if gm then s.gmReadIn v c.agent a (va % 2 ^ 32) len
      else s.readRange v (.mu k c.id) cluster (k / 16 % 64) (k % 16) (va % 2 ^ 64) len)
    let rows := (List.range 64).map (fun j => read (badr + j * bst) n)
    let md := if sp then (List.range 64).map (fun j => read (madr + j * mst) (metaBytes K)) else []
    let sc := c.bScales
    let scales := if sc then (List.range 64).map (fun j =>
        (s.readRange v (.mu k c.id) cluster (k / 16 % 64) (k % 16) ((c.sbase.toNat + bblk + j * brb) % 2 ^ 64) (ceilDiv K 32)).map BitVec.toNat) else []
    let h : WbSlot := .head f pr sp K sc (field c.sfmt.toNat 8 5) rows md scales slots
    let s1 := if gm then (List.range 64).foldl (fun s j => s.gmCount c.agent a ((badr + j * bst) % 2 ^ 32) n) s else s
    some (s1.modMu k (fun m => { m with wb := wbPut m.wb wbs slots h }), fNone)
  | .accRd w64 act addr str =>
    let len := if w64 then 512 else 256
    some ((List.range 64).foldl (fun s i =>
      let va := (addr + 16 * str * i) % 2 ^ 32
      (s.gmCount c.agent a va len).gmPut { c.ev a 3 .weak with sca := false } c.agent a va (memRead m.acm (16384 * act + len * i) len)) s, fNone)
  | .accWr w64 act addr str =>
    let len := if w64 then 512 else 256
    let acm := (List.range 64).foldl (fun acm i => memWrite acm (16384 * act + len * i) (s.gmReadIn v c.agent a ((addr + 16 * str * i) % 2 ^ 32) len)) m.acm
    let s1 := (List.range 64).foldl (fun s i => s.gmCount c.agent a ((addr + 16 * str * i) % 2 ^ 32) len) s
    some (s1.modMu k (fun m => { m with acm := acm }), fNone)
  | .accZero mask =>
    some (s.modMu k (fun m => { m with acm := (List.range 16).foldl (fun acm t => if mask.testBit t then memClear acm (16384 * t) 16384 else acm) m.acm }), fNone)
  | .fence => some (s, fNone)

/-- Ranges of group memory that a command reads. -/
def MuCmd.gmReads (c : MuCmd) : List (Nat × Nat) :=
  match c.op with
  | .mma _ pr _ _ f _ _ asrc _ aadr ast _ _ mv K _ _ =>
    let base := if asrc then c.slot.getD 0 else aadr
    (List.range mv).map (fun i => ((base + i * ast) % 2 ^ 32, rowBytes f pr K))
  | .wbLd gm sp badr bst f pr _ K madr _ _ mst =>
    if gm then (List.range 64).flatMap (fun j => ((badr + j * bst) % 2 ^ 32, rowBytes f pr (storedK sp K)) :: if sp then [((madr + j * mst) % 2 ^ 32, metaBytes K)] else [])
    else []
  | .accWr w64 _ addr str => (List.range 64).map (fun i => ((addr + 16 * str * i) % 2 ^ 32, if w64 then 512 else 256))
  | _ => []
/-- A command reads something with a double-bit error: the address for MEMINT, 0 but for group memory (R410). -/
def State.muStruck (s : State) (k : Nat) (c : MuCmd) (a : Agent) : Option Nat :=
  if s.gmBad.isEmpty && (s.mu k).bad.isEmpty then none
  else match c.gmReads.find? (fun r => s.gmHit c.agent a r.1 r.2) with
    | some r => some r.1
    | none => if (c.unitsRead (s.mu k)).any (fun u => (s.mu k).bad.contains u) then some 0 else none
/-- What a command has written whole is sound again (log 30). -/
def State.muRenew (s : State) (k : Nat) (c : MuCmd) : State :=
  if (s.mu k).bad.isEmpty then s else s.modMu k (fun m => { m with bad := m.bad.filter (fun u => !(c.unitsWritten.contains u)) })

/-- The slots that a failed WB.LD would have used are left empty (R233). -/
def State.muFailed (s : State) (k : Nat) (c : MuCmd) : State :=
  match c.op with
  | .wbLd _ sp _ _ f pr wbs K _ _ _ _ =>
    s.modMu k (fun m => { m with wb := wbClear m.wb wbs (ceilDiv (64 * rowBytes f pr (storedK sp K)) 8192) })
  | _ => s

/-- The reads of a command as events, and what they return: its ranges of memory, at the locations given, and of group memory. Those of memory come after its acquire, and are not ordered by the take of its ring slot (R221). -/
def State.muSight (s : State) (c : MuCmd) (a : Agent) (locs : List (Acc × Loc)) : State × View :=
  let ev (rank : Nat) (acc : Access) : Ev := { c.ev a rank acc with sca := false }
  s.sight (locs.map (fun x => (ev 2 (s.accAt .weak x.2), x.2.spots x.1.n)) ++ c.gmReads.map (fun r => (ev 3 .weak, s.gmSpots c.agent a r.1 r.2)))
/-- DONE of the ring slot that a command took (R221). -/
def State.muRingDone (s : State) (cluster : Nat) (c : MuCmd) : State :=
  match c.op, c.slot with
  | .mma _ _ _ _ _ _ _ true _ aadr _ _ _ _ _ _ _, some addr =>
    match s.ring? cluster (aadr % 64) with
    | some r => match r.done addr, s.agent? c.agent with
      | some r', some a => (s.note { c.ev a 4 (.release 1) with gives := r.doneLinks addr }).setRing cluster (aadr % 64) r'
      | some r', none => s.setRing cluster (aadr % 64) r'
      | none, _ => s
    | none => s
  | _, _ => s

/-- MU_COMMAND_COMPLETE (R221, R222): the effects or the recorded failure, which is MEMINT with TADDR 0 where the command's entry has a double-bit error (R410), the ring DONE, and the signal; a follow-on signals for its CPY, which then completes (R180). -/
def execMuCommandComplete (cluster quad : Nat) (s : State) : Host.Outcome State Fault Refusal :=
  match s.muPick cluster quad with
  | none => .next s
  | some k =>
    match (s.mu k).queue with
    | [] => .next s
    | c :: rest =>
      if !c.started then .next s
      else
        let finish (s : State) (f : FFlags) : State :=
          let s := (c.releases (s.muRingDone cluster c)).modMu k (fun m => { m with queue := m.queue.drop 1 })
          let s := s.forget (.mu k c.id)
          let s := match c.parentCmd with
            | some q => { s with engines := mapPut [] s.engines (2 * cluster) ((mapGetD s.engines (2 * cluster) []).filter (fun e => e.id != q)) }
            | none => s
          s.signalCmd c.agent c.opId true f
        let fail (s : State) (cause addr : Nat) : State :=
          finish ((s.muFailed k c).recordTrap c.agent c.flag c.seq cause addr 0 c.lanes) fNone
        match s.agent? c.agent with
        | none => .next (s.modMu k (fun m => { m with queue := rest }))
        | some a =>
          match (if s.cmdBad.contains c.id then some (cMEMINT, 0) else c.fail) with
          | some x => .next (fail s x.1 x.2)
          | none =>
            match s.engPlan (.mu k c.id) cluster (k / 16 % 64) (k % 16) needR c.reads with
            | .wait s => .next (s.setHead k { c with started := false })
            | .fail x => .next (fail s cXLAT x.va)
            | .go locs =>
              match locs.find? (fun x => !s.sound x.2 x.1.n) with
              | some x => .next (fail (s.reportPoison (k / 16 % 64) x.2) cMEMINT (s.firstBad x.1.va x.2 x.1.n))
              | none =>
                match s.muStruck k c a with
                | some addr => .next (fail s cMEMINT addr)
                | none =>
                  let v := s.muSight c a locs
                  match v.1.muEffect v.2 k cluster c a with
                  | none => .next (fail s cILLOP 0)
                  | some (s, f) => .next (finish (s.muRenew k c) f)

/-- FORWARDED_MATRIX_COMMAND (R219, R250, R397, R406): the first such message for the quadrant that can go on. One under way reaches the quadrant, whatever its context does, and frees the way behind it; one that is there enters the queue when its context runs, there is room and its purse pays (R225, R319), and until then it waits there, as a draw of a running context. -/
def execForwardedMatrixCommand (cluster quad : Nat) (s : State) : Host.Outcome State Fault Refusal :=
  let l := mapGetD s.saddle cluster []
  let mine (m : Saddle) : Option (Nat × Nat × MuCmd × Bool) := match m.msg with | .matrix q vf ctx c h => if q = quad && (s.ctxRuns vf ctx || !h) then some (vf, ctx, c, h) else none | _ => none
  match (List.range l.length).findSome? (fun i => (l[i]?).bind (fun m => (mine m).bind (fun x => if x.2.2.2 || m.free (l.take i) then some (i, m, x) else none))) with
  | none => .next s
  | some (i, m, vf, ctx, cmd, _) =>
    let come : State := { s with saddle := mapPut [] s.saddle cluster (l.set i { m with msg := .matrix quad vf ctx cmd true }) }
    if !s.ctxRuns vf ctx || decide (s.muDepth cluster quad ≥ 16) || (s.mu (muKey cluster quad vf ctx)).queue.any (fun c => c.out) then .next come
    else
      let x := come.pay cluster quad vf (.fwd cmd.id) (muPrice cmd.op)
      if !x.2 then .next x.1
      else .next (State.modMu { x.1 with saddle := mapPut [] x.1.saddle cluster (l.eraseIdx i) }
        (muKey cluster quad vf ctx) (fun m => { m with queue := m.queue ++ [cmd] }))

end Sys2Proof.Machine
end

