-- ==== Sys2Proof/Machine/Tenancy.lean ====
section
/-! DEFINITION. Requests of the PF: VFs, partitions, allotments, L2 shares, memory, slot tables, windows, peers, amax rings, splits (R134, R317, R367 to R392). -/

namespace Sys2Proof.Machine

/-- The VF that argument word 0 names, enabled; otherwise the request is REFUSED (log 13). -/
def State.namedVf (s : State) (d : Nat) : Option Nat := if d < 64 && (s.vf d).enabled then some d else none

/-- A VF as VF.ENABLE leaves it (R382, R427); its PRI capability is the host's and stays (log 13). -/
def Vf.fresh (old : Vf) (key : Nat) : Vf := { Vf.off with enabled := true, key := key, priEn := old.priEn, priAlloc := old.priAlloc }
/-- VF_ENABLE (R382, R427): new keys, and no assignment. -/
def execVfEnable (f : Fn) (s : State) : Host.Outcome State Fault Refusal :=
  s.pfRequest f 0x40 1 fun m =>
    let v := m.arg 0
    if v ≥ 64 || (s.vf v).enabled then .stop .refused
    else .done (State.setVf { s with keys := s.keys + 1, vfOffset := mapErase s.vfOffset v, vfBoxes := mapErase s.vfBoxes v } v ((s.vf v).fresh (s.keys + 1)))

/-- Counter blocks of an extent (R384). -/
def blocksOfExtent (e : Nat) : List Nat := (List.range 128).map (fun i => 128 * e + i)
/-- Counters of extents reset: every minor 0, each MAJOR one more (R384, R387). -/
def resetCounters (c : NMap Nat) (es : List Nat) : NMap Nat :=
  let kept := c.filter (fun x => decide (x.1 % 65 = 64) || !(es.contains (x.1 / 65 / 128)))
  (es.flatMap blocksOfExtent).foldl (fun m b => mapAdd m (65 * b + 64) 1) kept
/-- Bytes, write-backs and poison of extents dropped: what is read next is zero (R384, R387). -/
def State.dropExtents (s : State) (es : List Nat) : State :=
  { s with mem := s.mem.filter (fun x => !(es.contains (extentOf x.1)))
           dirty := s.dirty.filter (fun g => !(es.contains (g.1 / 8192))), whole := s.whole.filter (fun g => !(es.contains (g / 8192))), poison := s.poison.filter (fun g => !(es.contains (g / 8192))) }
/-- Events at locations of extents whose contents are new count no more. -/
def State.renewExtents (s : State) (es : List Nat) : State :=
  s.renewSpots (fun x => match x with | .glob (.dev d) => es.contains (extentOf d) | _ => false)
/-- Extents with counters reset, reading zeros (R387, R388, R390). -/
def State.freshExtents (s : State) (es : List Nat) : State :=
  (State.dropExtents { s with counters := resetCounters s.counters es } es).renewExtents es
/-- One granule of each counter block of extents whose counters were reset: the tree of their new owner counts the change (R385). -/
def State.countReset (s : State) (es : List Nat) : State := s.blocksChanged (es.flatMap (fun e => (blocksOfExtent e).map (fun b => 64 * b)))
/-- A tree that ends with its owner's key (R385, R387, R390). -/
def State.dropTree (s : State) (tree : Nat) : State :=
  let mine (x : Sealed) : Bool := match x with | .node t _ _ => t == tree | .granule _ => false
  { s with nodes := s.nodes.filter (fun x => decide (x.1 / 65 / 2 ^ 23 ≠ tree)), verified := s.verified.filter (fun x => !(mine x)), broken := s.broken.filter (fun x => !(mine x)) }
/-- The extents a request names; none when there is no such extent (R380). -/
def extentRange (first n : Nat) : Option (List Nat) := if first + n ≤ 141824 then some ((List.range n).map (fun i => first + i)) else none
def State.ownsExtent (s : State) (v e : Nat) : Bool := mapGet? s.extents e == some (.vf v)

/-- MEM_GRANT (R387). -/
def execMemGrant (f : Fn) (s : State) : Host.Outcome State Fault Refusal :=
  s.pfRequest f 0x45 3 fun m =>
    match s.namedVf (m.arg 0), extentRange (m.arg 1) (m.arg 2) with
    | some v, some es =>
      if es.any (fun e => (mapGet? s.extents e).isSome) then .stop .refused
      else
        let s1 := s.freshExtents es
        .done ((State.modVf { s1 with extents := es.foldl (fun x e => mapSet x e (.vf v)) s1.extents } v (fun x => { x with extents := x.extents ++ es })).countReset es)
    | _, _ => .stop .refused

/-- Extents of a VF revoked (R387). -/
def State.revoke (s : State) (v : Nat) (es : List Nat) : State :=
  let s1 := s.dropExtents es
  State.modVf { s1 with extents := es.foldl (fun x e => mapErase x e) s1.extents } v (fun x => { x with extents := x.extents.filter (fun e => !(es.contains e)) })
/-- MEM_REVOKE (R387); every uncompleted launch of the VF counts as using its extents (log 13). -/
def execMemRevoke (f : Fn) (s : State) : Host.Outcome State Fault Refusal :=
  s.pfRequest f 0x46 3 fun m =>
    match s.namedVf (m.arg 0), extentRange (m.arg 1) (m.arg 2) with
    | some v, some es => if !es.all (fun e => s.ownsExtent v e) || s.busyVf v then .stop .refused else .done (s.revoke v es)
    | _, _ => .stop .refused

/-- Votes of VFs that have left a chiplet are removed (R412, R413). -/
def State.dropVotes (s : State) (v : Nat) : State :=
  (List.range 8).foldl (fun s c => if s.quadsOn c v = 0 && (mapGet? (s.chiplet c).votes v).isSome
    then s.modChiplet c (fun x => ({ x with votes := mapErase x.votes v }).voted) else s) s

/-- What a quadrant loses when it passes to a VF: its purse, its translation entries and those of its narrow core and its cluster, and what other owners left in its matrix unit (R323, R349, R374, R376). -/
def State.passQuadTo (s : State) (cluster q : Nat) : State :=
  let s1 := s.setPurse cluster q Purse.empty
  { s1 with tlb := mapErase (mapErase (mapErase s1.tlb (1000 + 8 * cluster + q)) (10000 + 8 * cluster + q)) (100 + cluster)
            mus := s1.mus.filter (fun x => decide (x.1 / 1024 ≠ 8 * cluster + q)) }

/-- VF_RESET (R387): everything that the VF holds is freed and its key is retired. -/
def execVfReset (f : Fn) (s : State) : Host.Outcome State Fault Refusal :=
  s.pfRequest f 0x41 1 fun m =>
    match s.namedVf (m.arg 0) with
    | none => .stop .refused
    | some v =>
      if s.busyVf v || s.windows.any (fun w => w.2.home == v) then .stop .refused
      else
        let mine := s.parts.filter (fun x => x.1 % 64 == v)
        let s1 := (s.revoke v (s.vf v).extents).dropTree v
        let s2 := mine.foldl (fun s x => (List.range 8).foldl (fun s q => if x.2.qmask.testBit q then s.passQuadTo (x.1 / 64) q else s) s) s1
        let s3 : State := { s2 with
          parts := s2.parts.filter (fun x => decide (x.1 % 64 ≠ v))
          gmOor := s2.gmOor.filter (fun x => decide (x.1 % 64 ≠ v)), amaxLost := s2.amaxLost.filter (fun x => decide (x.1 % 64 ≠ v))
          amax := s2.amax.map (fun x => (x.1, if x.2.owner == some v then { x.2 with owner := none } else x.2))
          slotTabs := s2.slotTabs.map (fun x => (x.1, x.2.map (fun b => if b == BitVec.ofNat 8 (128 + v) then 0 else b)))
          newTabs := s2.newTabs.map (fun x => (x.1, x.2.map (fun b => if b == BitVec.ofNat 8 (128 + v) then 0 else b)))
          windows := s2.windows.map (fun x => (x.1, { x.2 with members := mapErase x.2.members v }))
          peers := s2.peers.filter (fun x => decide (x.1 / 64 ≠ v))
          tlb := (s2.tlb.map (fun x => (x.1, x.2.filter (fun e => e.vf != v)))).filter (fun x => !x.2.isEmpty)
          ringCache := s2.ringCache.filter (fun x => x.1 != v)
          mus := s2.mus.filter (fun x => decide (x.1 % 1024 / 16 ≠ v))
          waits := s2.waits.filter (fun w => w.vf != v), forward := s2.forward.filter (fun x => x.1 / 2 ^ 32 != v)
          vfBoxes := mapErase s2.vfBoxes v }
        .done (((State.setVf s3 v { Vf.off with priEn := (s.vf v).priEn, priAlloc := (s.vf v).priAlloc }).licRewrite v).dropVotes v)

/-- ALLOT (R317). -/
def execAllot (f : Fn) (s : State) : Host.Outcome State Fault Refusal :=
  s.pfRequest f 0x43 2 fun m =>
    match s.namedVf (m.arg 0) with
    | none => .stop .refused
    | some v => .done ((s.modVf v (fun x => { x with allot := m.arg 1 })).licRewrite v)

/-- PART.SET's argument (R372): VF, cluster, QMASK, GMB, L1B; none when a zero bit is set. -/
structure PartArg where
  vf  : Nat
  cl  : Nat
  qm  : Nat
  gmb : Nat
  l1b : Nat
  deriving DecidableEq, Repr
def partArg (d : Nat) : Option PartArg :=
  if d ≥ 2 ^ 38 ∨ field d 29 3 ≠ 0 ∨ field d 15 1 ≠ 0 ∨ field d 6 2 ≠ 0 then none
  else some ⟨field d 0 6, field d 8 7, field d 16 8, field d 24 5, field d 32 6⟩
/-- Numbers of a cluster's quadrants in a mask. -/
def quadsIn (qm : Nat) : List Nat := (List.range 8).filter (fun q => qm.testBit q)

/-- A quadrant is idle (R372): no warp, wave or fragment of the VF on it or its narrow core, and its matrix queue is empty. -/
def State.quadIdle (s : State) (cluster vf q : Nat) : Bool :=
  !(s.agents.any (fun x => x.2.cluster == cluster && x.2.vf == vf && x.2.core.quad == q)) && s.muDepth cluster q == 0
/-- A group-memory bank is idle (R372): none of its granules is allocated. -/
def State.bankIdle (s : State) (cluster b : Nat) : Bool := (List.range 16).all (fun i => s.granuleUse cluster (16 * b + i) == 0)
/-- Everything that a VF gives up is idle (R372). -/
def State.givenUpIdle (s : State) (cluster vf : Nat) (want : PartSet) : Bool :=
  let old := s.part cluster vf
  (quadsIn old.qmask).all (fun q => want.qmask.testBit q || s.quadIdle cluster vf q)
    && old.gmb.all (fun b => want.gmb.contains b || s.bankIdle cluster b)
/-- The holding takes effect (R317, R323, R372 to R374). -/
def State.handOver (s : State) (cluster vf : Nat) (want : PartSet) : State :=
  let old := s.part cluster vf
  let gained := (quadsIn want.qmask).filter (fun q => !(old.qmask.testBit q))
  let s1 := gained.foldl (fun s q => s.passQuadTo cluster q) s
  let k := 64 * cluster + vf
  -- the cluster's counters count from the assignment on (R215)
  let s2 : State := { s1 with parts := mapPut ⟨0, [], 0⟩ s1.parts k want, gmOor := mapErase s1.gmOor k, amaxLost := mapErase s1.amaxLost k }
  (s2.licRewrite vf).dropVotes vf

/-- The banks of a holding: the VF's own first, then the lowest that no VF holds (log 16). -/
def State.banksFor (s : State) (cluster vf n : Nat) : List Nat :=
  let own := (s.part cluster vf).gmb
  let taken := (s.othersOn cluster vf).flatMap (fun p => p.gmb)
  let free := (List.range (s.split cluster)).filter (fun b => !(own.contains b) && !(taken.contains b))
  ((own ++ free).take n).foldl insertNat []

/-- PART_SET (R372): BUSY stays 1 while a part that the VF gives up is not idle. -/
def execPartSet (f : Fn) (s : State) : Host.Outcome State Fault Refusal :=
  s.pfRequest f 0x42 1 fun m =>
    match partArg (m.arg 0) with
    | none => .stop .refused
    | some a =>
      let others := s.othersOn a.cl a.vf
      let sum (g : PartSet → Nat) : Nat := (others.map g).foldl (· + ·) 0
      let n := s.split a.cl
      if !(s.vf a.vf).enabled then .stop .refused
      else if others.any (fun p => (p.qmask &&& a.qm) ≠ 0) then .stop .denied
      else if (if a.qm = 0 then a.gmb ≠ 0 ∨ a.l1b ≠ 0 else a.gmb < 1 ∨ a.l1b < 4) ∨ sum (fun p => p.gmb.length) + a.gmb > n
          ∨ sum (fun p => p.l1b) + a.l1b > 40 - n ∨ (s.vf a.vf).share = [] then .stop .refused
      else
        let want : PartSet := ⟨a.qm, s.banksFor a.cl a.vf a.gmb, a.l1b⟩
        if s.givenUpIdle a.cl a.vf want then .done (s.handOver a.cl a.vf want) else .hold s (.part a.cl a.vf want)

/-- PART_SET_HANDOVER (R372): everything given up has become idle. -/
def execPartSetHandover (f : Fn) (s : State) : Host.Outcome State Fault Refusal :=
  match (s.box f).pend with
  | some (.part c v want) => if s.givenUpIdle c v want then .next ((s.handOver c v want).answer f .done) else .next s
  | _ => .next s

/-- Slices that a VF may take from a cache chiplet: its own and those of no VF (R377). -/
def State.slicesFor (s : State) (v chiplet : Nat) : List Nat :=
  let taken := s.vfs.flatMap (fun x => if x.1 = v then [] else x.2.share)
  ((List.range 64).map (fun i => 64 * chiplet + i)).filter (fun k => !(taken.contains k))
/-- L2_SHARE (R377, R378): the list the change will install; accesses to the VF's lines are held until L2_SHARE_COMPLETE. -/
def execL2Share (f : Fn) (s : State) : Host.Outcome State Fault Refusal :=
  s.pfRequest f 0x44 2 fun m =>
    match s.namedVf (m.arg 0) with
    | none => .stop .refused
    | some v =>
      let n := m.arg 1
      let cs := (List.range 4).map (fun c => (s.slicesFor v c).take (n / 4))
      if n % 8 ≠ 0 ∨ n < 8 ∨ n > 256 ∨ cs.any (fun l => decide (l.length < n / 4)) then .stop .refused
      else .hold (s.modVf v (fun x => { x with newShare := some (cs.flatMap id) })) (.share v)

/-- The dirty lines of a VF and of its home windows are written back (R378, R384). -/
def State.flushVf (s : State) (v : Nat) : State :=
  s.writeBacks ((s.dirty.map (fun x => x.1)).filter (fun g => s.homeOf (256 * g) == some v))
/-- L2_SHARE_COMPLETE (R378): the lines are flushed, the new list takes effect, and a SHARE event is posted. -/
def execL2ShareComplete (vf : Nat) (s : State) : Host.Outcome State Fault Refusal :=
  match (s.vf vf).newShare, s.pfBox.pend with
  | some l, some (.share v) =>
    if v ≠ vf then .next s
    else .next ((((s.flushVf vf).modVf vf (fun x => { x with share := l, newShare := none })).postEvent vf 3 l.length).answer .pf .done)
  | _, _ => .next s

/-- SLOT_SET (R392). -/
def execSlotSet (f : Fn) (s : State) : Host.Outcome State Fault Refusal :=
  s.pfRequest f 0x47 2 fun m =>
    let k := m.arg 0
    let t := memRead s.hostMem (m.arg 1) 1024
    if k > 17 || t.any (fun b => b.getLsbD 6) then .stop .refused
    else .done { s with newTabs := mapSet s.newTabs k t }

/-- WIN_NEW (R388). -/
def execWinNew (f : Fn) (s : State) : Host.Outcome State Fault Refusal :=
  s.pfRequest f 0x48 3 fun m =>
    match s.namedVf (m.arg 0), extentRange (m.arg 1) (m.arg 2), (List.range 64).find? (fun w => !(s.windows.any (fun x => x.1 == w))) with
    | some v, some es, some w =>
      if !es.all (fun e => s.ownsExtent v e) then .stop .refused
      else
        let s1 := s.freshExtents es
        let s2 : State := { s1 with keys := s1.keys + 1, extents := es.foldl (fun x e => mapSet x e (.win w)) s1.extents
                                    windows := mapSet s1.windows w ⟨v, es, [(v, 3)], s1.keys + 1⟩ }
        .value ((s2.modVf v (fun x => { x with extents := x.extents.filter (fun e => !(es.contains e)) })).countReset es) w
    | _, _, _ => .stop .refused

/-- WIN_ADD (R388). -/
def execWinAdd (f : Fn) (s : State) : Host.Outcome State Fault Refusal :=
  s.pfRequest f 0x49 2 fun m =>
    let w := m.arg 0
    let d := m.arg 1
    let v := field d 0 6
    let perm := field d 8 2
    match mapGet? s.windows w with
    | none => .stop .refused
    | some x =>
      if w ≥ 64 ∨ d ≥ 2 ^ 10 ∨ field d 6 2 ≠ 0 ∨ perm % 2 = 0 ∨ (s.vf v).enabled = false
          ∨ (x.members.length ≥ 8 ∧ (mapGet? x.members v).isNone) then .stop .refused
      else .done { s with windows := mapSet s.windows w { x with members := mapSet x.members v perm } }

/-- A task of a VF holds a buffered access to a window, past its translation check (R305, R390). -/
def State.windowBusy (s : State) (w v : Nat) : Bool :=
  let inWin (l : Loc) : Bool := match l with | .dev d => mapGet? s.extents (extentOf d) == some (.win w) | .host _ => false
  s.recs.any (fun r => ((mapGet? s.launches r.2.launch).map (fun l => l.vf == v)).getD false
    && r.2.buffer.any (fun e => match e with
        | .store _ _ _ l => inWin l
        | .atom _ _ _ _ _ _ _ _ l => inWin l
        | .dep _ _ _ l => inWin l
        | _ => false))
/-- WIN_DEL (R390): the member goes at once, and BUSY stays 1 until its accesses have been performed. -/
def execWinDel (f : Fn) (s : State) : Host.Outcome State Fault Refusal :=
  s.pfRequest f 0x4A 2 fun m =>
    let w := m.arg 0
    let v := m.arg 1
    match mapGet? s.windows w with
    | none => .stop .refused
    | some x =>
      if w ≥ 64 ∨ v = x.home ∨ (mapGet? x.members v).isNone then .stop .refused
      else .hold { s with windows := mapSet s.windows w { x with members := mapErase x.members v } } (.winDel w v)
/-- WIN_DEL_DRAINED (R390). -/
def execWinDelDrained (window vf : Nat) (s : State) : Host.Outcome State Fault Refusal :=
  if s.pfBox.pend = some (.winDel window vf) ∧ s.windowBusy window vf = false then .next ((s.postEvent vf 4 window).answer .pf .done) else .next s
/-- WIN_FREE (R390). -/
def execWinFree (f : Fn) (s : State) : Host.Outcome State Fault Refusal :=
  s.pfRequest f 0x4B 1 fun m =>
    let w := m.arg 0
    match mapGet? s.windows w with
    | none => .stop .refused
    | some x =>
      if w ≥ 64 || x.members.any (fun y => y.1 != x.home) then .stop .refused
      else
        let s1 := (s.freshExtents x.extents).dropTree (64 + w)
        .done ((State.modVf { s1 with extents := x.extents.foldl (fun m e => mapSet m e (.vf x.home)) s1.extents, windows := mapErase s1.windows w }
          x.home (fun y => { y with extents := y.extents ++ x.extents })).countReset x.extents)

/-- PEER_MAP (R391): 0xFF unbinds; otherwise the peer's Dale is asked. -/
def execPeerMap (f : Fn) (s : State) : Host.Outcome State Fault Refusal :=
  s.pfRequest f 0x4C 4 fun m =>
    let i := m.arg 1
    let d := m.arg 2
    let w := m.arg 3
    match s.namedVf (m.arg 0) with
    | none => .stop .refused
    | some v =>
      if i ≥ 64 ∨ d ≥ 256 ∨ w ≥ 64 then .stop .refused
      else if d = 0xFF then .done { s with peers := mapErase s.peers (64 * v + i) }
      else .hold (s.emit (.peerAsk v i d w)) (.peer v i d w)
/-- PEER_DALE_MESSAGE (R391): the peer agrees to a binding or refuses it; a link key changes nothing that a program can reach. -/
def execPeerDaleMessage (m : PeerMsg) (s : State) : Host.Outcome State Fault Refusal :=
  match m, s.pfBox.pend with
  | .mapAgreed v i len, some (.peer v' i' d w) =>
    if v = v' ∧ i = i' then .next (State.answer { s with peers := mapSet s.peers (64 * v + i) ⟨d, w, len⟩ } .pf .done) else .next s
  | .mapRefused v i, some (.peer v' i' _ _) => if v = v' ∧ i = i' then .next (s.answer .pf .refused) else .next s
  | _, _ => .next s

/-- AMAX_SET (R134, R369): the ring is assigned and cleared. -/
def execAmaxSet (f : Fn) (s : State) : Host.Outcome State Fault Refusal :=
  s.pfRequest f 0x4D 2 fun m =>
    let r := m.arg 0
    let v := m.arg 1
    if r ≥ 64 ∨ (v ≠ 0xFF ∧ s.namedVf v = none) then .stop .refused
    else .done { s with amax := mapSet s.amax r ⟨if v = 0xFF then none else some v, List.replicate 16 0, 0⟩ }

/-- CL_SPLIT (R373). -/
def execClSplit (f : Fn) (s : State) : Host.Outcome State Fault Refusal :=
  s.pfRequest f 0x4E 2 fun m =>
    let c := m.arg 0
    let k := m.arg 1
    if c ≥ 128 ∨ k ≥ 3 ∨ s.othersOn c 64 ≠ [] then .stop .refused
    else .done { s with splits := mapPut 8 s.splits c (8 + 4 * k) }

end Sys2Proof.Machine
end

