-- ==== Sys2Proof/Machine/Ports.lean ====
section
/-! DEFINITION. What arrives from the host and from peers: ATS and PRI answers, invalidations, register writes, BAR and peer-window accesses, SPDM; link slots and the journal of VF time (R281, R288, R316, R350 to R361, R368, R392, R394, R418, R419, R423, R427). -/

namespace Sys2Proof.Machine

/-- The entry that caches an answer: at its own size when that is 64 KiB, 2 MiB or 1 GiB, otherwise for the one 64 KiB page (R350). -/
def answerEntry (vf pasid page tbase size : Nat) (r w x : Bool) (win : Option Nat) : TlbEntry :=
  let va := page * 2 ^ 16
  if size = 2 ^ 16 ∨ size = 2 ^ 21 ∨ size = 2 ^ 30 then ⟨vf, pasid, va / size * size, size, tbase / size * size, r, w, x, win⟩
  else ⟨vf, pasid, va, 2 ^ 16, tbase + va % size, r, w, x, win⟩
def TlbEntry.overlaps (e : TlbEntry) (vf : Nat) (pasid : Option Nat) (base size : Nat) : Bool :=
  e.vf == vf && (match pasid with | some p => e.pasid == p | none => true) && decide (e.base < base + size) && decide (base < e.base + e.size)
/-- The window of a VF in which a translated range lies (R349, R380). -/
def State.windowAt (s : State) (vf t n : Nat) : Option Nat :=
  if s.bar2 ≤ t ∧ t + n ≤ s.bar2 + devBytes then
    let d := t - s.bar2
    match mapGet? s.extents (extentOf d) with
    | some (.win w) =>
      if ((mapGet? s.windows w).bind (fun x => mapGet? x.members vf)).isSome
          && (List.range (extentOf (d + n - 1) + 1 - extentOf d)).all (fun i => mapGet? s.extents (extentOf d + i) == some (.win w)) then some w else none
    | _ => none
  else none
/-- A translation request that waited to be sent, when one of its chiplet's outstanding ones has ended (R350). -/
def State.sendAsk (s : State) (chiplet : Nat) : State :=
  match s.ats.findIdx? (fun r => r.chiplet == chiplet && r.queued) with
  | none => s
  | some i => match s.ats[i]? with
    | some r => State.emit { s with ats := s.ats.set i { r with queued := false } } (.atsRequest r.vf r.pasid r.page r.chiplet r.exec)
    | none => s
/-- An entry put into caches in place of those it overlaps. -/
def State.fillTlb (s : State) (e : TlbEntry) (caches : List Nat) : State :=
  { s with tlb := caches.foldl (fun m k =>
      mapSet m k ((mapGetD m k []).filter (fun x => !(x.overlaps e.vf (some e.pasid) e.base e.size)) ++ [e])) s.tlb }

/-- A task in PAGE: back to READY or WAITING once each page its lane needed is usable, failed when one fails, asked for again when one is still not present (R356 to R358). -/
def State.resumeTask (s : State) (key : Nat) : State :=
  match s.rec? key with
  | none => s
  | some r =>
    let who : Waiter := .task key
    match s.waits.find? (fun w => w.who == who) with
    | none => s
    | some w =>
      let caches := [key / 4096 / 16]
      let rs := w.pages.map (fun p => (p, s.xlate who caches w.vf w.pasid (p.page * 2 ^ 16) p.need))
      let failed := rs.filter (fun x => match x.2 with | .failed => true | _ => false)
      let missing := rs.filter (fun x => match x.2 with | .miss => true | _ => false)
      let absent := rs.filterMap (fun x => match x.2 with | .absent k => some (x.1.page, k) | _ => none)
      match failed with
      | x :: _ =>
        let va := (r.pages.find? (fun a => pageOf a == x.1.page)).getD (x.1.page * 2 ^ 16)
        (s.forget who).abortRec key (.trap ⟨cXLAT, false, 0, BitVec.ofNat 64 va⟩)
      | [] =>
        if !missing.isEmpty then missing.foldl (fun s x => s.ask who caches w.vf w.pasid x.1.page x.1.need.x) s
        else if !absent.isEmpty then (s.pageEvent who w.vf w.pasid absent).await who w.vf w.pasid absent
        else (s.forget who).abortRec key .requeue

/-- The slot in which the path with a wait's name is parked; none while it is in the stack. -/
def State.parkedAt (s : State) (n : Nat) : Option (Nat × Bool) :=
  let here (x : Slot) : Bool := match x.wait with | .page k _ _ => k == n | _ => false
  s.agents.findSome? (fun x => if here x.2.slotA then some (x.1, false) else if here x.2.slotB then some (x.1, true) else none)
/-- A waiter whose groups have all been answered goes on; a path parked in the stack does when it is restored, and commands of engines and matrix units look again by themselves. -/
def State.wake (s : State) (who : Waiter) : State :=
  if s.pageHeld who then s
  else match who with
    | .park n => (match s.parkedAt n with | some x => s.unpark x.1 x.2 | none => s)
    | .task key => s.resumeTask key
    | _ => s

/-- The chiplet whose request an answer is for. -/
def answerChiplet (a : AtsAnswer) : Nat := match a with | .granted c _ _ _ _ _ => c | .failed c => c
/-- A page found not present is one of the event that the same command has formed in this cycle, while its group is still queued and has room (R364). -/
def Vf.joinable (v : Vf) (time pasid : Nat) (rank : List Nat) (g : PageGroup) : Bool :=
  g.prgi.isNone && g.stamp == time && g.pasid == pasid && g.rank == rank && decide (g.pages.length < min 64 v.priAlloc)
/-- An answer says that a page of a GATH or a SCAT is not present: the stream engine finds it in this cycle, and its event is of this cycle (R358, R364). -/
def State.streamFinds (s : State) (who : Waiter) (pasid page : Nat) : State :=
  match who with
  | .eng cl true cmd =>
    match (s.engQ cl true).find? (fun c => c.id == cmd) with
    | none => s
    | some c =>
      let on (sz : Nat) (l : List (Nat × Nat)) (need : Need) : State :=
        match l.find? (fun x => c.lanes.getLsbD x.1 && !(c.done.getLsbD x.1) && x.2 % sz == 0 && pageOf x.2 == page) with
        | none => s
        | some x =>
          if s.pageWaits who pasid page || !s.ctxRuns c.vf c.ctx then s
          else match s.xlate who (clusterCaches cl) c.vf pasid x.2 need with
            | .absent k =>
              let v := s.vf c.vf
              let s1 := match v.groups.findIdx? (fun g => v.joinable s.time pasid (s.eventRank who) g), v.groupFor pasid (page, k) with
                | some i, none => s.setVf c.vf { v with groups := v.groups.modify i (fun g => { g with pages := insertPage g.pages (page, k) }) }
                | _, _ => s.pageEvent who c.vf pasid [(page, k)]
              s1.await who c.vf pasid [(page, k)]
            | _ => s
      match c.op with
      | .gath gm log _ elems => if gm then s else on (2 ^ log) elems needR
      | .scat gm log _ elems => if gm then s else on (2 ^ log) (elems.map (fun x => (x.1, x.2.1))) needW
      | _ => s
  | _ => s

/-- ATS_COMPLETION (R350, R351, R361): the answer to an outstanding request of its chiplet is cached on its way, or fails its waiters; that of a poisoned request is discarded. An answer of less than the smallest translation unit is none (log 11). -/
def execAtsCompletion (vf pasid page : Nat) (ans : AtsAnswer) (s : State) : Host.Outcome State Fault Refusal :=
  match s.ats.findIdx? (fun r => r.vf == vf && r.pasid == pasid && r.page == page && r.chiplet == answerChiplet ans && !r.queued && (r.poison.isEmpty || r.stale)) with
  | none => .next s
  | some i =>
    match s.ats[i]? with
    | none => .next s
    | some r =>
      if r.stale then
        if r.poison.isEmpty then
          .next (State.emit { s with ats := s.ats.modify i (fun r => { r with stale := false }) } (.atsRequest vf pasid page r.chiplet r.exec))
        else .next { s with ats := s.ats.modify i (fun r => { r with stale := false }) }
      else
        let s1 := State.sendAsk { s with ats := s.ats.eraseIdx i } r.chiplet
        let tasks := r.waiters.filter (fun w => match w with | .task _ => true | _ => false)
        match ans with
        | .failed _ =>
          let hit := r.waiters.filter (fun w => match w with | .queue _ => false | _ => true)
          let s2 : State := { s1 with fails := s1.fails ++ hit.map (fun w => (w, pasid, page)) }
          .next (tasks.foldl State.wake s2)
        | .granted _ tbase size rd wr x =>
          if size < 2 ^ 16 then .next s
          else
            let e := answerEntry vf pasid page tbase size rd wr x none
            .next (r.waiters.foldl (fun s w => s.streamFinds w pasid page) (tasks.foldl State.wake ((s1.fillTlb { e with win := s.windowAt vf e.tbase e.size } r.fill).usable e)))

/-- Messages of a VF's groups that are outstanding (R353). -/
def Vf.messages (v : Vf) : Nat := ((v.groups.filter (fun g => g.prgi.isSome)).map (fun g => g.pages.length)).foldl (· + ·) 0
/-- The lowest group index that no outstanding group holds (R353). -/
def Vf.freePrgi (v : Vf) : Option Nat := (List.range 64).find? (fun n => !(v.groups.any (fun g => g.prgi == some n)))

/-- The queued group of a VF that is sent next, if the VF's limits let it go now: its place, its index, and the pages that fit (R353). -/
def State.sendable (s : State) (vf : Nat) : Option (Nat × Nat × PageGroup) :=
  let v := s.vf vf
  match v.groups.findIdx? (fun g => g.prgi.isNone), v.freePrgi with
  | some i, some n => (v.groups[i]?).bind (fun g =>
      if s.priReady vf && decide (v.messages + (g.pages.take v.priAlloc).length ≤ v.priAlloc) then some (i, n, g) else none)
  | _, _ => none
/-- PAGE_REQUEST_SEND (R353, R355): the oldest queued group, unless another VF's that may go was detected before it; split when the allocation has become smaller than it, and what waits for the rest then waits for the new group. -/
def execPageRequestSend (vf : Nat) (s : State) : Host.Outcome State Fault Refusal :=
  let v := s.vf vf
  match s.sendable vf with
  | none => .next s
  | some (i, n, g) =>
    if s.vfs.any (fun w => w.1 != vf && (match s.sendable w.1 with | some x => x.2.2.before g | none => false)) then .next s
    else
      let now := g.pages.take v.priAlloc
      let rest := g.pages.drop v.priAlloc
      let sent : PageGroup := { g with pages := now, prgi := some n }
      let s1 : State :=
        if rest.isEmpty then s.setVf vf { v with groups := v.groups.set i sent }
        else
          let new : PageGroup := { g with name := s.nextId, pages := rest }
          State.setVf { s with
            nextId := s.nextId + 1
            waits := s.waits.map (fun w => { w with pages := w.pages.map (fun p => if p.group = some g.name ∧ rest.any (fun q => q.1 == p.page) then { p with group := some s.nextId } else p) }) }
            vf { v with groups := v.groups.take i ++ [sent, new] ++ v.groups.drop (i + 1) }
      .next (now.zipIdx.foldl (fun s x => s.emit (.pageRequest vf g.pasid x.1.1 x.1.2 (x.2 + 1 == now.length) n)) s1)

/-- The outstanding group with an index. -/
def Vf.groupOf (v : Vf) (prgi : Nat) : Option PageGroup := v.groups.find? (fun g => g.prgi == some prgi)
/-- Waiters on some of the groups named (R355). -/
def State.waitersOn (s : State) (gs : List Nat) : List Waiter :=
  (s.waits.filter (fun w => w.pages.any (fun p => match p.group with | some n => gs.contains n | none => false))).map (fun w => w.who)
/-- A waiter's pages once the groups named have been answered; a Success counts for each (R356). -/
def PageWait.answered (w : PageWait) (gs : List Nat) (success : Bool) : PageWait :=
  { w with pages := w.pages.map (fun p => match p.group with
      | some n => if gs.contains n then { p with group := none, succ := if success then p.succ + 1 else p.succ } else p
      | none => p) }

/-- PRG_RESPONSE_SUCCESS (R355, R356): the pages are translated again, so cached answers that lack what was asked for are dropped (log 11), and those that wait on the group go on. -/
def execPrgResponseSuccess (vf prgi : Nat) (s : State) : Host.Outcome State Fault Refusal :=
  match (s.vf vf).groupOf prgi with
  | none => .next s
  | some g =>
    let who := s.waitersOn [g.name]
    let s1 := s.modVf vf (fun v => { v with groups := v.groups.filter (fun x => x.prgi != some prgi) })
    let s2 : State := { s1 with
      tlb := (s1.tlb.map (fun c => (c.1, c.2.filter (fun e => !(g.pages.any (fun q => e.covers vf g.pasid (q.1 * 2 ^ 16) && (e.lacks q.2).any)))))).filter (fun c => !c.2.isEmpty)
      waits := s1.waits.map (fun w => w.answered [g.name] true) }
    .next (who.foldl State.wake s2)

/-- Groups fail: every event that waits on one fails on the pages for which it does (R355, R357). -/
def State.failGroups (s : State) (vf : Nat) (gs : List PageGroup) : State :=
  let names := gs.map (fun g => g.name)
  let who := s.waitersOn names
  let new := s.waits.flatMap (fun w =>
    (w.pages.filter (fun p => match p.group with | some n => names.contains n | none => false)).map (fun p => (w.who, w.pasid, p.page)))
  let s1 := s.modVf vf (fun v => { v with groups := v.groups.filter (fun g => !(gs.contains g)) })
  who.foldl State.wake { s1 with fails := s1.fails ++ new, waits := s1.waits.map (fun w => w.answered names false) }
/-- PRG_RESPONSE_INVALID (R355, R357). -/
def execPrgResponseInvalid (vf prgi : Nat) (s : State) : Host.Outcome State Fault Refusal :=
  match (s.vf vf).groupOf prgi with
  | none => .next s
  | some g => .next (s.failGroups vf [g])
/-- PRG_RESPONSE_FAILURE (R355): every group of the VF fails, and no page request is sent until Enable has been cleared and set. -/
def execPrgResponseFailure (vf prgi : Nat) (s : State) : Host.Outcome State Fault Refusal :=
  match (s.vf vf).groupOf prgi with
  | none => .next s
  | some _ => .next ((s.modVf vf (fun v => { v with priStop := true })).failGroups vf (s.vf vf).groups)
/-- PRI_ENABLE (R355): the host clears Enable and sets it. -/
def execPriEnable (vf : Nat) (s : State) : Host.Outcome State Fault Refusal :=
  .next (s.modVf vf (fun v => { v with priEn := true, priStop := false }))

/-- An outstanding request whose answer may translate an address of a range: the largest answer covers the aligned 1 GiB that holds its page (R350, R361; log 33). -/
def AtsReq.inRange (r : AtsReq) (vf : Nat) (pasid : Option Nat) (base size : Nat) : Bool :=
  let lo := r.page * 2 ^ 16 / 2 ^ 30 * 2 ^ 30
  !r.queued && r.vf == vf && (match pasid with | some p => r.pasid == p | none => true) && decide (lo < base + size) && decide (base < lo + 2 ^ 30)
/-- INVALIDATION_REQUEST (R360, R361): entries go at once, outstanding requests are poisoned; at most 32 of a VF. -/
def execInvalidationRequest (vf : Nat) (pasid : Option Nat) (base size : Nat) (s : State) : Host.Outcome State Fault Refusal :=
  match (List.range 32).find? (fun t => !(s.invals.any (fun i => i.vf == vf && i.tag == t))) with
  | none => .next s
  | some tag =>
    .next { s with
      tlb := (s.tlb.map (fun c => (c.1, c.2.filter (fun e => !(e.overlaps vf pasid base size))))).filter (fun c => !c.2.isEmpty)
      ats := s.ats.map (fun r => if r.inRange vf pasid base size then { r with poison := r.poison ++ [tag], stale := r.stale || r.poison.isEmpty } else r)
      invals := s.invals ++ [(⟨vf, tag, pasid, base, size⟩ : Inval)] }

/-- A task holds a buffered access to a range, translated before it commits (R305, R360). -/
def State.rangeBusy (s : State) (i : Inval) : Bool :=
  let within (va n : Nat) : Bool := decide (va < i.base + i.size) && decide (i.base < va + n)
  s.recs.any (fun r => match mapGet? s.launches r.2.launch with
    | none => false
    | some l => l.vf == i.vf && (match i.pasid with | some p => s.pasidOf l.vf l.ctx == p | none => true)
      && r.2.buffer.any (fun e => match e with
          | .store .glob _ bs _ => bs.any (fun b => within b.1 1)
          | .atom .glob _ _ w64 va _ _ _ _ => within va (if w64 then 8 else 4)
          | .dep _ va _ _ => within va 8
          | _ => false))
/-- INVALIDATION_COMPLETION (R360, R361): sent once every access that used a removed entry has been performed; poisoned requests are then sent again. -/
def execInvalidationCompletion (vf tag : Nat) (s : State) : Host.Outcome State Fault Refusal :=
  match s.invals.find? (fun i => i.vf == vf && i.tag == tag) with
  | none => .next s
  | some i =>
    if s.rangeBusy i then .next s
    else
      let freed := s.ats.filter (fun r => r.vf == vf && r.poison == [tag] && !r.stale)
      let s1 : State := { s with
        invals := s.invals.filter (fun x => x != i)
        ats := s.ats.map (fun r => if r.vf = vf then { r with poison := r.poison.filter (fun t => t != tag) } else r) }
      .next (freed.foldl (fun s r => s.emit (.atsRequest r.vf r.pasid r.page r.chiplet r.exec)) (s1.emit (.invalDone vf tag)))

/-- Every byte of a range of device addresses lies in an extent with an owner. -/
def State.owned (s : State) (d n : Nat) : Bool :=
  decide (d + n ≤ devBytes) && (List.range (extentOf (d + n - 1) + 1 - extentOf d)).all (fun i => (mapGet? s.extents (extentOf d + i)).isSome)
/-- The host, and a peer device, as threads (R267, R281, R288). -/
def hostParty : Party := ⟨.host, 0, none, 0, none, 0⟩
def peerParty (issuer : Nat) : Party := ⟨.peer issuer, 0, none, 0, none, 0⟩
/-- A host read: strong at `.sys`, after the completions whose numbers it returns (R288). -/
def State.hostSight (s : State) (l : Loc) (n : Nat) : State × View :=
  let v := s.sight [(Ev.of hostParty (.at 3), l.spots n)]
  let done (e : Ev) : List Nat := e.reads.filterMap (fun y => y.2.filter (fun k => v.1.events.any (fun w => w.id == k && (match w.party.tid with | .launch _ => true | _ => false))))
  match v.1.events with
  | e :: r => if e.id = s.nextEv then ({ v.1 with events := { e with after := done e } :: r }, v.2) else v
  | [] => v
/-- HOST_BAR_ACCESS (R288, R378, R380, R386, R424): held while the lines' share changes; an access that reaches no tenant memory, or meets poison, moves no bytes (log 11). -/
def execHostBarAccess (acc : BarAccess) (s : State) : Host.Outcome State Fault Refusal :=
  match acc with
  | .read d n =>
    if n = 0 ∨ s.owned d n = false then .next { s with hostRead := [] }
    else if s.heldLoc (.dev d) then .next s
    else if s.sound (.dev d) n then
      let v := s.hostSight (.dev d) n
      .next { v.1 with hostRead := s.loadIn v.2 (.dev d) n }
    else let x := s.struckAt [] d n; .next (State.reportPoison { s with hostRead := [] } ((s.homeOf x).getD 0) (.dev x))
  | .write d bs =>
    if bs = [] ∨ s.owned d bs.length = false then .next s
    else if s.heldLoc (.dev d) then .next s
    else if s.writeSound [(.dev d, bs.length)] (.dev d, bs.length) then .next ((s.clearPoison [(.dev d, bs.length)]).put (Ev.of hostParty (.at 3)) (.dev d) bs)
    else let x := s.struckAt [(.dev d, bs.length)] d bs.length; .next (s.reportPoison ((s.homeOf x).getD 0) (.dev x))

/-- n bytes of a window from an offset on, as device addresses within extents; none past its end. -/
def Window.pieces (w : Window) (off n : Nat) : Option (List (Nat × Nat)) :=
  if n = 0 ∨ off + n > 2 ^ 21 * w.extents.length then none
  else some ((List.range ((off + n - 1) / 2 ^ 21 + 1 - off / 2 ^ 21)).map (fun i =>
    let k := off / 2 ^ 21 + i
    let lo := max off (2 ^ 21 * k)
    (2 ^ 21 * ((w.extents[k]?).getD 0) + lo % 2 ^ 21, min (off + n) (2 ^ 21 * (k + 1)) - lo)))
/-- The acquire or release of a peer's command, performed with its access here (R281). -/
def State.peerFence (s : State) (issuer : Nat) (on : Bool) (c : Access) : State := if on then s.note (Ev.of (peerParty issuer) c) else s
/-- PEER_WINDOW_ACCESS (R281, R391): a peer's CPY reads or writes a local window. -/
def execPeerWindowAccess (window : Nat) (acc : PeerAccess) (s : State) : Host.Outcome State Fault Refusal :=
  match mapGet? s.windows window with
  | none => .next s
  | some w =>
    if (s.vf w.home).newShare.isSome then .next s
    else match acc with
      | .read k acq rel off n =>
        match w.pieces off n with
        | none => .next s
        | some ps =>
          match ps.find? (fun p => !s.sound (.dev p.1) p.2) with
          | none =>
            let s := s.peerFence k acq (.acquire 3)
            let v := s.sight (ps.map (fun p => (Ev.of (peerParty k) (.at 3), (Loc.dev p.1).spots p.2)))
            .next ((v.1.peerFence k rel (.release 3)).emit (.peerData (ps.flatMap (fun p => s.loadIn v.2 (.dev p.1) p.2))))
          | some p => .next ((s.reportPoison w.home (.dev (s.struckAt [] p.1 p.2))).emit (.peerData []))
      | .write k acq rel off bs =>
        match w.pieces off bs.length with
        | none => .next s
        | some ps =>
          let ws := ps.map (fun p => (Loc.dev p.1, p.2))
          match ps.find? (fun p => !s.writeSound ws (.dev p.1, p.2)) with
          | none =>
            let t := ps.foldl (fun (x : State × List Byte) p => (x.1.put (Ev.of (peerParty k) (.at 3)) (.dev p.1) (x.2.take p.2), x.2.drop p.2)) ((s.peerFence k acq (.acquire 3)).clearPoison ws, bs)
            .next (t.1.peerFence k rel (.release 3))
          | some p => .next (s.reportPoison w.home (.dev (s.struckAt ws p.1 p.2)))

/-- An answer that the device signs: the words, and its signature over their digest (R419; log 21). -/
def State.signed (s : State) (ws : List DWord) : List DWord :=
  ws ++ (List.range 12).map (fun i => Config.signature (sha384 (ws.flatMap (fun w => bytesOf w.toNat 8))) s.fresh i)
/-- SPDM_REQUEST (R419, R420, R423): the host's session, signed measurements, the dump and TDISP within the session; and the session with another Dale that the host relays. What TDISP asks and answers no rule says (log 21). -/
def execSpdmRequest (m : SpdmMsg) (s : State) : Host.Outcome State Fault Refusal :=
  if !s.up then .next s
  else
    match m with
    | .openSession => .next { s with spdm := true }
    | .closeSession => .next { s with spdm := false }
    | .relaySession on => .next { s with mig := { s.mig with session := on } }
    | .tdisp ws => if s.spdm then .next (s.emit (.spdm m (Config.tdispAnswer ws s.sent.length))) else .next (s.emit (.spdm m []))
    | .measure k =>
      if k = 3 then .next (s.emit (.spdm m (s.signed [BitVec.ofNat 64 s.fw.minSvn])))
      else if k = 1 then .next (s.emit (.spdm m (s.signed (sha384 Config.bootRom))))
      else if k = 2 then .next (s.emit (.spdm m (s.signed (sha384 (s.fw.flash.take (s.fw.flash.length - 96))))))
      else if k = 4 then .next (s.emit (.spdm m (s.signed (sha384 Config.securityConfig))))
      else .next (s.emit (.spdm m []))
    | .readDump =>
      match s.spdm, s.dump with
      | true, some d => .next (s.emit (.dumped d ((List.range 6).map (fun i => Config.dumpWord d.number i))))
      | _, _ => .next (s.emit (.spdm m []))

/-- SLOT_OPEN (R392, R394): the slot that the time base has reached opens; the first of a frame installs the new tables. -/
def execSlotOpen (slot : Nat) (s : State) : Host.Outcome State Fault Refusal :=
  let k := s.time / 64
  if k ≤ s.slot ∨ k % 1024 ≠ slot then .next s
  else if k / 1024 = s.slot / 1024 then .next { s with slot := k }
  else .next { s with slot := k, slotTabs := s.newTabs.foldl (fun m x => mapSet m x.1 x.2) s.slotTabs, newTabs := [] }

/-- VF_TIME_JOURNAL (R427): the VF time of every enabled VF. -/
def execVfTimeJournal (s : State) : Host.Outcome State Fault Refusal :=
  .next s.jotTimes

end Sys2Proof.Machine
end

