-- ==== Sys2Proof/Machine/Preempt.lean ====
section
/-! DEFINITION. Pre-emption: halt, the save area, claims, resumption and fills (R308, R359, R395 to R408). -/

namespace Sys2Proof.Machine

/-- The halt of a context is requested (R396, R399): its slots issue no more, and the waves' non-irrevocable tasks are requeued. -/
def State.haltCtx (s : State) (vf ctx : Nat) : State :=
  (s.agentsOf vf ctx).foldl (fun s x => if x.2.isWave then s.abortAll x.1 (fun _ => .requeue) none else s)
    (s.setCtxSt vf ctx .halting)
/-- HALT (R395): ignored in any state but RUN. -/
def execHalt (vf ctx : Nat) (s : State) : Host.Outcome State Fault Refusal :=
  match s.ctx? vf ctx with
  | none => .next s
  | some c => if c.st = .run then .next (s.haltCtx vf ctx) else .next s

/-- What a read or a write of the save area meets (R402). -/
inductive Saved where
  | wait (s : State)
  | fail (cause va : Nat)
  | go (l : List (Acc × Loc))
/-- Accesses to ranges of the save area of a context, through the translation caches of a cluster's chiplet (R402). -/
def State.savePlan (s : State) (vf ctx cluster : Nat) (write : Bool) (rs : List (Nat × Nat)) : Saved :=
  let who : Waiter := .save vf ctx
  let pasid := s.pasidOf vf ctx
  if s.pageHeld who then .wait s
  else match s.plan who [cluster / 16] vf pasid (if write then needW else needR) (rs.flatMap (fun r => rangeAccs 0 r.1 r.2)) with
    | .fail bad => (match bad with | x :: _ => .fail cXLAT x.va | [] => .wait s)
    | .miss l => .wait (l.foldl (fun s x => s.ask who [cluster / 16] vf pasid (pageOf x.va) false) s)
    | .absent l => .wait ((s.pageEvent who vf pasid (pagesOf l)).await who vf pasid (pagesOf l))
    | .go l =>
      let ws := l.map (fun x => (x.2, x.1.n))
      let ok (x : Acc × Loc) : Bool := if write then s.writeSound ws (x.2, x.1.n) else s.sound x.2 x.1.n
      if l.any (fun x => s.heldLoc x.2) then .wait s
      else match l.find? (fun x => !ok x) with
        | some x => .fail cMEMINT (x.1.va / 256 * 256)
        | none => .go l
/-- Bytes of ranges. -/
def State.saveRead (s : State) (l : List (Acc × Loc)) : List Byte := l.flatMap (fun x => s.load x.2 x.1.n)
def State.saveWrite (s : State) (l : List (Acc × Loc)) (bs : List Byte) : State :=
  let s := s.renewSpots (fun x => l.any (fun y => (y.2.spots y.1.n).contains x))
  (l.foldl (fun (y : State × List Byte) x => (y.1.store x.2 (y.2.take x.1.n), y.2.drop x.1.n)) (s.clearPoison (l.map (fun x => (x.2, x.1.n))), bs)).1

/-- An entry of the divergence stack, or a path, in the format of R189: position as an offset from the code base. -/
def entryBytes (base : DWord) (kind : Nat) (mask : Mask) (pos : Pos) (low : Nat) (jix : Jix) : List Byte :=
  let j := match jix with | .none => 0xFFFF | .own i => i | .parent i => i
  bytesOf mask.toNat 8 ++ bytesOf ((pos.hdr - base).toNat / 4 * 128 + low) 4 ++ bytesOf (j * 2 ^ 16 + kind) 4
def Entry.bytes (e : Entry) (base : DWord) : List Byte :=
  match e.kind with
  | .path => entryBytes base 0 e.mask e.pos e.pos.ix e.jix
  | .join => entryBytes base 1 e.mask e.pos e.pend e.jix
  | .call => entryBytes base 2 e.mask e.pos e.pend e.jix
  | .retired => bytesOf 0 12 ++ bytesOf 3 4
/-- SLOTA or SLOTB (R404). -/
def Slot.bytes (x : Slot) (base : DWord) : List Byte :=
  match x.path with
  | some p => entryBytes base 0 p.mask p.pos p.pos.ix p.jix
  | none => bytesOf 0 12 ++ bytesOf 3 4

/-- Lanes of an agent's register image, in its order (R403). -/
def Agent.imageLanes (a : Agent) : List Nat :=
  match a.core, a.isFrag with
  | .wide _ _, _ => List.range a.width
  | .narrow _, true => lanesOf a.started
  | .narrow _, false => List.range 4
/-- Lanes of one part of the image: all on a wide core, four of each narrow context. -/
def Agent.imageParts (a : Agent) : List (List Nat) := if a.core.isWide then [a.imageLanes] else chunksOf 2 4 a.imageLanes
/-- Where registers r to r + n - 1 of each part lie in the cluster record (R403). -/
def Agent.imageRanges (a : Agent) (rec' : Nat) (r n : Nat) : List (Nat × Nat) :=
  match a.core with
  | .wide _ _ => [(rec' + 0x4000 * recordIndex a.core ((a.units.head?).getD 0) + 4 * a.width * r, 4 * a.width * n)]
  | .narrow k => (a.units.take a.imageParts.length).map (fun u => (rec' + 0x300000 + 0x1000 * (8 * k + u) + 16 * r, 16 * n))
/-- The bytes of those registers; lanes that do not exist are zero. -/
def Agent.imageBytes (a : Agent) (r n : Nat) : List Byte :=
  a.imageParts.flatMap (fun ls => (List.range n).flatMap (fun i =>
    (if a.core.isWide then ls else ls ++ List.replicate (4 - ls.length) 64).flatMap (fun L => bytesOf (if L < 64 then (a.v (r + i) L).toNat else 0) 4)))
/-- Registers taken from the bytes of an image. -/
def Agent.fromImage (a : Agent) (r n : Nat) (bs : List Byte) : Agent :=
  let width := if a.core.isWide then a.width else 4
  a.imageParts.zipIdx.foldl (fun a x =>
    (List.range n).foldl (fun a i =>
      x.1.zipIdx.foldl (fun a y =>
        a.setV (r + i) y.1 (BitVec.ofNat 32 (ofBytes ((bs.drop (4 * (width * (n * x.2 + i) + y.2))).take 4)))) a) a) a

/-- Bytes the device writes in a format of its own (R403, R404). -/
def freeBytes (at' n : Nat) : List Byte := (List.range n).map (fun i => Config.freeByte (at' + i))
/-- The control record of an agent (R404); the draws of its last part begin at the argument. -/
def Agent.controlRecord (a : Agent) (base : DWord) (draw : Nat) : List Byte :=
  let pred := a.imageLanes.map (fun L => BitVec.ofNat 8 ((List.range 8).foldl (fun n i => if (a.p i).getLsbD L then n + 2 ^ i else n) 0))
  let bit (b : Bool) (n : Nat) : Nat := if b then 2 ^ n else 0
  let bar (x : Slot) : Option Nat := match x.wait with | .bar b _ => some b | .barArv b _ _ => some b | .barSent b _ => some b | _ => none
  let page (x : Slot) : Bool := match x.wait with | .page _ _ _ => true | .fill => true | _ => false
  let hs : Bool := match a.handler with | some h => a.handlerSlot h | none => false
  let w := 2 ^ 16 * a.stack.length + 2 ^ 12 * (bar a.slotA).getD 0 + 2 ^ 8 * (bar a.slotB).getD 0 + bit (bar a.slotA).isSome 7 + bit (bar a.slotB).isSome 6
    + bit (page a.slotA) 5 + bit (page a.slotB) 4 + bit a.handler.isSome 3 + bit hs 2
  (List.range 128).flatMap (fun k => bytesOf (a.s k).toNat 4)
    ++ (pred ++ List.replicate (64 - pred.length) 1)
    ++ a.slotA.bytes base ++ a.slotB.bytes base
    ++ (List.range 12).flatMap (fun f => bytesOf (a.flag f) 1) ++ bytesOf w 4
    ++ bytesOf a.fpc.toNat 4 ++ bytesOf a.xth.toNat 4 ++ bytesOf a.tix.toNat 4 ++ bytesOf a.tcause.toNat 4
    ++ bytesOf a.tpc.toNat 8 ++ bytesOf a.taddr.toNat 8 ++ bytesOf a.sbase.toNat 8 ++ bytesOf a.sshift.toNat 4 ++ bytesOf a.sfmt.toNat 4
    ++ bytesOf a.stgMap.toNat 4 ++ bytesOf a.stgBase 1 ++ bytesOf 0 3 ++ bytesOf a.wdc 8 ++ freeBytes draw 1360
/-- A join record's number in an image, in the form in which the agent had one there (R189, R404). -/
def jixOf (old : Jix) (j : Nat) : Jix := if j = 0xFFFF then .none else match old with | .parent _ => .parent j | _ => .own j
/-- The position of an image's word: its header, and its low 7 bits (R189). -/
def posOf (base : DWord) (w : Nat) : DWord × Nat := (base + BitVec.ofNat 64 (4 * (w / 128)), w % 128)
/-- A slot from SLOTA or SLOTB (R404). -/
def Slot.fromBytes (x : Slot) (base : DWord) (bs : List Byte) : Slot :=
  let n := ofBytes bs
  if field n 96 2 = 3 then { x with path := none }
  else
    let p := posOf base (field n 64 32)
    { x with path := some ⟨⟨p.1, p.2⟩, BitVec.ofNat 64 (field n 0 64), jixOf ((x.path.map (fun q => q.jix)).getD .none) (field n 112 16), .header⟩ }
/-- A stack entry from its image; whether a handler holds it, and what it waits for, are the device's own (R189; log 19). -/
def Entry.fromBytes (old : Option Entry) (base : DWord) (bs : List Byte) : Entry :=
  let n := ofBytes bs
  let p := posOf base (field n 64 32)
  let kind : EntryKind := match field n 96 2 with | 0 => .path | 1 => .join | 2 => .call | _ => .retired
  let j := jixOf ((old.map (fun e => e.jix)).getD .none) (field n 112 16)
  ⟨kind, ⟨p.1, if kind = .path then p.2 else 0⟩, BitVec.ofNat 64 (field n 0 64), if kind = .path then 0 else p.2, j, (old.map (fun e => e.held)).getD false, (old.map (fun e => e.wait)).getD .none⟩
/-- The wait of a slot from the record's bits: at BAR, or parked; which generation, message or page is the device's own (R404; log 19). -/
def Wait.fromRecord (old : Wait) (bar page : Bool) (b : Nat) : Wait :=
  match old with
  | .bar _ g => if bar then .bar b g else .none
  | .barArv _ g l => if bar then .barArv b g l else .none
  | .barSent _ t => if bar then .barSent b t else .none
  | .page _ _ _ => if page then old else .none
  | .fill => if page then .fill else .none
  | w => w
/-- Entries in the stack that a control record states (R404). -/
def recordDepth (bs : List Byte) : Nat := ofBytes ((bs.drop 0x26E).take 2)
/-- What resumption takes from a control record and from the stack image: scalar registers, predicates, paths, flag counters, waits, handler mode, control registers, the staging descriptor and the watchdog count (R404, R406); the rest comes from the device's own part (log 19). -/
def Agent.fromRecord (a : Agent) (base : DWord) (bs stack : List Byte) : Agent :=
  let num (at' n : Nat) : Nat := ofBytes ((bs.drop at').take n)
  let w (at' : Nat) : Word := BitVec.ofNat 32 (num at' 4)
  let d (at' : Nat) : DWord := BitVec.ofNat 64 (num at' 8)
  let lanes := a.imageLanes.zipIdx
  let a1 := (List.range 128).foldl (fun a k => a.setS k (w (4 * k))) a
  let a2 := (List.range 8).foldl (fun a i => lanes.foldl (fun a x => a.setP i (laneBit x.1) (if (num (0x200 + x.2) 1).testBit i then laneBit x.1 else 0)) a) a1
  let f := num 0x26C 4
  let slot (x : Slot) (at' barAt waitBit parkBit : Nat) : Slot :=
    let y := x.fromBytes base ((bs.drop at').take 16)
    { y with wait := x.wait.fromRecord (f.testBit waitBit) (f.testBit parkBit) (field f barAt 4) }
  { a2 with flags := (List.range 12).foldl (fun m k => mapPut 0 m k (num (0x260 + k) 1 % 64)) []
            slotA := slot a.slotA 0x240 12 7 5, slotB := slot a.slotB 0x250 8 6 4
            stack := (List.range (recordDepth bs)).map (fun i => Entry.fromBytes a.stack[i]? base ((stack.drop (16 * i)).take 16))
            handler := if f.testBit 3 then some (match a.handler with | some h => if a.handlerSlot h == f.testBit 2 then h else ⟨f.testBit 2⟩ | none => ⟨f.testBit 2⟩) else none
            fpc := w 0x270, xth := w 0x274, tix := w 0x278, tcause := w 0x27C, tpc := d 0x280, taddr := d 0x288, sbase := d 0x290
            sshift := w 0x298, sfmt := w 0x29C, stgMap := w 0x2A0, stgBase := num 0x2A4 1, wdc := num 0x2A8 8 }
/-- Where the control record of an agent lies (R403). -/
def Agent.recordAt (a : Agent) (rec' : Nat) : Nat := rec' + 0x340000 + 0x800 * recordIndex a.core ((a.units.head?).getD 0)

/-- The stack image of an agent is written, which is exact from HALTED (R189); where that fails, nothing is written, and the stack is lost with the units once these are claimed (R402). -/
def State.writeStack (s : State) (a : Agent) : Saved :=
  if a.stack.isEmpty then .go [] else s.savePlan a.vf a.ctx a.cluster true [(a.dsb.toNat, 16 * a.stack.length)]

/-- A chunk in progress can go on, or waits for a translation; what waits for a page is set aside (R397). -/
def State.chunkGoes (s : State) (cluster : Nat) (se : Bool) (c : EngCmd) : Bool :=
  c.inChunk && s.engMay cluster se c && (s.ats.any (fun r => r.waiters.contains (c.who cluster se)) || decide ((s.engTry cluster se c).1 ≠ s))
/-- Everything R398 asks for has ended: loads that have issued, matrix commands that have started, engine commands that have performed all, and chunks in progress. -/
def State.quiet (s : State) (vf ctx : Nat) : Bool :=
  (s.agentsOf vf ctx).all (fun x => !(x.2.ops.any (fun o => o.ready)))
    && !(s.mus.any (fun x => x.1 % 1024 == 16 * vf + ctx && x.2.queue.any (fun c => c.started)))
    && !(s.engines.any (fun q => q.2.any (fun c => c.vf == vf && c.ctx == ctx &&
      ((c.finished && (match c.op with | .cpy _ _ _ _ _ _ _ _ _ f => f.isNone | _ => true)) || s.chunkGoes (q.1 / 2) (q.1 % 2 == 1) c))))
/-- An agent as it is halted: staged registers are written back, to be staged again at resumption, and a sleep ends (R66, R216, R398). -/
def Agent.halt (a : Agent) : Agent :=
  let calm (x : Slot) : Slot := match x.wait with | .sleep _ => { x with wait := .none } | _ => x
  let a : Agent := { a with bad := a.rowsBack (fun _ => true), stgDirty := [] }
  let a := if a.staging then a.restage else a
  { a with halted := true, slotA := calm a.slotA, slotB := calm a.slotB
           stack := a.stack.map (fun e => match e.wait with | .sleep _ => { e with wait := .none } | _ => e) }
/-- CONTEXT_HALTED (R396 to R399); of a VF that STOP stops, the time is kept (R425, R427). -/
def execContextHalted (vf ctx : Nat) (s : State) : Host.Outcome State Fault Refusal :=
  match s.ctx? vf ctx with
  | none => .next s
  | some c =>
    if c.st ≠ .halting || !s.quiet vf ctx then .next s
    else
      let as := s.agentsOf vf ctx
      match as.findSome? (fun x => match s.writeStack x.2 with | .wait s => some s | _ => none) with
      | some s' => .next s'
      | none =>
        let s1 := as.foldl (fun s x => match s.writeStack x.2 with
          | .go l => s.saveWrite l (x.2.stack.flatMap (fun e => e.bytes (s.codeBase x.2)))
          | _ => s) s
        let lost (a : Agent) : Option (Nat × DWord) := match s.writeStack a with | .fail cause va => some (cause, BitVec.ofNat 64 va) | _ => none
        let s2 : State := { s1 with agents := s1.agents.map (fun x => (x.1, if x.2.vf = vf ∧ x.2.ctx = ctx then { x.2.halt with stkLost := lost x.2 } else x.2)) }
        .next ((((s2.forget (.save vf ctx)).setCtxSt vf ctx .halted).modVf vf (fun v => if v.stopped then { v with haltTime := s.vfTime vf } else v)).emit (.msix (.vf vf) 2))

/-- A context begins to resume: its registers, tiles, slots and group memory are absent (R407). -/
def State.resumeCtx (s : State) (vf ctx : Nat) : State :=
  let s1 : State := { s with
    agents := s.agents.map (fun x => (x.1, if x.2.vf = vf ∧ x.2.ctx = ctx
      then { x.2 with unfilled := List.range (x.2.nregs / 8), gmUnfilled := List.range x.2.gmGran.length } else x.2))
    groups := s.groups.map (fun x => (x.1, if x.2.vf = vf ∧ x.2.ctx = ctx then { x.2 with unfilled := List.range x.2.granules.length } else x.2))
    launches := s.launches.map (fun x => (x.1, if x.2.vf = vf ∧ x.2.ctx = ctx
      then { x.2 with tunfilled := x.2.tgran.map (fun g => (g.1, List.range g.2.length)) } else x.2))
    mus := s.mus.map (fun x => (x.1, if x.1 % 1024 = 16 * vf + ctx then { x.2 with unfilled := List.range 33 } else x.2)) }
  (s1.setCtxSt vf ctx .resuming).resumed vf ctx
/-- RESUME (R395): ignored in any state but HALTED. -/
def execResume (vf ctx : Nat) (s : State) : Host.Outcome State Fault Refusal :=
  match s.ctx? vf ctx with
  | none => .next s
  | some c => if c.st = .halted then .next (s.resumeCtx vf ctx) else .next s

/-- The units and blocks of a halted agent are not held by another agent (R406). -/
def State.unitsFree (s : State) (id : Nat) (a : Agent) : Bool :=
  let others := (s.agents.filter (fun y => y.1 != id && y.2.cluster == a.cluster && y.2.core == a.core && !(y.2.halted && y.2.spilt))).map (fun y => y.2)
  let kept := (s.heldBy a.cluster).filter (fun x => x.2.1 == a.core)
  others.all (fun y => a.units.all (fun u => !(y.units.contains u))) && kept.all (fun y => a.units.all (fun u => !(y.2.2.1.contains u)))
    && (!a.core.isWide || decide ((others.map (fun y => blocksOf y.width y.nregs)).foldl (· + ·) 0 + (kept.map (fun y => y.2.2.2)).foldl (· + ·) 0
          + blocksOf a.width a.nregs ≤ 512))
/-- The names under which an agent's paths are parked. -/
def State.parksOf (s : State) (id : Nat) : List Waiter :=
  match s.agent? id with
  | some a => (a.slotA.wait :: a.slotB.wait :: a.stack.map (fun e => e.wait)).filterMap (fun w => match w with | .page n _ _ => some (.park n) | _ => none)
  | none => []
/-- A slot that goes on after a halt re-enters its clause under R81 (R408). The staging set stays as the record has it: where a trap had written it back (R66), it is staged again at TRET or REGION and not before, of which R66 and R408 say nothing (DESIGN CHOICE, log 33). A path parked on pages executes its instruction again, translates again, and joins the groups that are still outstanding (R359). -/
def State.reenter (s : State) (id : Nat) : State :=
  let s1 := s.modAgent id (fun a => { a with halted := false, tickhi := none, slotA := a.slotA.reentered, slotB := a.slotB.reentered })
  let s1 := s1.tellAgain id
  let s2 : State := { s1 with waits := s1.waits.map (fun w => if (s.parksOf id).contains w.who then { w with pages := w.pages.map (fun p => { p with group := none }) } else w) }
  (s2.unpark id false).unpark id true
/-- Where the barrier records of a group, and the record of a ring, lie in the save area (R403; log 19). -/
def groupRecAt (rec' x : Nat) : Nat := rec' + 0x3C0000 + 0x200 * x
def ringRecAt (rec' id : Nat) : Nat := rec' + 0x3E0000 + 0x400 * id
/-- The record index of a group: that of its first warp (log 19). -/
def State.groupIndex (s : State) (g : Group) : Nat :=
  match g.warps.head?.bind (fun w => s.agent? w.2) with | some a => recordIndex a.core ((a.units.head?).getD 0) | none => 0
/-- Rings of an owner whose records are in the save area: cluster and id. -/
def State.ringsAway (s : State) (o : RingOwner) : List (Nat × Nat × Ring) :=
  (s.ringsOut.filter (fun x => x.2.owner == o)).map (fun x => (x.1 % 8192 / 64, x.1 % 64, x.2))
/-- The records of an agent's group that come back with it (R406). -/
def State.backRanges (s : State) (a : Agent) : List (Nat × Nat) :=
  let rec' := (s.saveRecord a.vf a.ctx a.cluster).toNat
  (match s.groupOf a with | some g => if g.recOut then [(groupRecAt rec' (s.groupIndex g), 512)] else [] | none => [])
    ++ (s.ringsAway a.ringOwner).map (fun r => (ringRecAt rec' r.2.1, 1024))
/-- The records of an agent's group on chip again. -/
def State.recordsBack (s : State) (a : Agent) : State :=
  let s1 : State := { s with rings := (s.ringsAway a.ringOwner).foldl (fun m r => mapSet m (64 * r.1 + r.2.1) r.2.2) s.rings
                             ringsOut := s.ringsOut.filter (fun x => x.2.owner != a.ringOwner) }
  match a.group with | some g => s1.modGroup g (fun x => { x with recOut := false }) | none => s1
/-- AGENT_REPLACE (R402, R406, R408): in its own units, and with its rings' ids, once they are free, restored from its control record when it was spilt; one whose state was lost ends with a fault status. -/
def execAgentReplace (agent : Nat) (s : State) : Host.Outcome State Fault Refusal :=
  match s.agent? agent with
  | none => .next s
  | some a =>
    let resuming := match s.ctxOf a with | some c => c.st == .resuming | none => false
    if !a.halted || !resuming || !s.unitsFree agent a || (s.ringsAway a.ringOwner).any (fun r => (s.ring? r.1 r.2.1).isSome) then .next s
    else
      let who : Waiter := .save a.vf a.ctx
      let settle (s : State) (lost : Option (Nat × DWord)) : Host.Outcome State Fault Refusal :=
        let s1 := ((s.forget who).modAgent agent (fun x => { x with spilt := false })).reenter agent
        let s2 := match lost with
          | some (cause, va) => let t : TrapInfo := ⟨cause, false, 0, va⟩
                                if a.isWave then s1.endWave agent t else s1.endWarp agent a t
          | none => s1
        .next (s2.resumed a.vf a.ctx)
      let record := if a.spilt then [(a.recordAt (s.saveRecord a.vf a.ctx a.cluster).toNat, 2048)] else []
      if a.lost.isSome then settle s a.lost
      else match s.savePlan a.vf a.ctx a.cluster false (record ++ s.backRanges a) with
        | .wait s => .next s
        | .fail cause va => settle s (some (cause, BitVec.ofNat 64 va))
        | .go l =>
          let bs := s.saveRead l
          if !a.spilt then settle (s.recordsBack a) none
          else
            let n := 16 * recordDepth bs
            match s.savePlan a.vf a.ctx a.cluster false (if n = 0 then [] else [(a.dsb.toNat, n)]) with
            | .wait s => .next s
            | .fail cause va => settle s (some (cause, BitVec.ofNat 64 va))
            | .go st => settle ((s.recordsBack a).setAgent agent (a.fromRecord (s.codeBase a) bs (s.saveRead st))) none

/-- A halted context's units may be claimed: another context of the VF runs with work of its own, or the VF is being moved (R400, R425). -/
def State.claimable (s : State) (vf ctx : Nat) : Bool :=
  s.ctxHalted vf ctx && ((s.vf vf).stopped || (s.vf vf).ctxs.any (fun c => c.1 != ctx && (c.2.st == .run || c.2.st == .resuming) && s.busyCtx vf c.1))

/-- An agent that waits to be placed again still keeps units that a fragment has been given: they are claimed first (R264, R400, R406). -/
def State.unitsTaken (s : State) (id : Nat) (a : Agent) : Bool :=
  s.agents.any (fun y => y.1 != id && y.2.isFrag && !y.2.halted && y.2.cluster == a.cluster && y.2.core == a.core && a.units.any (fun u => y.2.units.contains u))
/-- Where a granule, tile or slot lies in the save area (R403). -/
def granuleAt (rec' p : Nat) : Nat := rec' + 0x800000 + 0x1000 * p
def unitAt (rec' quad u : Nat) : Nat := rec' + 0x400000 + 0x80000 * quad + (if u < 16 then 0x4000 * u else 0x40000 + 0x2000 * (u - 16))
/-- Where the tile record of a WB slot, the scale cache, and a held entry of a matrix unit's or an engine's queue, lie in the save area (R403; log 19). -/
def tileRecAt (rec' quad k : Nat) : Nat := rec' + 0x460000 + 0x80000 * quad + 0x400 * k
def scacheAt (rec' quad : Nat) : Nat := rec' + 0x464000 + 0x80000 * quad
def muEntryAt (rec' quad i : Nat) : Nat := rec' + 0x468000 + 0x80000 * quad + 0x400 * i
def engEntryAt (rec' : Nat) (se : Bool) (i : Nat) : Nat := rec' + 0x900000 + 0x1000 * (i + if se then 64 else 0)
/-- Ranges of the save area that the image of a tile, a slot or the scale cache takes: a tile's bytes in the layout of R218, a slot's bytes, and in the device's own format the tile record and the scale cache (R403). -/
def unitRanges (rec' quad u : Nat) : List (Nat × Nat) :=
  if u < 16 then [(unitAt rec' quad u, 0x4000)]
  else if u < 32 then [(unitAt rec' quad u, 0x2000), (tileRecAt rec' quad (u - 16), 1024)]
  else [(scacheAt rec' quad, 0x2000)]
/-- Bytes of those in the device's own format. -/
def unitDraws (u : Nat) : Nat := if u < 16 then 0 else if u < 32 then 1024 else 0x2000
/-- The slot that heads the tile of which a slot is a part, and which part it is (R218). -/
def Mu.headOf (m : Mu) (k : Nat) : Option (Nat × Nat) :=
  (List.range (k + 1)).findSome? (fun i => match mapGet? m.wb (k - i) with
    | some (.head _ _ _ _ _ _ _ _ _ n) => if i < n then some (k - i, i) else none
    | _ => none)
/-- Bytes of a column of a tile as its slots hold it (R232). -/
def WbSlot.rowLen (h : WbSlot) : Nat := match h with | .head f pr sp k _ _ _ _ _ _ => rowBytes f pr (storedK sp k) | .cont => 0
/-- The bytes of a tile, column by column (R218; log 19). -/
def WbSlot.bytes (h : WbSlot) : List Byte := match h with | .head _ _ _ _ _ _ rows _ _ _ => rows.flatMap (fun r => bytesOf r h.rowLen) | .cont => []
/-- The tile with other bytes. -/
def WbSlot.withBytes (h : WbSlot) (bs : List Byte) : WbSlot :=
  match h with
  | .head f pr sp k sc sf rows md scales n => .head f pr sp k sc sf ((List.range rows.length).map (fun i => ofBytes ((bs.drop (h.rowLen * i)).take h.rowLen))) md scales n
  | .cont => .cont
/-- The 8,192 bytes of a slot: its part of its tile's, then zeros. -/
def Mu.slotBytes (m : Mu) (k : Nat) : List Byte :=
  let bs := match m.headOf k with
    | some (j, i) => match mapGet? m.wb j with | some h => (h.bytes.drop (8192 * i)).take 8192 | none => []
    | none => []
  bs ++ List.replicate (8192 - bs.length) 0
/-- The slot's part of its tile taken from such bytes; an empty slot stays empty. -/
def Mu.putSlot (m : Mu) (k : Nat) (bs : List Byte) : Mu :=
  match m.headOf k with
  | none => m
  | some (j, i) => match mapGet? m.wb j with
    | none => m
    | some h =>
      let old := h.bytes
      { m with wb := mapSet m.wb j (h.withBytes ((old.take (8192 * i) ++ bs.take 8192 ++ old.drop (8192 * (i + 1))).take old.length)) }
/-- The bytes of an image, those in the device's own format last. -/
def Mu.unitBytes (m : Mu) (u draw : Nat) : List Byte :=
  (if u < 16 then memRead m.acm (0x4000 * u) 0x4000 else if u < 32 then m.slotBytes (u - 16) else []) ++ freeBytes draw (unitDraws u)
/-- An image taken from such bytes; what is in the device's own format the device keeps (R405; log 19). -/
def Mu.fromBytes (m : Mu) (u : Nat) (bs : List Byte) : Mu :=
  if u < 16 then { m with acm := memWrite m.acm (0x4000 * u) bs } else if u < 32 then m.putSlot (u - 16) bs else m
/-- The agent that bears a loss: the lowest of those a test accepts (log 19). -/
def State.loser (s : State) (p : Agent → Bool) : Option Nat := (s.agents.find? (fun x => p x.2)).map (fun x => x.1)
def State.lose (s : State) (p : Agent → Bool) (cause va : Nat) : State :=
  match s.loser p with
  | some id => s.modAgent id (fun a => { a with lost := some (cause, BitVec.ofNat 64 va) })
  | none => s

/-- One claimed tile or slot of a context's image, or its scale cache, is spilt (R400, R403). -/
def State.spillUnit (s : State) (cluster quad vf ctx u : Nat) : State :=
  let k := muKey cluster quad vf ctx
  let m := s.mu k
  if !s.claimable vf ctx || m.spilt.contains u || decide (u ≥ 33) then s
  else
    let mark (s : State) : State := s.modMu k (fun m => { m with spilt := insertNat m.spilt u })
    let mine (a : Agent) : Bool := a.vf == vf && a.ctx == ctx && a.cluster == cluster && a.core.quad == quad
    let rs := unitRanges (s.saveRecord vf ctx cluster).toNat quad u
    match s.savePlan vf ctx cluster true rs with
    | .wait s => s
    | .fail cause va => (mark (s.forget (.save vf ctx))).lose mine cause va
    | .go l =>
      if m.bad.contains u then ((mark (s.forget (.save vf ctx))).modMu k (fun m => { m with bad := m.bad.filter (fun x => x != u) })).lose mine cMEMINT ((rs.head?.map (fun r => r.1)).getD 0)
      else mark (State.saveWrite { (s.forget (.save vf ctx)) with fresh := s.fresh + unitDraws u } l (m.unitBytes u s.fresh))

/-- A unit of a halted context written to its save area: marked as spilt, and a loss to an agent when that fails, or the unit cannot be read (R400, R402, R410). -/
def State.spill (s : State) (vf ctx cluster : Nat) (rs : List (Nat × Nat)) (struck : Bool) (mine : Agent → Bool) (bytes : Nat → List Byte) (draws : Nat) (mark : State → State) : State :=
  if !s.claimable vf ctx then s
  else match s.savePlan vf ctx cluster true rs with
    | .wait s => s
    | .fail cause va => (mark (s.forget (.save vf ctx))).lose mine cause va
    | .go l =>
      if struck then (mark (s.forget (.save vf ctx))).lose mine cMEMINT ((rs.head?.map (fun r => r.1)).getD 0)
      else mark (State.saveWrite { (s.forget (.save vf ctx)) with fresh := s.fresh + draws } l (bytes s.fresh))
/-- The granules of an agent's image that are on chip. -/
def Agent.onChip (a : Agent) : List Nat := (List.range (a.nregs / 8)).filter (fun g => !(a.saved.contains g))
/-- A byte of a physical granule of a cluster has a double-bit error (R410). -/
def State.granuleBad (s : State) (cluster p : Nat) : Bool := s.gmBad.any (fun y => y / 4096 == 256 * cluster + p)
/-- The oldest held entry of a full queue is the one that goes; all go when the VF is being moved (R400, R425). -/
def oldestHeld (full : Bool) (moved : Bool) (held : List (Nat × Nat)) (cmd : Nat) : Bool :=
  held.any (fun x => x.1 == cmd) && (moved || (full && held.all (fun x => held.all (fun y => y.1 != cmd || decide (y.2 ≤ x.2)))))
/-- UNIT_CLAIM (R400 to R403): the contents are written to the save area; a spill that fails leaves a loss behind. -/
def execUnitClaim (unit : UnitRef) (s : State) : Host.Outcome State Fault Refusal :=
  let rec' (vf ctx cluster : Nat) : Nat := (s.saveRecord vf ctx cluster).toNat
  match unit with
  | .agent id =>
    match s.agent? id with
    | none => .next s
    | some a =>
      if !a.halted || a.spilt || !(s.claimable a.vf a.ctx || s.unitsTaken id a) then .next s
      else
        let r := rec' a.vf a.ctx a.cluster
        let gone (a : Agent) (lost : Option (Nat × DWord)) : Agent := { a with spilt := true, saved := List.range (a.nregs / 8), lost := lost, stkLost := none }
        match s.savePlan a.vf a.ctx a.cluster true (a.onChip.flatMap (fun g => a.imageRanges r (8 * g) 8) ++ [(a.recordAt r, 2048)]) with
        | .wait s => .next s
        | .fail cause va => .next ((s.forget (.save a.vf a.ctx)).setAgent id (gone a (some (cause, BitVec.ofNat 64 va))))
        | .go l =>
          let s1 := State.saveWrite { (s.forget (.save a.vf a.ctx)) with fresh := s.fresh + 1360 } l
            (a.onChip.flatMap (fun g => a.imageBytes (8 * g) 8) ++ a.controlRecord (s.codeBase a) s.fresh)
          .next (s1.setAgent id (gone a (a.lost.or a.stkLost)))
  | .granule group i =>
    match mapGet? s.groups group with
    | none => .next s
    | some g =>
      match g.granules[i]? with
      | none => .next s
      | some p =>
        if g.spilt.contains p then .next s
        else .next (s.spill g.vf g.ctx g.cluster [(granuleAt (rec' g.vf g.ctx g.cluster) p, 4096)] (s.granuleBad g.cluster p) (fun a => a.group == some group)
          (fun _ => memRead g.gm (4096 * i) 4096) 0 (fun s => s.modGroup group (fun g => { g with spilt := insertNat g.spilt p })))
  | .scratch id i =>
    match s.agent? id with
    | none => .next s
    | some a =>
      match a.gmGran[i]? with
      | none => .next s
      | some p =>
        if a.gmSpilt.contains p then .next s
        else .next (s.spill a.vf a.ctx a.cluster [(granuleAt (rec' a.vf a.ctx a.cluster) p, 4096)] (s.granuleBad a.cluster p) (fun x => x == a)
          (fun _ => memRead (mapGetD s.scratch id []) (4096 * i) 4096) 0 (fun s => s.modAgent id (fun a => { a with gmSpilt := insertNat a.gmSpilt p })))
  | .taskGran launch cluster i =>
    match mapGet? s.launches launch with
    | none => .next s
    | some l =>
      match (mapGetD l.tgran cluster [])[i]? with
      | none => .next s
      | some p =>
        if (mapGetD l.tspilt cluster []).contains p then .next s
        else .next (s.spill l.vf l.ctx cluster [(granuleAt (rec' l.vf l.ctx cluster) p, 4096)] (s.granuleBad cluster p) (fun a => a.isWave && a.launch == launch && a.cluster == cluster)
          (fun _ => memRead (mapGetD l.tareas cluster []) (4096 * i) 4096) 0
          (fun s => s.modLaunch launch (fun l => { l with tspilt := mapPut [] l.tspilt cluster (insertNat (mapGetD l.tspilt cluster []) p) })))
  | .tile cluster quad vf ctx t => if t < 16 then .next (s.spillUnit cluster quad vf ctx t) else .next s
  | .slot cluster quad vf ctx k => if k < 16 then .next (s.spillUnit cluster quad vf ctx (16 + k)) else .next s
  | .scache cluster quad vf ctx => .next (s.spillUnit cluster quad vf ctx 32)
  | .records group =>
    match mapGet? s.groups group with
    | none => .next s
    | some g =>
      if g.recOut then .next s
      else .next (s.spill g.vf g.ctx g.cluster [(groupRecAt (rec' g.vf g.ctx g.cluster) (s.groupIndex g), 512)] false (fun a => a.group == some group)
        (fun d => freeBytes d 512) 512 (fun s => s.modGroup group (fun g => { g with recOut := true })))
  | .ring cluster id =>
    match s.ring? cluster id with
    | none => .next s
    | some r =>
      match s.ownerCtx r.owner with
      | none => .next s
      | some (vf, ctx) => .next (s.spill vf ctx cluster [(ringRecAt (rec' vf ctx cluster) id, 1024)] false (fun a => a.ringOwner == r.owner) (fun d => freeBytes d 1024) 1024
          (fun s => { s with rings := mapErase s.rings (64 * cluster + id), ringsOut := mapSet s.ringsOut (8192 * (16 * vf + ctx) + 64 * cluster + id) r }))
  | .engCmd cluster se cmd =>
    let q := s.engQ cluster se
    let held := (q.filter (fun c => !c.out && s.ctxHalted c.vf c.ctx)).map (fun c => (c.id, c.seq))
    match q.findIdx? (fun c => c.id == cmd) with
    | none => .next s
    | some i =>
      match q[i]? with
      | none => .next s
      | some c =>
        if !oldestHeld (decide (s.engBusy cluster se ≥ 64)) (s.vf c.vf).stopped held cmd then .next s
        else .next (s.spill c.vf c.ctx cluster [(engEntryAt (rec' c.vf c.ctx cluster) se (i % 64), 4096)] false (fun a => (s.agent? c.agent) == some a)
          (fun d => freeBytes d 4096) 4096 (fun s => s.modEng cluster se cmd (fun c => { c with out := true })))
  | .muCmd cluster quad vf ctx cmd =>
    let k := muKey cluster quad vf ctx
    let held := (s.mus.filter (fun x => x.1 / 1024 == cluster * 8 + quad && s.ctxHalted (x.1 / 16 % 64) (x.1 % 16))).flatMap
      (fun x => (x.2.queue.filter (fun c => !c.out)).map (fun c => (c.id, c.seq)))
    match (s.mu k).queue.findIdx? (fun c => c.id == cmd) with
    | none => .next s
    | some i =>
      match (s.mu k).queue[i]? with
      | none => .next s
      | some c =>
        if !oldestHeld (decide (s.muBusy cluster quad ≥ 16)) (s.vf vf).stopped held cmd then .next s
        else .next (s.spill vf ctx cluster [(muEntryAt (rec' vf ctx cluster) quad (i % 16), 1024)] false (fun a => (s.agent? c.agent) == some a) (fun d => freeBytes d 1024) 1024
          (fun s => s.modMu k (fun m => { m with queue := m.queue.map (fun c => if c.id = cmd then { c with out := true } else c) })))

/-- An agent ends because a fill failed (R402, R407). -/
def State.fillFailed (s : State) (p : Agent → Bool) (cause va : Nat) : State :=
  match s.loser p with
  | none => s
  | some id => match s.agent? id with
    | some a => let t : TrapInfo := ⟨cause, false, 0, BitVec.ofNat 64 va⟩
                if a.isWave then s.endWave id t else s.endWarp id a t
    | none => s
/-- A tile or slot, or the scale cache, filled on first use (R405, R407). -/
def State.fillUnit (s : State) (cluster quad vf ctx u : Nat) : State :=
  let k := muKey cluster quad vf ctx
  let m := s.mu k
  let done (s : State) (f : Mu → Mu) : State := s.modMu k (fun m => f { m with unfilled := m.unfilled.filter (fun x => x != u), spilt := m.spilt.filter (fun x => x != u) })
  if !m.unfilled.contains u || s.ctxHalted vf ctx then s
  else if !m.spilt.contains u then done s id
  else
    let rec' := (s.saveRecord vf ctx cluster).toNat
    match s.savePlan vf ctx cluster false (unitRanges rec' quad u) with
    | .wait s => s
    | .fail cause va => (done (s.forget (.save vf ctx)) id).fillFailed (fun a => a.vf == vf && a.ctx == ctx && a.cluster == cluster && a.core.quad == quad) cause va
    | .go l => done (s.forget (.save vf ctx)) (fun m => m.fromBytes u (s.saveRead l))

/-- A fill waits for a page: the slots that stand at an instruction which needs what it brings are parked (R265, R358, R407). -/
def State.parkFill (s : State) (vf ctx : Nat) (needs : Nat → Agent → Path → Instr → Bool) : State :=
  if !s.pageHeld (.save vf ctx) then s
  else (s.agents.flatMap (fun x => [(x.1, false), (x.1, true)])).foldl (fun t y =>
    match s.standsAt y.1 y.2 with
    | some (a, p, i) => if a.vf == vf && a.ctx == ctx && needs y.1 a p i then t.modAgent y.1 (fun a => a.setSlot y.2 { a.slot y.2 with wait := .fill }) else t
    | none => t) s
/-- Addresses of group memory that an instruction accesses at its issue, with the bytes there (R161 to R163). -/
def State.gmTouched (s : State) (a : Agent) (p : Path) (i : Instr) : List (Nat × Nat) :=
  match i with
  | .ldGm o | .stGm o => (lanesOf (a.active p o.g)).map (fun L => (gmAddr s a o L, gmSize o))
  | .ldl o | .stl o => (lanesOf (a.active p o.g)).filterMap (fun L => (layAddr o s a L).2.map (fun k => (k, gmSize o)))
  | .atomAddInt o | .atomAddFp o | .atomMinI o | .atomMinN o | .atomMaxI o | .atomMaxN o | .atomAnd o | .atomOr o | .atomXor o | .atomXchg o
  | .atomCas o | .atomInc o | .atomDec o => if atomGm o then (lanesOf (a.active p o.g)).map (fun L => (gmAddr s a o L, atomBytes o)) else []
  | _ => []
/-- One of those bytes lies in the 4 KiB that begin at an address. -/
def State.touches (s : State) (a : Agent) (p : Path) (i : Instr) (lo : Nat) : Bool :=
  (s.gmTouched a p i).any (fun x => (List.range x.2).any (fun j => (x.1 + j) % 2 ^ 32 / 4096 * 4096 == lo))
/-- Who a granule belongs to. -/
inductive GranOwner where
  | group (g : Nat)
  | wave (agent : Nat)
  | area (launch : Nat)
  deriving DecidableEq, Repr
/-- The granule is on chip for another than its owner. -/
def State.granuleTaken (s : State) (me : GranOwner) (cluster p : Nat) : Bool :=
  s.groups.any (fun x => me != .group x.1 && x.2.cluster == cluster && x.2.granules.contains p && !(x.2.spilt.contains p))
    || s.launches.any (fun l => me != .area l.1 && (mapGetD l.2.tgran cluster []).contains p && !((mapGetD l.2.tspilt cluster []).contains p))
    || s.agents.any (fun x => me != .wave x.1 && x.2.cluster == cluster && x.2.gmGran.contains p && !(x.2.gmSpilt.contains p))
/-- A granule of group memory filled: from its place where it was never claimed, from the save area otherwise, perhaps into another granule, whose old errors it does not keep (R402, R407, R410). -/
def State.fillGranule (s : State) (me : GranOwner) (vf ctx cluster p : Nat) (spilt : Bool) (mine : Agent → Bool) (needs : Nat → Agent → Path → Instr → Bool) (done : State → State) (put : State → Nat → List Byte → State) : State :=
  if s.ctxHalted vf ctx then s
  else if !spilt then done s
  else
    let place : Option Nat := if s.granuleTaken me cluster p then (s.takeGranules cluster vf 1).bind (fun l => if s.granulesClear cluster l then l.head? else none) else some p
    match place with
    | none => s
    | some p' =>
      match s.savePlan vf ctx cluster false [(granuleAt (s.saveRecord vf ctx cluster).toNat p, 4096)] with
      | .wait s => s.parkFill vf ctx needs
      | .fail cause va => (done (s.forget (.save vf ctx))).fillFailed mine cause va
      | .go l => done ((put (s.forget (.save vf ctx)) p' (s.saveRead l)).freshGranules cluster [p'])

/-- FILL_COMPLETE (R402, R406, R407). -/
def execFillComplete (unit : UnitRef) (granule : Nat) (s : State) : Host.Outcome State Fault Refusal :=
  match unit with
  | .agent id =>
    match s.agent? id with
    | none => .next s
    | some a =>
      if a.halted || !a.unfilled.contains granule then .next s
      else
        let done (a : Agent) : Agent :=
          let b := { a with unfilled := a.unfilled.filter (fun g => g != granule), saved := a.saved.filter (fun g => g != granule) }
          if a.badRows granule a.started then b.setBad granule a.started true else b
        if !a.saved.contains granule then .next (s.setAgent id (done a))
        else match s.savePlan a.vf a.ctx a.cluster false (a.imageRanges (s.saveRecord a.vf a.ctx a.cluster).toNat (8 * granule) 8) with
          | .wait s => .next (s.parkFill a.vf a.ctx (fun x y _ i => x == id && (y.granulesOf ((usesOf i).vr ++ (usesOf i).vw)).contains granule))
          | .fail cause va =>
            let t : TrapInfo := ⟨cause, false, 0, BitVec.ofNat 64 va⟩
            let s1 := (s.forget (.save a.vf a.ctx)).setAgent id (done a)
            .next (if a.isWave then s1.endWave id t else s1.endWarp id a t)
          | .go l => .next ((s.forget (.save a.vf a.ctx)).setAgent id (done (a.fromImage (8 * granule) 8 (s.saveRead l))))
  | .granule group i =>
    match mapGet? s.groups group with
    | none => .next s
    | some g =>
      match g.granules[i]? with
      | none => .next s
      | some p =>
        if !g.unfilled.contains i then .next s
        else .next (s.fillGranule (.group group) g.vf g.ctx g.cluster p (g.spilt.contains p) (fun a => a.group == some group)
          (fun _ x q i' => x.group == some group && s.touches x q i' (4096 * i))
          (fun s => s.modGroup group (fun g => { g with unfilled := g.unfilled.filter (fun x => x != i) }))
          (fun s p' bs => s.modGroup group (fun g => { g with granules := g.granules.set i p', spilt := g.spilt.filter (fun x => x != p), gm := memWrite g.gm (4096 * i) bs })))
  | .scratch id i =>
    match s.agent? id with
    | none => .next s
    | some a =>
      match a.gmGran[i]? with
      | none => .next s
      | some p =>
        if !a.gmUnfilled.contains i then .next s
        else .next (s.fillGranule (.wave id) a.vf a.ctx a.cluster p (a.gmSpilt.contains p) (fun x => x == a)
          (fun y x q i' => y == id && s.touches x q i' (0x80000 + 4096 * i))
          (fun s => s.modAgent id (fun a => { a with gmUnfilled := a.gmUnfilled.filter (fun x => x != i) }))
          (fun s p' bs => State.modAgent { s with scratch := mapPut [] s.scratch id (memWrite (mapGetD s.scratch id []) (4096 * i) bs) } id
            (fun a => { a with gmGran := a.gmGran.set i p', gmSpilt := a.gmSpilt.filter (fun x => x != p) })))
  | .taskGran launch cluster i =>
    match mapGet? s.launches launch with
    | none => .next s
    | some l =>
      let gs := mapGetD l.tgran cluster []
      match gs[i]? with
      | none => .next s
      | some p =>
        let away := mapGetD l.tspilt cluster []
        let left := mapGetD l.tunfilled cluster []
        if !left.contains i then .next s
        else .next (s.fillGranule (.area launch) l.vf l.ctx cluster p (away.contains p) (fun a => a.isWave && a.launch == launch && a.cluster == cluster)
          (fun _ x q i' => x.isWave && x.launch == launch && x.cluster == cluster && s.touches x q i' (4096 * i))
          (fun s => s.modLaunch launch (fun l => { l with tunfilled := mapPut [] l.tunfilled cluster (left.filter (fun x => x != i)) }))
          (fun s p' bs => s.modLaunch launch (fun l => { l with
            tgran := mapPut [] l.tgran cluster (gs.set i p'), tspilt := mapPut [] l.tspilt cluster (away.filter (fun x => x != p))
            tareas := mapPut [] l.tareas cluster (memWrite (mapGetD l.tareas cluster []) (4096 * i) bs) })))
  | .tile cluster quad vf ctx t => .next (s.fillUnit cluster quad vf ctx t)
  | .slot cluster quad vf ctx k => .next (s.fillUnit cluster quad vf ctx (16 + k))
  | .scache cluster quad vf ctx => .next (s.fillUnit cluster quad vf ctx 32)
  | .engCmd cluster se cmd =>
    let q := s.engQ cluster se
    match q.findIdx? (fun c => c.id == cmd && c.out) with
    | none => .next s
    | some i =>
      match q[i]? with
      | none => .next s
      | some c =>
        let back (s : State) : State := s.modEng cluster se cmd (fun c => { c with out := false })
        if s.ctxHalted c.vf c.ctx || decide (s.engBusy cluster se ≥ 64) then .next s
        else match s.savePlan c.vf c.ctx cluster false [(engEntryAt (s.saveRecord c.vf c.ctx cluster).toNat se (i % 64), 4096)] with
          | .wait s => .next s
          | .fail cause va => .next ((back (s.forget (.save c.vf c.ctx))).fillFailed (fun a => (s.agent? c.agent) == some a) cause va)
          | .go _ => .next (back (s.forget (.save c.vf c.ctx)))
  | .muCmd cluster quad vf ctx cmd =>
    let k := muKey cluster quad vf ctx
    match (s.mu k).queue.findIdx? (fun c => c.id == cmd && c.out) with
    | none => .next s
    | some i =>
      match (s.mu k).queue[i]? with
      | none => .next s
      | some c =>
        let back (s : State) : State := s.modMu k (fun m => { m with queue := m.queue.map (fun c => if c.id = cmd then { c with out := false } else c) })
        if s.ctxHalted vf ctx || decide (s.muDepth cluster quad ≥ 16) then .next s
        else match s.savePlan vf ctx cluster false [(muEntryAt (s.saveRecord vf ctx cluster).toNat quad (i % 16), 1024)] with
          | .wait s => .next s
          | .fail cause va => .next ((back (s.forget (.save vf ctx))).fillFailed (fun a => (s.agent? c.agent) == some a) cause va)
          | .go _ => .next (back (s.forget (.save vf ctx)))
  -- these come back with their agents (R406)
  | .records _ => .next s
  | .ring _ _ => .next s

end Sys2Proof.Machine
end

