-- ==== Sys2Proof/Machine/Migration.lean ====
section
/-! DEFINITION. Moving a VF: TRACK, EXPORT, STOP, IMPORT, START, ABORT (R423 to R427). -/

namespace Sys2Proof.Machine

/-- The VF that MIGCTL names. -/
def Migration.vf (m : Migration) : Nat := (m.ctl.extractLsb' 8 6).toNat
def Migration.op (m : Migration) : Nat := (m.ctl.extractLsb' 0 4).toNat
/-- The result of an op, and how many records it has written or read (R423). -/
def State.migAnswer (s : State) (r : MbResult) (cnt : Nat) : State :=
  { s with mig := { s.mig with busy := false, ctl := goClear s.mig.ctl, result := r.code, cnt := BitVec.ofNat 64 cnt } }
/-- An op that MIGCTL has started, on an enabled VF; otherwise REFUSED. -/
def State.migOp (s : State) (op : Nat) (k : Nat → State) : Host.Outcome State Fault Refusal :=
  if !s.up || !s.mig.busy || s.mig.op != op then .next s
  else if (s.vf s.mig.vf).enabled then .next (k s.mig.vf) else .next (s.migAnswer .refused 0)

/-- TRACK (R423): every page of the VF's extents is marked dirty. -/
def execMigTrack (s : State) : Host.Outcome State Fault Refusal :=
  s.migOp 1 fun v =>
    if !s.mig.session || s.windows.any (fun w => (mapGet? w.2.members v).isSome) || s.peers.any (fun p => p.1 / 64 == v) then s.migAnswer .refused 0
    else State.migAnswer (State.modVf { s with mig := { s.mig with round := 0 } } v (fun x => { x with track := true, dirty := List.range (32 * x.extents.length) })) .done 0

/-- Bytes of a page record (R423). -/
def recordBytes : Nat := 65600
/-- Records that fit the host's buffer. -/
def Migration.room (m : Migration) : Nat := m.len.toNat / recordBytes
/-- Device address of page n of a VF (R423). -/
def Vf.pageAt (v : Vf) (n : Nat) : Nat := 2 ^ 21 * ((v.extents[n / 32]?).getD 0) + 2 ^ 16 * (n % 32)
/-- The dirty pages that fit are cleared, read and written as records (R424); their bytes in the buffer are the device's (log 19). -/
def State.exportPages (s : State) (v : Nat) : State × List MigRecord :=
  let x := s.vf v
  let now := x.dirty.take s.mig.room
  let rs := now.map (fun n => MigRecord.page n (s.mig.round + 1) (memRead s.mem (x.pageAt n) 65536))
  let s1 := s.modVf v (fun x => { x with dirty := x.dirty.drop s.mig.room })
  ({ s1 with fresh := s1.fresh + recordBytes * now.length, hostMem := memWrite s1.hostMem s.mig.buf.toNat (freeBytes s1.fresh (recordBytes * now.length))
             mig := { s1.mig with round := s1.mig.round + 1 } }, rs)
/-- EXPORT (R424). -/
def execMigExport (s : State) : Host.Outcome State Fault Refusal :=
  s.migOp 2 fun v =>
    if (s.vf v).track = false ∨ s.mig.buf.toNat % 4096 ≠ 0 then s.migAnswer .refused 0
    else
      let x := s.exportPages v
      State.migAnswer { x.1 with mig := { x.1.mig with records := x.2 } } .done x.2.length

/-- Every unit that a VF holds has been spilt (R425). -/
def State.allSpilt (s : State) (v : Nat) : Bool :=
  s.agents.all (fun x => x.2.vf != v || (x.2.spilt && x.2.gmGran.all (fun p => x.2.gmSpilt.contains p)))
    && s.launches.all (fun x => x.2.vf != v || x.2.tgran.all (fun g => g.2.all (fun p => (mapGetD x.2.tspilt g.1 []).contains p)))
    && s.engines.all (fun x => x.2.all (fun c => c.vf != v || c.out)) && s.mus.all (fun x => x.1 % 1024 / 16 != v || x.2.queue.all (fun c => c.out))
    && s.groups.all (fun x => x.2.vf != v || x.2.recOut) && s.rings.all (fun x => x.2.vf != v)
    && s.groups.all (fun x => x.2.vf != v || x.2.granules.all (fun p => x.2.spilt.contains p))
    && s.mus.all (fun x => x.1 % 1024 / 16 != v || (List.range 33).all (fun u => x.2.spilt.contains u))
/-- The VF whose message is on a Saddle network. -/
def State.msgVf (s : State) (m : Saddle) : Option Nat :=
  let of (f : Nat) : Option Nat := (s.agent? f).map (fun a => a.vf)
  match m.msg with
  | .start f => of f
  | .barArrive f _ _ _ _ _ _ => of f
  | .barDone f _ _ => of f
  | .pullReq f _ => of f
  | .pullResp f _ => of f
  | .push f _ => of f
  | .fragExit f _ _ _ => of f
  | .matrix _ vf _ _ _ => some vf
/-- What the state records hold (R425, R427). -/
def State.image (s : State) (v : Nat) : VfImage :=
  let mine (l : Nat) : Bool := match mapGet? s.launches l with | some x => x.vf == v | none => false
  { parts := (s.parts.filter (fun x => x.1 % 64 == v)).map (fun x => (x.1 / 64, x.2)), share := (s.vf v).share.length, extents := (s.vf v).extents.length
    ctxs := (s.vf v).ctxs, agents := s.agents.filter (fun x => x.2.vf == v), groups := s.groups.filter (fun x => x.2.vf == v)
    launches := s.launches.filter (fun x => x.2.vf == v)
    ringsOut := s.ringsOut.filter (fun x => x.2.vf == v)
    saddle := (s.saddle.map (fun x => (x.1, x.2.filter (fun m => s.msgVf m == some v)))).filter (fun x => !x.2.isEmpty)
    waits := s.waits.filter (fun w => w.vf == v && (match w.who with | .task _ => true | _ => false))
    engines := (s.engines.map (fun x => (x.1, x.2.filter (fun c => c.vf == v)))).filter (fun x => !x.2.isEmpty)
    mus := s.mus.filter (fun x => x.1 % 1024 / 16 == v), recs := s.recs.filter (fun x => mine x.2.launch)
    deques := (s.disps.map (fun x => (x.1, x.2.deque v))).filter (fun x => !x.2.isEmpty)
    bins := (s.disps.map (fun x => (x.1, x.2.bins.filter (fun b => b.2.vf == v)))).filter (fun x => !x.2.isEmpty)
    packets := s.packets.filter (fun p => mine p.launch), dev := s.devNum, forward := s.forward.filter (fun x => x.1 / 2 ^ 32 == v)
    stranded := s.stranded.filter (fun x => mine x.2.launch)
    farUsed := (s.packets.filter (fun p => mine p.launch && p.place == 2)).foldl (fun m p => mapAdd m (128 * handleDev p.dst + handleCl p.dst) 1) []
    scratch := s.scratch.filter (fun x => match s.agent? x.1 with | some a => a.vf == v | none => false)
    amax := s.amax.filter (fun x => x.2.owner == some v), time := (s.vf v).haltTime }
/-- STOP (R425, R427): contexts halt, at a VF time that is kept, and units are spilt, by the events of those rules, while BUSY stays 1; then the pages still marked and the state are written. A buffer with no room for all of these records gets none: REFUSED, the marks stay, and the host may EXPORT and ask again (log 19). -/
def execMigStop (s : State) : Host.Outcome State Fault Refusal :=
  s.migOp 3 fun v =>
    if (s.vf v).track = false ∨ s.mig.buf.toNat % 4096 ≠ 0 then s.migAnswer .refused 0
    else
      let s1 := s.modVf v (fun x => { x with stopped := true, haltTime := if x.stopped then x.haltTime else s.vfTime v })
      let running := (s1.vf v).ctxs.filter (fun c => c.2.st == .run)
      if !running.isEmpty then running.foldl (fun s c => s.haltCtx v c.1) s1
      else if (s1.vf v).ctxs.any (fun c => c.2.st != .halted) || !s1.allSpilt v then s1
      else if s1.mig.room ≤ (s1.vf v).dirty.length then s1.migAnswer .refused 0
      else
        let x := s1.exportPages v
        State.migAnswer { x.1 with mig := { x.1.mig with records := x.2 ++ [.state (s1.image v)] } } .done (x.2.length + 1)

/-! Installing an image under another VF number, with every name of the model's own moved up by k. -/

def Wait.moved (w : Wait) (k : Nat) : Wait :=
  match w with
  | .ring id n d => .ring id (n + k) d
  | .page n p va => .page (n + k) p va
  | w => w
def Agent.moved (a : Agent) (v k : Nat) (rec' : Nat → Nat) : Agent :=
  { (a.mapWaits (fun w => w.moved k)) with
    tasks := a.tasks.map (fun x => (x.1, rec' (4096 * a.cluster + x.2) % 4096))
    vf := v, launch := a.launch + k, tickhi := none, group := a.group.map (· + k)
    kind := match a.kind with | .frag p j r => .frag (p + k) j r | x => x }
def Group.moved (g : Group) (v k : Nat) : Group := { g with vf := v, launch := g.launch + k, warps := g.warps.map (fun x => (x.1, x.2 + k)) }
def Ring.moved (r : Ring) (v k : Nat) : Ring :=
  { r with vf := v, serial := r.serial + k, owner := match r.owner with | .group g => .group (g + k) | .tasks l => .tasks (l + k) }
def MuCmd.moved (c : MuCmd) (k : Nat) : MuCmd := { c with id := c.id + k, agent := c.agent + k, stamp := 0, parentCmd := c.parentCmd.map (· + k) }
def EngCmd.moved (c : EngCmd) (v k : Nat) : EngCmd :=
  { c with id := c.id + k, agent := c.agent + k, stamp := 0, vf := v
           op := match c.op with | .cpy a b d e p x y z w f => .cpy a b d e p x y z w (f.map (fun m => (m.1.moved k, m.2))) | o => o }
def SaddleMsg.moved (m : SaddleMsg) (v k : Nat) : SaddleMsg :=
  match m with
  | .start f => .start (f + k)
  | .barArrive f g w b l t _ => .barArrive (f + k) (g + k) w b l t 0
  | .barDone f b n => .barDone (f + k) b n
  | .pullReq f l => .pullReq (f + k) l
  | .pullResp f l => .pullResp (f + k) l
  | .push f g => .push (f + k) g
  | .fragExit f g w l => .fragExit (f + k) (g + k) w l
  | .matrix q _ c cmd h => .matrix q v c (cmd.moved k) h
def TaskRec.moved (r : TaskRec) (k : Nat) : TaskRec := { r with launch := r.launch + k, agent := r.agent + k }
/-- One in a basin's slot, or on its way there, is sent again. -/
def Packet.moved (p : Packet) (k : Nat) : Packet := { p with launch := p.launch + k, ack := p.ack.map (fun a => (a.1 + k, a.2)), evs := [], place := if p.place = 1 then 0 else p.place }
def Waiter.moved (w : Waiter) (rec' : Nat → Nat) : Waiter := match w with | .task k => .task (rec' k) | w => w

/-- Entries put into a map. -/
def mapMerge {α : Type} (m n : NMap α) : NMap α := n.foldl (fun m x => mapSet m x.1 x.2) m
/-- Where each record of an image goes: the record of its own number where that is free, else another free one of the same cluster's basin (R426). -/
def State.recPlaces (s : State) (i : VfImage) : NMap Nat :=
  i.recs.foldl (fun m x =>
    let free (k : Nat) : Bool := s.recFree k && !(m.any (fun y => y.2 == k))
    let c := x.1 / 4096
    match ((x.1 % 4096) :: List.range 4096).find? (fun r => free (4096 * c + r)) with
    | some r => mapSet m x.1 (4096 * c + r)
    | none => m) []
/-- The handles under which an image's records are known where it comes from, and the records that they name here (R422, R426). -/
def State.oldHandles (s : State) (v : Nat) (i : VfImage) (pl : NMap Nat) : NMap Nat :=
  let own : List (Nat × Nat) := (i.recs.filter (fun x => x.2.attached)).map (fun x => (2 ^ 24 * i.dev + x.1, mapGetD pl x.1 x.1))
  let out : List (Nat × Nat) := own.filter (fun x => (s.handleOf (x.2 / 4096) (x.2 % 4096)).toNat != x.1) ++ i.forward.map (fun x => (x.1 % 2 ^ 32, mapGetD pl x.2 x.2))
  out.foldl (fun m x => mapSet m (2 ^ 32 * v + x.1) x.2) []
/-- A bin of an image put among a wide core's: under its number where that is free, else another; with none free its records go back to the head of their deque (R300, R426). -/
def Dispatcher.addBin (d : Dispatcher) (n : Nat) (b : Bin) : Dispatcher :=
  match (n :: List.range 8).find? (fun j => (mapGet? d.bins j).isNone) with
  | some j => { d with bins := mapSet d.bins j b }
  | none => d.setDeque b.vf (b.recs ++ d.deque b.vf)
/-- The image of a VF installed (R426); its contexts stay halted until START. Its records and bins are numbered anew where another VF holds their numbers, and the old handles are forwarded. -/
def State.install (s : State) (v : Nat) (i : VfImage) : State :=
  let k := s.nextId
  let pl := s.recPlaces i
  let rec' (r : Nat) : Nat := mapGetD pl r r
  let top := (i.agents.map (fun x => x.1) ++ i.groups.map (fun x => x.1) ++ i.launches.map (fun x => x.1) ++ i.ringsOut.map (fun x => x.2.serial)
    ++ i.engines.flatMap (fun x => x.2.map (fun c => c.id)) ++ i.mus.flatMap (fun x => x.2.queue.map (fun c => c.id))).foldl max 0
  let muKeyOf (n : Nat) : Nat := n / 1024 * 1024 + 16 * v + n % 16
  let s1 : State := { s with
    nextId := k + top + 1
    agents := mapMerge s.agents (i.agents.map (fun x => (x.1 + k, x.2.moved v k rec')))
    groups := mapMerge s.groups (i.groups.map (fun x => (x.1 + k, x.2.moved v k)))
    launches := mapMerge s.launches (i.launches.map (fun x => (x.1 + k, { x.2 with vf := v })))
    ringsOut := mapMerge s.ringsOut (i.ringsOut.map (fun x => (8192 * (16 * v + x.1 / 8192 % 16) + x.1 % 8192, x.2.moved v k)))
    saddle := i.saddle.foldl (fun m x => mapSet m x.1 (mapGetD m x.1 [] ++ x.2.map (fun y => { y with msg := y.msg.moved v k }))) s.saddle
    waits := s.waits ++ i.waits.map (fun w => { w with vf := v, who := w.who.moved rec', pages := w.pages.map (fun p => { p with group := none }) })
    engines := i.engines.foldl (fun m x => mapSet m x.1 (mapGetD m x.1 [] ++ x.2.map (fun c => c.moved v k))) s.engines
    mus := mapMerge s.mus (i.mus.map (fun x => (muKeyOf x.1, { x.2 with queue := x.2.queue.map (fun c => c.moved k) })))
    recs := mapMerge s.recs (i.recs.map (fun x => (rec' x.1, x.2.moved k)))
    forward := mapMerge s.forward (s.oldHandles v i pl), stranded := s.stranded ++ i.stranded.map (fun x => (x.1, x.2.moved k))
    farCredits := i.farUsed.foldl (fun m x => mapAdd m x.1 x.2) s.farCredits
    packets := s.packets ++ i.packets.map (fun p => p.moved k)
    scratch := mapMerge s.scratch (i.scratch.map (fun x => (x.1 + k, x.2)))
    amax := mapMerge s.amax (i.amax.map (fun x => (x.1, { x.2 with owner := some v }))) }
  let s2 := i.deques.foldl (fun s x => s.setDisp (x.1 / 2) (x.1 % 2) ((s.disp (x.1 / 2) (x.1 % 2)).setDeque v (x.2.map (fun r => rec' (4096 * (x.1 / 2) + r) % 4096)))) s1
  let s3 := i.bins.foldl (fun s x =>
    let own (b : Bin) : Bin := { b with vf := v, launch := b.launch + k, recs := b.recs.map (fun r => rec' (4096 * (x.1 / 2) + r) % 4096) }
    s.setDisp (x.1 / 2) (x.1 % 2) (x.2.foldl (fun d b => d.addBin b.1 (own b.2)) (s.disp (x.1 / 2) (x.1 % 2)))) s2
  s3.modVf v (fun x => { x with ctxs := i.ctxs, stopped := true })
/-- The destination VF's time is at least the recorded one (R427). -/
def State.raiseTime (s : State) (v t : Nat) : State :=
  if s.vfTime v < t then { s with vfOffset := mapPut 0 s.vfOffset v (t - s.time) } else s
/-- A record fits the destination VF (R426): also, its basins have room for the VF's records, and no other VF holds its amax rings, whose numbers its programs name (log 19). -/
def State.fitsRecord (s : State) (v : Nat) (r : MigRecord) : Bool :=
  match r with
  | .page n _ _ => decide (n < 32 * (s.vf v).extents.length)
  | .state i =>
    i.share == (s.vf v).share.length && i.extents == (s.vf v).extents.length
      && ((s.parts.filter (fun x => x.1 % 64 == v)).map (fun x => (x.1 / 64, x.2.qmask, x.2.gmb.length, x.2.l1b)))
          == i.parts.map (fun x => (x.1, x.2.qmask, x.2.gmb.length, x.2.l1b))
      && (List.range 128).all (fun c => decide ((i.recs.filter (fun x => x.1 / 4096 == c)).length ≤ if i.recs.any (fun x => x.1 / 4096 == c) then s.freeCount c else 0))
      && i.amax.all (fun x => match mapGet? s.amax x.1 with | some r => r.owner == none || r.owner == some v | none => true)
  | .altered => false
/-- One record read (R426). -/
def State.importRecord (s : State) (v : Nat) (r : MigRecord) : State :=
  match r with
  | .page n _ bs => (s.renewSpots (fun x => match x with | .glob (.dev d) => d / 2 ^ 16 == (s.vf v).pageAt n / 2 ^ 16 | _ => false)).store (.dev ((s.vf v).pageAt n)) bs
  | .state i => (s.install v i).raiseTime v i.time
  | .altered => s
/-- IMPORT (R426, R427): nothing changes when a record does not fit. -/
def execMigImport (s : State) : Host.Outcome State Fault Refusal :=
  s.migOp 4 fun v =>
    let rs := s.mig.records
    if !s.mig.session || s.busyVf v || !rs.all (fun r => s.fitsRecord v r) then s.migAnswer .refused 0
    else
      let s1 := rs.foldl (fun s r => s.importRecord v r) s
      let whole := rs.any (fun r => match r with | .state _ => true | _ => false)
      State.migAnswer { s1 with mig := { s1.mig with imported := if whole then some v else s1.mig.imported } } .done rs.length

/-- A stopped VF's contexts resume, and doorbells are accepted again. -/
def State.resumeVf (s : State) (v : Nat) : State :=
  let s1 := s.modVf v (fun x => { x with stopped := false })
  let s2 := ((s1.vf v).ctxs.filter (fun c => c.2.st == .halted)).foldl (fun s c => s.resumeCtx v c.1) s1
  -- tasks in PAGE look at their pages again
  (s2.recs.filter (fun r => r.2.st == .page && s2.recVf r.2 == v)).foldl (fun s r => s.resumeTask r.1) s2
/-- START (R426): the imported VF resumes. -/
def execMigStart (s : State) : Host.Outcome State Fault Refusal :=
  s.migOp 5 fun v =>
    if s.mig.imported ≠ some v then s.migAnswer .refused 0
    else State.migAnswer (State.resumeVf { s with mig := { s.mig with imported := none } } v) .done 0
/-- ABORT (R425): the source VF resumes, and tracking ends. -/
def execMigAbort (s : State) : Host.Outcome State Fault Refusal :=
  s.migOp 6 fun v =>
    if (s.vf v).track = false then s.migAnswer .refused 0
    else
      let s1 := s.modVf v (fun x => { x with track := false, dirty := [] })
      State.migAnswer (if (s1.vf v).stopped then s1.resumeVf v else s1) .done 0
/-- MIGRATION_UNKNOWN_OP (R423). -/
def execMigrationUnknownOp (op : BitVec 4) (s : State) : Host.Outcome State Fault Refusal :=
  if !s.up || !s.mig.busy || s.mig.op != op.toNat || (decide (1 ≤ op.toNat) && decide (op.toNat ≤ 6)) then .next s
  else .next (s.migAnswer .unknown 0)

end Sys2Proof.Machine
end

