-- ==== Sys2Proof/Machine/Packed.lean ====
section
/-! DEFINITION. Packed FP16 and BF16 arithmetic and DOT2 (R124, R125). -/

namespace Sys2Proof.Machine

/-- Element j of a packed pair (R23). -/
def half (x j : Nat) : Nat := (x / 2 ^ (16 * j)) % 2 ^ 16
/-- Elements of the operands, with FZ applied. -/
def pkA (s : State) (a : Agent) (o : MOps) (L j : Nat) : Val := readVal (tyOf o) a.fz (half (valA s a o (.pk (tyOf o)) L) j)
def pkB (s : State) (a : Agent) (o : MOps) (L j : Nat) : Val := readVal (tyOf o) a.fz (half (valB s a o (.pk (tyOf o)) L) j)
def pkC (a : Agent) (o : MOps) (L j : Nat) : Val := readVal (tyOf o) a.fz (half (valC a o 1 L) j)
/-- Two element results as one register. -/
def pair (x y : Res) : Res := (x.1 + 2 ^ 16 * y.1, x.2 ||| y.2)

/-- Each element by a function of its operands' elements (R124). -/
def pk2op (i : Instr) (o : MOps) (f : Agent → Val → Val → Res) (s : State) : Host.Outcome State Fault Refusal :=
  vecOp i o 1 (fun s a L => pair (f a (pkA s a o L 0) (pkB s a o L 0)) (f a (pkA s a o L 1) (pkB s a o L 1))) s
def pk3op (i : Instr) (o : MOps) (f : Agent → Val → Val → Val → Res) (s : State) : Host.Outcome State Fault Refusal :=
  vecOp i o 1 (fun s a L => pair (f a (pkA s a o L 0) (pkB s a o L 0) (pkC a o L 0)) (f a (pkA s a o L 1) (pkB s a o L 1) (pkC a o L 1))) s
/-- Each element's sign bit (R122, R124). -/
def pkSign (i : Instr) (o : MOps) (f : Nat → Nat) (s : State) : Host.Outcome State Fault Refusal :=
  vecOp i o 1 (fun s a L => let x := valA s a o (.pk (tyOf o)) L; (f (half x 0) + 2 ^ 16 * f (half x 1), fNone)) s

/-- Packed ADD (R124). -/
def execAddPacked (o : MOps) (s : State) : Host.Outcome State Fault Refusal :=
  pk2op (.addPacked o) o (fun a => fpAdd (tyOf o) (binOf (tyOf o)) (rmOf a o) a.fz) s
/-- Packed SUB (R124). -/
def execSubPacked (o : MOps) (s : State) : Host.Outcome State Fault Refusal :=
  pk2op (.subPacked o) o (fun a => fpSub (tyOf o) (binOf (tyOf o)) (rmOf a o) a.fz) s
/-- Packed MUL (R124). -/
def execMulPacked (o : MOps) (s : State) : Host.Outcome State Fault Refusal :=
  pk2op (.mulPacked o) o (fun a => fpMul (tyOf o) (binOf (tyOf o)) (rmOf a o) a.fz) s
/-- Packed FMA (R120, R124). -/
def execFmaPacked (o : MOps) (s : State) : Host.Outcome State Fault Refusal :=
  pk3op (.fmaPacked o) o (fun a => fpFma (tyOf o) (binOf (tyOf o)) (rmOf a o) a.fz) s
/-- Packed MIN (R124). -/
def execMinPacked (o : MOps) (s : State) : Host.Outcome State Fault Refusal :=
  pk2op (.minPacked o) o (fun _ => fpMinMax (tyOf o) false) s
/-- Packed MAX (R124). -/
def execMaxPacked (o : MOps) (s : State) : Host.Outcome State Fault Refusal :=
  pk2op (.maxPacked o) o (fun _ => fpMinMax (tyOf o) true) s
/-- Packed ABS (R124). -/
def execAbsPacked (o : MOps) (s : State) : Host.Outcome State Fault Refusal :=
  pkSign (.absPacked o) o (clearSign 16) s
/-- Packed NEG (R124). -/
def execNegPacked (o : MOps) (s : State) : Host.Outcome State Fault Refusal :=
  pkSign (.negPacked o) o (flipSign 16) s
/-- DOT2: two exact products and FP32 C, rounded once (R125). -/
def execDot2 (o : MOps) (s : State) : Host.Outcome State Fault Refusal :=
  vecOp (.dot2 o) o 1 (fun s a L =>
    fpDot2 (rmOf a o) a.fz (pkA s a o L 0) (pkB s a o L 0) (pkA s a o L 1) (pkB s a o L 1) (readVal FP32 a.fz (valC a o 1 L))) s
/-- Packed CLAMP (R124). -/
def execClampPacked (o : MOps) (s : State) : Host.Outcome State Fault Refusal :=
  pk3op (.clampPacked o) o (fun _ => fpClamp (tyOf o)) s

end Sys2Proof.Machine
end

