-- ==== Sys2Proof/Machine/Tags.lean ====
section
/-! DEFINITION. Owner tags of the on-chip arrays, and what they do to reads and writes (R375, R376, R389; log 33). -/

namespace Sys2Proof.Machine

/-- The tagged units of the arrays (R375), by their physical places; the blocks of a warp are numbered from the first slot unit that it holds, and an entry of a queue by its place there (log 33). -/
inductive StoreUnit where
  /-- 512 bytes of the main register file: block i of the warp whose first slot unit is u -/
  | regBlock (cluster quad u i : Nat)
  /-- a staging set of the near buffer -/
  | staging (cluster quad u : Nat)
  /-- a context of a narrow core -/
  | narrowCtx (cluster n k : Nat)
  | granule (cluster g : Nat)
  /-- an ACM tile, a WB slot, an entry of the scale cache, an entry of a matrix unit's queue -/
  | tile (cluster quad t : Nat)
  | slot (cluster quad k : Nat)
  | scale (cluster quad k : Nat)
  | command (cluster quad i : Nat)
  /-- an entry of the buffers of the CE or of the SE -/
  | engine (cluster : Nat) (se : Bool) (i : Nat)
  /-- the 128-byte line of a device address, in an L1 or in L2 -/
  | line (d : Nat)
  deriving DecidableEq, Repr

/-- The key of a unit's tag. -/
def StoreUnit.key (u : StoreUnit) : Nat :=
  let at3 (kind c q i : Nat) : Nat := 16 * (2 ^ 20 * (8 * c + q) + i) + kind
  match u with
  | .regBlock c q u i => at3 0 c q (512 * u + i)
  | .staging c q u => at3 1 c q u
  | .narrowCtx c n k => at3 2 c n k
  | .granule c g => at3 3 c 0 g
  | .tile c q t => at3 4 c q t
  | .slot c q k => at3 5 c q k
  | .scale c q k => at3 6 c q k
  | .command c q i => at3 7 c q i
  | .engine c se i => at3 8 c (if se then 1 else 0) i
  | .line d => at3 9 0 0 (d / 128)

/-- The units that an agent holds, unless they have been claimed (R61, R62, R63, R292). -/
def State.unitsOfAgent (s : State) (a : Agent) : List StoreUnit :=
  let own := if s.unitUse a = 0 then [] else match a.core with
    | .wide _ _ => (a.units.take 1).flatMap (fun u =>
        .staging a.cluster a.core.quad u :: (List.range (blocksOf a.width a.nregs)).map (fun i => .regBlock a.cluster a.core.quad u i))
    | .narrow n => a.units.map (fun k => .narrowCtx a.cluster n k)
  own ++ (a.gmGran.filter (fun g => !(a.gmSpilt.contains g))).map (fun g => .granule a.cluster g)
/-- The units that an image of a matrix unit holds: those with contents that have not been spilt, and the entries of its queue. -/
def unitsOfMu (key : Nat) (m : Mu) : List StoreUnit :=
  let c := key / 8192
  let q := key / 1024 % 8
  let there (u : Nat) : Bool := !(m.spilt.contains u)
  ((List.range 16).filter (fun t => there t && m.acm.any (fun x => x.1 / 16384 == t))).map (fun t => .tile c q t)
    ++ ((m.wb.map (fun x => x.1)).filter (fun k => there (16 + k))).map (fun k => .slot c q k)
    ++ (if there 32 then m.scache.zipIdx.map (fun x => .scale c q x.2) else [])
    ++ ((m.queue.filter (fun x => !x.out)).zipIdx).map (fun x => .command c q x.2)
/-- Units with a holder, and the VF that holds each. -/
def State.heldUnits (s : State) : List (StoreUnit × Nat) :=
  s.agents.flatMap (fun x => (s.unitsOfAgent x.2).map (fun u => (u, x.2.vf)))
    ++ s.groups.flatMap (fun x => (x.2.granules.filter (fun g => !(x.2.spilt.contains g))).map (fun g => (.granule x.2.cluster g, x.2.vf)))
    ++ s.launches.flatMap (fun l => l.2.tgran.flatMap (fun t => (t.2.filter (fun g => !((mapGetD l.2.tspilt t.1 []).contains g))).map (fun g => (.granule t.1 g, l.2.vf))))
    ++ (s.mus.filter (fun x => s.ownsQuad (x.1 / 8192) (x.1 / 16 % 64) (x.1 / 1024 % 8))).flatMap (fun x => (unitsOfMu x.1 x.2).map (fun u => (u, x.1 / 16 % 64)))
    ++ s.engines.flatMap (fun x => ((x.2.filter (fun c => !c.out)).zipIdx).map (fun y => (.engine (x.1 / 2) (x.1 % 2 == 1) y.2, y.1.vf)))
/-- Every unit with a holder is tagged with its VF; a unit that nobody holds keeps its tag until its next owner writes it (R375, R376). -/
def State.retag (s : State) : NMap Owner := s.heldUnits.foldl (fun m x => mapSet m x.1.key (.vf x.2)) s.tags
/-- The tag of a unit (R375). That of a line is the owner of its extent; of an extent without an owner, and of a unit that no VF has held, it is Dale (log 33). -/
def State.tagOf (s : State) (u : StoreUnit) : Owner :=
  match u with
  | .line d => match mapGet? s.extents (extentOf d) with
    | some (.vf v) => .vf v
    | some (.win w) => .win w
    | none => .dale
  | u => mapGetD s.retag u.key .dale

/-- An agent of VF v sees the true contents of a unit with a tag (R376). -/
def State.mayRead (s : State) (tag : Owner) (v : Nat) : Bool :=
  match tag with
  | .vf n => n == v
  | .win w => ((mapGet? s.windows w).bind (fun x => mapGet? x.members v)).isSome
  | .dale => false
/-- A unit as a read by VF v finds it: zero in every byte where the tag is another's (R376). -/
def State.tagRead (s : State) (tag : Owner) (v : Nat) (bs : List Byte) : List Byte :=
  if s.mayRead tag v then bs else List.replicate bs.length 0
/-- A unit after a write of bytes at an offset by VF v: where the tag is another's, the bytes that the write does not supply become zero, and the tag becomes v (R376). -/
def State.tagWrite (s : State) (tag : Owner) (v : Nat) (unit : List Byte) (off : Nat) (bs : List Byte) : List Byte × Owner :=
  let base := s.tagRead tag v unit
  (base.take off ++ bs ++ base.drop (off + bs.length), match tag with | .win w => if s.mayRead tag v then .win w else .vf v | _ => .vf v)

end Sys2Proof.Machine
end

