-- ==== Sys2Proof/Machine/Power.lean ====
section
/-! DEFINITION. Faults of parts, resets, power, firmware and HBM temperature (R415 to R422, R427, R428). -/

namespace Sys2Proof.Machine

/-- The cluster of a task record's basin has failed, or is to be rebuilt (R422). -/
abbrev Lost := Nat → Bool

/-- A group of the failed part is lost: it counts once, and its launch completes with LOST (R344, R422). -/
def State.loseGroup (s : State) (g : Nat) : State :=
  match mapGet? s.groups g with
  | none => s
  | some x =>
    let s1 : State := State.closeRings { s with groups := mapErase s.groups g } (.group g)
    (s1.modLaunch x.launch (fun l => { l with lost := true, retired := l.retired + 1, nfault := if x.faulted || x.lost then l.nfault else satCount (l.nfault + 1) })).jot
      (.retired x.launch x.gid)

/-- A record of a failed basin as it is reinstated; none for one that is freed (R422). -/
def TaskRec.rebuilt (r : TaskRec) : Option TaskRec :=
  let clean := { r with buffer := [], lines := [], pages := [], ended := false, agent := 0, lane := 0 }
  match r.st with
  | .free => none
  | .irrev => if r.attached then some { clean with st := .held, spec := false, aborts := 0 } else none
  | .commit => if r.buffer.isEmpty then (if r.attached then some { clean with st := .held, spec := false, aborts := 0 } else none) else some { clean with st := .ready }
  | .running | .page => some { clean with st := if r.spec then .waiting else .ready }
  | _ => some clean
/-- A free record of a basin, its own number first. -/
def State.freeNear (s : State) (cluster i : Nat) : Option Nat :=
  (i :: List.range 4096).find? (fun r => s.recFree (4096 * cluster + r))
/-- A free record for one of a failed basin, by its old handle: in the basin of the lowest usable cluster of its VF that has room (R422). -/
def State.roomFor? (s : State) (vf h : Nat) : Option (Nat × Nat) := (s.ownClusters vf).findSome? (fun c => (s.freeNear c (h % 4096)).map (fun i => (c, i)))
/-- One record reinstated, h being its old handle, which is forwarded where it is still out. One that finds no room waits for it (R421, R422). -/
def State.reinstate (s : State) (h : Nat) (r : TaskRec) : State :=
  let vf := s.recVf r
  let cl := h / 4096 % 128
  let s := if r.st = .commit && r.buffer.isEmpty then s.jot (.committed cl (h % 4096)) else s
  match r.rebuilt with
  | none => if r.st = .free then s else s.jot (.freed cl (h % 4096))
  | some r =>
    match s.roomFor? vf h with
    | none => { s with stranded := s.stranded ++ [(h, r)] }
    | some (c, i) =>
      let core := s.chooseCore c vf
      let k' := 4096 * c + i
      let s1 : State := { s with
        recs := mapSet s.recs k' { r with core := core }
        forward := if r.attached && (s.handleOf c i).toNat != h then mapSet (s.forward.map (fun x => (x.1, if (s.handleOf (x.2 / 4096) (x.2 % 4096)).toNat = h && x.1 / 2 ^ 32 = vf then k' else x.2))) (2 ^ 32 * vf + h) k' else s.forward }
      match r.st with
      | .ready => (s1.pushTail c core vf i).jot (.ready c i)
      | .spec => (s1.pushTail c core vf i).jot (.spec c i)
      | .waiting => s1.jot (.waiting c i)
      | _ => s1
/-- The first record that waits to be reinstated and finds room (R422). -/
def State.reinstateNext (s : State) : State :=
  match s.stranded.find? (fun x => (s.roomFor? (s.recVf x.2) x.1).isSome) with
  | none => s
  | some x => State.reinstate { s with stranded := s.stranded.erase x } x.1 x.2
/-- An irrevocable task that ran on the failed part fails with CAUSE 0 (R422). -/
def State.failIrrev (s : State) (r : TaskRec) : State :=
  if r.st = .irrev then
    s.modLaunch r.launch (fun l =>
      let l := l.note 0 (BitVec.ofNat 32 r.entry) 0
      { l with taskFail := true, nfault := satCount (l.nfault + 1) })
  else s

/-- Work of failed clusters, rebuilt from the journal (R422): their groups are lost, their tasks reinstated once, and nothing is left on them. -/
def State.rebuild (s : State) (lost : Lost) : State :=
  let moved := s.recs.filter (fun x => lost (x.1 / 4096))
  let s1 := ((s.groups.filter (fun x => lost x.2.cluster)).map (fun x => x.1)).foldl State.loseGroup s
  -- packets in the slots of a failed basin are sent again; a peer's slot is free
  let stuck (p : Packet) : Bool := decide (p.place = 1) && lost (handleCl p.dst)
  let s2 : State := { s1 with
    agents := s1.agents.filter (fun x => !(lost x.2.cluster)), scratch := s1.scratch.filter (fun x => match s1.agent? x.1 with | some a => !(lost a.cluster) | none => false)
    rings := s1.rings.filter (fun x => !(lost (x.1 / 64))), engines := s1.engines.filter (fun x => !(lost (x.1 / 2)))
    mus := s1.mus.filter (fun x => !(lost (x.1 / 8192))), saddle := s1.saddle.filter (fun x => !(lost x.1))
    disps := s1.disps.filter (fun x => !(lost (x.1 / 2))), recs := s1.recs.filter (fun x => !(lost (x.1 / 4096)))
    purses := s1.purses.filter (fun x => !(lost (x.1 / 8)))
    tlb := s1.tlb.filter (fun x => !(if x.1 < 100 then false else if x.1 < 1000 then lost (x.1 - 100) else if x.1 < 10000 then lost ((x.1 - 1000) / 8) else lost ((x.1 - 10000) / 8)))
    credits := s1.credits.filter (fun x => !(lost (x.1 / 32)))
    packets := s1.packets.map (fun p => if stuck p then { p with place := 0, src := if p.src ≥ 16 then handleCl p.dst / 16 else p.src } else p)
    sent := s1.sent ++ (s1.packets.filter (fun p => stuck p && decide (p.src ≥ 16))).map (fun p => .creditBack (p.src - 16) (handleCl p.dst))
    waits := s1.waits.filter (fun w => match w.who with
      | .slot a _ => (match s1.agent? a with | some x => !(lost x.cluster) | none => false)
      | .task k => !(lost (k / 4096))
      | .eng c _ _ => !(lost c)
      | .mu k _ => !(lost (k / 8192))
      | .park _ => s1.agents.any (fun x => !(lost x.2.cluster) && (s1.parksOf x.1).contains w.who)
      | _ => true)
    steals := s1.steals.filter (fun x => !(lost (x.1 / 64))), idleAt := s1.idleAt.filter (fun x => !(lost (x.1 / 64)))
    launches := s1.launches.map (fun x => (x.1, { x.2 with tareas := x.2.tareas.filter (fun t => !(lost t.1)), tgran := x.2.tgran.filter (fun t => !(lost t.1)), tspilt := x.2.tspilt.filter (fun t => !(lost t.1)), tunfilled := x.2.tunfilled.filter (fun t => !(lost t.1)) })) }
  let s3 := moved.foldl (fun s x => s.failIrrev x.2) s2
  moved.foldl (fun s x => s.reinstate (s.handleOf (x.1 / 4096) (x.1 % 4096)).toNat x.2) s3

/-- Clusters of a part. -/
def lostBy (p : Part) : Lost :=
  match p with
  | .cluster n => fun c => c == n
  | .chiplet n => fun c => c / 16 == n
  | .link _ => fun _ => false
/-- A part fenced: nothing is placed, dispatched or routed there (R422). -/
def State.fence (s : State) (p : Part) : State :=
  match p with
  | .cluster n => { s with fencedClusters := insertNat s.fencedClusters n }
  | .chiplet n => s.modChiplet n (fun c => { c with fenced := true })
  | .link n => { s with fencedLinks := insertNat s.fencedLinks n }
/-- Every queue's completion word is to be rewritten from the journal (R422). -/
def State.markWords (s : State) : State :=
  { s with vfs := s.vfs.map (fun v => (v.1, { v.2 with ctxs := v.2.ctxs.map (fun c => (c.1, { c.2 with queues := c.2.queues.map (fun q => (q.1, { q.2 with rewrite := true })) })) })) }
/-- A completion word rewritten from the journal, once its address translates (R422). -/
def State.rewriteWord (s : State) (r : QRef) : State :=
  match s.ctx? r.vf r.ctx with
  | none => s
  | some c =>
    match c.queue? r.q with
    | none => s
    | some q =>
      if !q.rewrite then s
      else
        let x := s.devWrite (.queue r) r.vf c.pasid q.caddr.toNat (bytesOf q.completed 8) (Ev.link [] [] [])
        if x.2 then x.1.modQueue r (fun q => { q with rewrite := false }) else x.1
/-- SINGLE_PART_FAULT (R422). -/
def execSinglePartFault (part : Part) (s : State) : Host.Outcome State Fault Refusal :=
  .next ((s.fence part).rebuild (lostBy part)).markWords

/-- Percent of a stack's nominal bandwidth at a row of R415. -/
def hbmPercent (row : Nat) : Nat := match row with | 0 => 100 | 1 => 75 | _ => 50
/-- VFs that own a slot of link 17 and own or share an extent (R416). -/
def State.bwVfs (s : State) : List Nat :=
  (List.range 64).filter (fun v =>
    (mapGetD s.slotTabs 17 []).any (fun b => b == BitVec.ofNat 8 (128 + v))
      && (!(s.vf v).extents.isEmpty || s.windows.any (fun w => (mapGet? w.2.members v).isSome && !w.2.extents.isEmpty)))

/-- Lines not written back are lost, and HBM keeps its contents: their granules read what was last written back, zeros where nothing was (R384, R421). What the counter cache held is lost with them. -/
def State.loseLines (s : State) : State :=
  s.dirty.foldl (fun s g => { s with mem := memWrite s.mem (256 * g.1) g.2 }) { s with dirty := [], whole := [], verified := [] }
/-- The last VF time that Dale has journaled; the present one where it has journaled none (R427; log 22). -/
def State.lastTime (s : State) (v : Nat) : Nat := (s.journaled v).getD (s.vfTime v)

/-- A VF as a warm reset leaves it: contexts run, those of a VF that STOP has stopped stay halted for ABORT, and doorbells name the records accepted (R425; log 22). -/
def Vf.rebooted (v : Vf) : Vf :=
  { v with groups := [], priStop := false, newShare := none
           ctxs := v.ctxs.map (fun c => (c.1, { c.2 with st := if v.stopped then .halted else .run, tails := c.2.queues.map (fun q => (q.1, BitVec.ofNat 32 q.2.accepted)) })) }
/-- A chiplet as it comes up: 0.60 GHz until a vote is cast (R428); a fence stays. -/
def Chiplet.rebooted (c : Chiplet) : Chiplet := { Chiplet.base with fenced := c.fenced, hot := c.hot }

/-- The shared task areas of launches that go on through a warm reset: each is held until its launch completes, and its bytes are lost (R292; log 22). -/
def State.holdAreas (s : State) (old : NMap Launch) : State :=
  old.foldl (fun s x =>
    let n := x.2.tsh / 4096
    if x.2.refused ∨ n = 0 then s
    else (x.2.tgran.filter (fun t => (s.ownClusters x.2.vf).contains t.1)).foldl (fun s t =>
      match s.takeGranules t.1 x.2.vf n with
      | some g => s.modLaunch x.1 (fun l => { l with tgran := mapSet l.tgran t.1 g })
      | none => s) s) s
/-- The bring-up of a warm reset with firmware that verifies (R373, R421, R422, R427, R428). -/
def State.reboot (s : State) : State :=
  let offsets := (s.vfs.filter (fun v => v.2.enabled)).map (fun v => (v.1, s.lastTime v.1 + if (s.journaled v.1).isSome then 2 ^ 20 else 0))
  let s1 := s.loseLines.markWords
  let s2 : State := { s1 with
    parts := s1.parts.map (fun x => (x.1, { x.2 with gmb := x.2.gmb.filter (fun b => decide (b < 8)) })), splits := []
    tlb := [], ats := [], waits := [], fails := [], invals := [], ringCache := [], gmBad := [], credits := [], steals := [], stealAt := [], idleAt := []
    pfBox := Mailbox.reset, vfBoxes := [], mig := Migration.reset, spdm := false, hostRead := [], events := [], slot := 0, newTabs := []
    chiplets := (s1.chiplets.map (fun c => (c.1, c.2.rebooted))).filter (fun c => c.2 != Chiplet.base)
    vfs := s1.vfs.map (fun v => (v.1, v.2.rebooted)), cur := none, time := 0, vfOffset := offsets.foldl (fun m x => mapPut 0 m x.1 x.2) []
    launches := s1.launches.map (fun l => (l.1, { l.2 with cursor := 0, passed := [] })) }
  let s3 := s2.rebuild (fun _ => true)
  let s4 : State := { s3 with packets := s3.packets.map (fun p => { p with place := if p.place = 1 then 0 else p.place, evs := [] }) }
  (List.range 64).foldl (fun s v => if (s.vf v).enabled then s.licRewrite v else s) (s4.holdAreas s.launches)
/-- The security version in an image's header (R417). -/
def imageSvn (im : List Byte) : Nat := ofBytes ((im.drop 4).take 4)
/-- An image's header and length are right (R417). -/
def imageFormed (im : List Byte) : Bool :=
  let body := ofBytes ((im.drop 8).take 4)
  decide (im.length ≥ 112) && ofBytes (im.take 4) == 0x4B593446 && body % 4096 == 0 && decide (im.length = body + 96) && ofBytes ((im.drop 12).take 4) == 0
/-- The signature that follows an image's body is sound (R417). -/
def imageSigned (im : List Byte) : Bool := Config.verifies (sha384 (im.take (im.length - 96))) (im.drop (im.length - 96))
/-- An image runs: the fused minimum rises to its version (R417). -/
def Firmware.run (f : Firmware) : Firmware := { f with recovery := false, minSvn := max f.minSvn (imageSvn f.flash) }
/-- The boot ROM's check of the image in flash: header and length, signature, and security version (R417). -/
def Firmware.good (f : Firmware) : Bool := imageFormed f.flash && imageSigned f.flash && decide (f.minSvn ≤ imageSvn f.flash)
/-- The firmware after a reset: the recovery block at its reset values, and the image runs or the boot ROM is in recovery (R417, R418). -/
def Firmware.boot (f : Firmware) : Firmware :=
  let x := { f with rcvGo := false, rcvResult := 0, rcvAddr := 0, rcvLen := 0 }
  if f.good then x.run else { x with recovery := true }
/-- A warm reset of the device (R417, R418, R422, R428): the boot ROM verifies the image first. With one that fails firmware does nothing: the rest stands as it is until the reset after a recovery load. Nothing happens without power. -/
def State.warm (s : State) : State :=
  if !s.powered then s
  else
    let f := s.fw.boot
    if f.recovery then { s with fw := f, cur := none, spdm := false, hostRead := [] } else { s.reboot with fw := f }
/-- WARM_RESET (R422, R427, R428). -/
def execWarmReset (s : State) : Host.Outcome State Fault Refusal := .next s.warm

/-- The dump of a fatal error (R420). The counts of a root are the entries of level 5 of the counter trees (R385); of commands, messages and records it has the names and where they stand, not what they carry. -/
def State.dumpNow (s : State) : Dump :=
  { number := (match s.dump with | some d => d.number | none => 0) + 1
    poison := s.poison, clusters := s.fencedClusters ++ (List.range 128).filter (fun c => s.chipletFenced (c / 16)), links := s.fencedLinks
    extents := s.extents, parts := s.parts, slotTabs := s.slotTabs
    roots := s.nodes.filter (fun x => x.1 / (65 * 2 ^ 20) % 8 == 5)
    queues := s.vfs.flatMap (fun v => v.2.ctxs.flatMap (fun c => c.2.queues.map (fun q => (⟨v.1, c.1, q.1⟩, q.2.accepted, q.2.completed))))
    basins := s.disps.map (fun x => (x.1, x.2.deques.map (fun d => (d.1, d.2.length))))
    journal := s.journal.length, chiplets := s.chiplets, purses := s.purses
    tags := s.retag
    slots := s.agents.map (fun x => (x.1, x.2.vf, x.2.cluster, x.2.core, x.2.slotA.wait, x.2.slotB.wait))
    engines := s.engines.map (fun q => (q.1, q.2.map (fun c => ⟨c.id, c.vf, c.ctx, c.begun, c.finished, c.out⟩)))
    mus := s.mus.map (fun m => (m.1, m.2.queue.map (fun c => ⟨c.id, m.1 / 16 % 64, m.1 % 16, c.started, false, c.out⟩)))
    muUnits := s.mus.map (fun m => (m.1, m.2.spilt, m.2.unfilled))
    saddle := s.saddle.map (fun q => (q.1, q.2.map (fun m => (m.src, m.dst))))
    rings := s.rings.map (fun r => (r.1, r.2.rsv, r.2.pst, r.2.tkn, r.2.dne))
    barriers := s.groups.map (fun g => (g.1, g.2.barriers.map (fun b => (b.1, b.2.gen))))
    records := s.recs.map (fun r => (r.1, r.2.st))
    bins := s.disps.map (fun d => (d.1, ⟨d.2.bins.map (fun b => (b.1, b.2.recs.length, b.2.age, b.2.closed)), d.2.skips, d.2.drain⟩))
    packets := s.packets.map (fun p => (p.dst, p.place)), credits := s.credits, farCredits := s.farCredits, steals := s.steals, stealAt := s.stealAt
    launches := s.launches.map (fun l => (l.1, l.2.placed, l.2.retired))
    ats := s.ats, waits := s.waits, invals := s.invals, groups := s.vfs.map (fun v => (v.1, v.2.groups))
    boxes := (s.pfBox.cmd, s.pfBox.busy) :: s.vfBoxes.map (fun b => (b.2.cmd, b.2.busy)), slot := s.slot, hbm := s.hbm, mig := (s.mig.ctl, s.mig.busy, s.mig.session) }
/-- A fatal error (R420): the links report the device unavailable, the dump replaces the last one, and the device resets warm. -/
def State.fatal (s : State) : State :=
  if !s.powered then s
  else State.warm ((State.emit { s with dump := some s.dumpNow } .unavailable))
/-- FATAL_ERROR (R420). -/
def execFatalError (s : State) : Host.Outcome State Fault Refusal := .next s.fatal

/-- The threshold of a row of R415, in tenths of a degree. -/
def hbmLimit (row : Nat) : Nat := match row with | 1 => 850 | 2 => 950 | _ => 1050
/-- The highest row whose threshold a temperature is above. -/
def hbmAbove (tenths : Nat) : Nat := if tenths > 1050 then 3 else if tenths > 950 then 2 else if tenths > 850 then 1 else 0
/-- A row left while the stack is 3 degrees below its threshold (R415). -/
def hbmLeave (tenths : Nat) : Nat → Nat
  | 0 => 0
  | r + 1 => if tenths + 30 ≤ hbmLimit (r + 1) then hbmLeave tenths r else r + 1
/-- The row of a stack at a temperature, from the row that it was in (R415). -/
def hbmRow (was tenths : Nat) : Nat := max (hbmAbove tenths) (hbmLeave tenths was)
/-- HBM_THERMAL_CHANGE (R415, R416): a stack's temperature: its row changes, and the VFs that are concerned learn it; row 3, the thermal trip, is a fatal error. -/
def execHbmThermalChange (stack tenths : Nat) (s : State) : Host.Outcome State Fault Refusal :=
  let row := hbmRow (mapGetD s.hbm stack 0) tenths
  if stack ≥ 8 ∨ mapGetD s.hbm stack 0 = row then .next s
  else if row = 3 then .next s.fatal
  else
    let s1 : State := { s with hbm := mapPut 0 s.hbm stack row }
    .next (s1.bwVfs.foldl (fun s v => s.postEvent v 2 (stack + 256 * hbmPercent row)) s1)

/-- RECOVERY_LOAD (R418): GO has been written; the image is read and checked; one that passes is written to flash, and the device resets. -/
def execRecoveryLoad (s : State) : Host.Outcome State Fault Refusal :=
  if !s.powered || !s.fw.recovery || !s.fw.rcvGo then .next s
  else
    let im := memRead s.hostMem s.fw.rcvAddr.toNat s.fw.rcvLen.toNat
    let result (n : Nat) : State := { s with fw := { s.fw with rcvGo := false, rcvResult := n } }
    if s.fw.rcvAddr.toNat % 4096 ≠ 0 ∨ imageFormed im = false then .next (result 4)
    else if imageSigned im = false then .next (result 2)
    else if imageSvn im < s.fw.minSvn then .next (result 3)
    else .next (State.reboot { s with fw := ({ s.fw with flash := im, rcvGo := false, rcvResult := 1, rcvAddr := 0, rcvLen := 0 } : Firmware).run })

/-- POWER_LOSS (R422): every key is retired, and no memory, no journal and no work survives. -/
def execPowerLoss (s : State) : Host.Outcome State Fault Refusal :=
  .next { State.reset with
    powered := false, fw := { Firmware.reset with flash := s.fw.flash, minSvn := s.fw.minSvn }, hostMem := s.hostMem, devNum := s.devNum, bar2 := s.bar2
    fresh := s.fresh, keys := s.keys, nextId := s.nextId, sent := s.sent, agenda := s.agenda }
/-- POWER_ON (R417, R418, R420, R428): the image in flash verifies, and the device comes up, a seam or a stack that does not train being fatal; or it does not verify, and the boot ROM is in recovery. -/
def execPowerOn (trained : Bool) (s : State) : Host.Outcome State Fault Refusal :=
  if s.powered then .next s
  else
    let t : State := { State.reset with
      fw := ({ Firmware.reset with flash := s.fw.flash, minSvn := s.fw.minSvn } : Firmware).boot
      hostMem := s.hostMem, devNum := s.devNum, bar2 := s.bar2, fresh := s.fresh, keys := s.keys, nextId := s.nextId, sent := s.sent, agenda := s.agenda }
    .next (if trained || !t.up then t else t.fatal)

end Sys2Proof.Machine
end

