-- ==== Sys2Proof/Machine/Pred.lean ====
section
/-! DEFINITION. Compare, select, move and predicates (R126 to R129). -/

namespace Sys2Proof.Machine

/-- SETP: MOD[2:0] is the condition (R126). -/
def execSetp (o : MOps) (s : State) : Host.Outcome State Fault Refusal :=
  predOp (.setp o) o (fun s a L =>
    if tyOf o = FP32 ∨ tyOf o = FP64 then ccFp (modLow o) (fpA s a o L) (fpB s a o L)
    else (ccInt (modLow o)
      (intOfCode (tyOf o) (valA s a o (.bits (tyRegs o)) L)) (intOfCode (tyOf o) (valB s a o (.bits (tyRegs o)) L)), fNone)) s

/-- SEL: D := A when pC holds, else B; C[3] negates (R127). -/
def execSel (o : MOps) (s : State) : Host.Outcome State Fault Refusal :=
  bitsOp (.sel o) o (tyRegs o) (fun s a L =>
    let pc := (a.p (o.c.toNat % 8)).getLsbD L != o.c.getLsbD 3
    if pc then valA s a o (intTy o) L else valB s a o (intTy o) L) s

/-- MOV's source: A, or the literal (R127). -/
def movSrc (s : State) (a : Agent) (o : MOps) (L : Nat) : Nat :=
  match o.lit with
  | some w => litValue (intTy o) w
  | none => valA s a o (intTy o) L

def movOp (i : Instr) (o : MOps) (s : State) : Host.Outcome State Fault Refusal :=
  bitsOp i o (tyRegs o) (fun s a L => movSrc s a o L) s

/-- MOV (R127). -/
def execMov (o : MOps) (s : State) : Host.Outcome State Fault Refusal := movOp (.mov o) o s
/-- MOV vD, vA (R93). -/
def execMovSVector (o : SOps) (s : State) : Host.Outcome State Fault Refusal := movOp (.movSVector o) (shortOps (.movSVector o)) s
/-- MOV vD, sA (R93). -/
def execMovSScalar (o : SOps) (s : State) : Host.Outcome State Fault Refusal := movOp (.movSScalar o) (shortOps (.movSScalar o)) s
/-- MOV vD, imm (R93). -/
def execMovSImm (o : SOps) (s : State) : Host.Outcome State Fault Refusal := movOp (.movSImm o) (shortOps (.movSImm o)) s
/-- MOV vD, %name (R93). -/
def execMovSSpecial (o : SOps) (s : State) : Host.Outcome State Fault Refusal := movOp (.movSSpecial o) (shortOps (.movSSpecial o)) s

/-- PLOP: the truth table is MOD (R128). -/
def execPlop (o : MOps) (s : State) : Host.Outcome State Fault Refusal :=
  predOp (.plop o) o (fun _ a L =>
    let bit (x : Nat) (w : Nat) : Nat := if (a.p (x % 8)).getLsbD L then w else 0
    (o.mod.getLsbD (bit o.a.field.toNat 4 + bit o.b.field.toNat 2 + bit o.c.toNat 1), fNone)) s

/-- PRD: bits 7 to 0 are p7 to p0 (R128). -/
def execPrd (o : MOps) (s : State) : Host.Outcome State Fault Refusal :=
  bitsOp (.prd o) o 1 (fun _ a L => (List.range 8).foldl (fun x k => if (a.p k).getLsbD L then x + 2 ^ k else x) 0) s

/-- PWR: p_i := A[i] for each i from 1 to 7 with B[i] set (R128). -/
def execPwr (o : MOps) (s : State) : Host.Outcome State Fault Refusal :=
  s.onPath fun id b a p =>
    let act := a.active p o.g
    if act = 0 then .next (s.finish id b (.pwr o) a)
    else
      let x := fun L => valA s a o (.bits 1) L
      let y := fun L => valB s a o (.bits 1) L
      let a' := (List.range 8).foldl (fun (a' : Agent) k =>
        a'.setP k (act &&& maskOf (fun L => (y L).testBit k)) (maskOf (fun L => (x L).testBit k))) (a.account s (.pwr o))
      .next (s.finish id b (.pwr o) a')

/-- CLASS (R129). -/
def execClass (o : MOps) (s : State) : Host.Outcome State Fault Refusal :=
  predOp (.class o) o (fun s a L =>
    (decide (classBits (tyOf o) (valA s a o (.fp (tyOf o)) L) &&& (valB s a o (.bits 1) L % 1024) ≠ 0), fNone)) s

end Sys2Proof.Machine
end

