-- ==== Sys2Proof/Machine/Registers.lean ====
section
/-! DEFINITION. The device's registers as the host writes and reads them (R13, R316, R353, R355, R368, R395, R418, R423). -/

namespace Sys2Proof.Machine

/-- A register field without its reserved bits (R13). -/
def regBits (v : DWord) (m : Nat) : Word := BitVec.ofNat 32 (v.toNat &&& m)
/-- A write of CTXCTL (R395): HALT and RESUME together are ignored, and each acts in one state alone. -/
def State.writeCtxctl (s : State) (vf ctx : Nat) (v : DWord) : State :=
  match s.ctx? vf ctx with
  | none => s
  | some c =>
    if v.getLsbD 31 && v.getLsbD 30 then s
    else if v.getLsbD 31 then (if c.st = .run then s.haltCtx vf ctx else s)
    else if v.getLsbD 30 then (if c.st = .halted then s.resumeCtx vf ctx else s)
    else s
/-- The groups of a VF that have not been sent fail, as its Enable is clear (R355; log 33). -/
def State.failUnsent (s : State) (vf : Nat) : State := s.failGroups vf ((s.vf vf).groups.filter (fun g => g.prgi.isNone))
/-- REGISTER_WRITE (R316, R353, R355, R368, R395, R418, R423): reserved bits are ignored (R13). -/
def execRegisterWrite (r : DevReg) (v : DWord) (s : State) : Host.Outcome State Fault Refusal :=
  match r with
  | .liccfg c => if c ≥ 8 then .next s else .next (s.modChiplet c (fun x => { x with stepNew := some (field v.toNat 0 24) }))
  | .licinj c vf =>
    if c ≥ 8 ∨ vf ≥ 64 then .next s
    else .next (s.modChiplet c (fun x => { x with injNew := mapSet x.injNew vf ⟨v.getLsbD 31, field v.toNat 16 14, field v.toNat 0 16⟩ }))
  | .mbcmd f =>
    let m := s.box f
    if !s.present f || m.busy then .next s
    else .next (s.setBox f { m with cmd := regBits v 0x800000FF, busy := v.getLsbD 31, args := if v.getLsbD 31 then m.data else m.args })
  | .mbdata f k => if !s.present f || decide (k ≥ 8) then .next s else .next (s.setBox f { s.box f with data := mapPut 0 (s.box f).data k v })
  | .ctxctl vf ctx => if !s.up || !(s.vf vf).enabled then .next s else .next (s.writeCtxctl vf ctx v)
  | .rcvctl => if s.fw.recovery && v.getLsbD 31 then .next { s with fw := { s.fw with rcvGo := true } } else .next s
  | .rcvaddr => if s.fw.recovery then .next { s with fw := { s.fw with rcvAddr := v } } else .next s
  | .rcvlen => if s.fw.recovery then .next { s with fw := { s.fw with rcvLen := v } } else .next s
  | .migctl =>
    if !s.up || s.mig.busy then .next s
    else .next { s with mig := { s.mig with ctl := regBits v 0x80003F0F, busy := v.getLsbD 31 } }
  | .migbuf => if !s.up then .next s else .next { s with mig := { s.mig with buf := v } }
  | .miglen => if !s.up then .next s else .next { s with mig := { s.mig with len := v } }
  | .prialloc vf =>
    -- an allocation of 0 is treated as a clear Enable (R353)
    let s1 := s.modVf vf (fun x => { x with priAlloc := v.toNat % 2 ^ 32 })
    .next (if v.toNat % 2 ^ 32 = 0 then s1.failUnsent vf else s1)
  | .prictl vf =>
    -- Enable is bit 0 (R355; log 33)
    let was := (s.vf vf).priEn
    let s1 := s.modVf vf (fun x => { x with priEn := v.getLsbD 0, priStop := x.priStop && !(v.getLsbD 0 && !was) })
    .next (if v.getLsbD 0 then s1 else s1.failUnsent vf)

/-- ST as CTXCTL shows it (R395). -/
def CtxSt.code (c : CtxSt) : Nat := match c with | .run => 0 | .halting => 1 | .halted => 2 | .resuming => 3
/-- A register as a read finds it, reserved bits zero (R13, R316, R353, R355, R368, R395, R418, R423). -/
def State.regRead (s : State) (r : DevReg) : DWord :=
  match r with
  | .liccfg c => BitVec.ofNat 64 (s.chiplet c).step
  | .licinj c vf =>
    let x := (s.chiplet c).injOf vf
    BitVec.ofNat 64 ((if x.en then 2 ^ 31 else 0) + 2 ^ 16 * x.pt + x.inj)
  | .mbcmd f => (s.box f).cmd.zeroExtend 64
  | .mbdata f k => mapGetD (s.box f).data k 0
  | .ctxctl vf ctx => match s.ctx? vf ctx with | some c => BitVec.ofNat 64 (2 ^ 8 * c.st.code) | none => 0
  | .rcvctl => if s.fw.rcvGo then 0x80000000 else 0
  | .rcvaddr => s.fw.rcvAddr
  | .rcvlen => s.fw.rcvLen
  | .migctl => s.mig.ctl.zeroExtend 64
  | .migbuf => s.mig.buf
  | .miglen => s.mig.len
  | .prialloc vf => BitVec.ofNat 64 (s.vf vf).priAlloc
  | .prictl vf => if (s.vf vf).priEn then 1 else 0
/-- RCVSTS: REC and RESULT (R418). -/
def Firmware.status (f : Firmware) : Word := BitVec.ofNat 32 ((if f.recovery then 2 ^ 31 else 0) + f.rcvResult)

/-- MIGSTS: BUSY and RESULT (R423). -/
def Migration.status (m : Migration) : Word := BitVec.ofNat 32 ((if m.busy then 2 ^ 31 else 0) + m.result % 256)
/-- What a host read at an offset of a function's BAR0 returns (R368, R395, R418, R423); none where no register that is read lies. In recovery only the recovery block is there. -/
def State.bar0Read (s : State) (f : Fn) (off : Nat) : Option DWord :=
  if !(s.present f || (s.powered && f == .pf && decide (0x8000 ≤ off))) then none
  else match bar0At f off with
  | some (.reg r) => some (s.regRead r)
  | some (.bell _) => none
  | none =>
    if off = mbStsAt then some ((s.box f).status.zeroExtend 64)
    else if f = .pf ∧ off = 0x4004 then some (s.mig.status.zeroExtend 64)
    else if f = .pf ∧ off = 0x4018 then some s.mig.cnt
    else if f = .pf ∧ off = 0x8004 then some (s.fw.status.zeroExtend 64)
    else none

end Sys2Proof.Machine
end

