-- ==== Sys2Proof/Machine/Scalar.lean ====
section
/-! DEFINITION. The scalar group except SLD (R148, R149). -/

namespace Sys2Proof.Machine

/-- An integer result for the warp, wrapped or clamped (R148). -/
def sInt (i : Instr) (o : MOps) (f : State → Agent → Int) (s : State) : Host.Outcome State Fault Refusal :=
  scalOp i o (tyRegs o) (fun s a _ => clampInt (tyOf o) (satOf o) (f s a)) s
/-- A bits result for the warp of n registers. -/
def sBits (i : Instr) (o : MOps) (n : Nat) (f : State → Agent → Nat) (s : State) : Host.Outcome State Fault Refusal :=
  scalOp i o n (fun s a _ => (f s a, fNone)) s
/-- Operands of the type as bits. -/
def sA (s : State) (a : Agent) (o : MOps) : Nat := valA s a o (intTy o) 0
def sB (s : State) (a : Agent) (o : MOps) : Nat := valB s a o (intTy o) 0

def saddOp (i : Instr) (o : MOps) (s : State) : Host.Outcome State Fault Refusal := sInt i o (fun s a => intA s a o 0 + intB s a o 0) s
def smovOp (i : Instr) (o : MOps) (s : State) : Host.Outcome State Fault Refusal := sBits i o (tyRegs o) (fun s a => movSrc s a o 0) s

/-- SADD (R148). -/
def execSadd (o : MOps) (s : State) : Host.Outcome State Fault Refusal := saddOp (.sadd o) o s
/-- SSUB (R148). -/
def execSsub (o : MOps) (s : State) : Host.Outcome State Fault Refusal := sInt (.ssub o) o (fun s a => intA s a o 0 - intB s a o 0) s
/-- SMUL (R148). -/
def execSmul (o : MOps) (s : State) : Host.Outcome State Fault Refusal := sInt (.smul o) o (fun s a => intA s a o 0 * intB s a o 0) s
/-- SAND (R148). -/
def execSand (o : MOps) (s : State) : Host.Outcome State Fault Refusal := sBits (.sand o) o (tyRegs o) (fun s a => sA s a o &&& sB s a o) s
/-- SOR (R148). -/
def execSor (o : MOps) (s : State) : Host.Outcome State Fault Refusal := sBits (.sor o) o (tyRegs o) (fun s a => sA s a o ||| sB s a o) s
/-- SXOR (R148). -/
def execSxor (o : MOps) (s : State) : Host.Outcome State Fault Refusal := sBits (.sxor o) o (tyRegs o) (fun s a => sA s a o ^^^ sB s a o) s
/-- SSHL (R118, R148). -/
def execSshl (o : MOps) (s : State) : Host.Outcome State Fault Refusal := sBits (.sshl o) o (tyRegs o) (fun s a => shlN (wOf o) (sA s a o) (valB s a o (.bits 1) 0)) s
/-- SSHR (R118, R148). -/
def execSshr (o : MOps) (s : State) : Host.Outcome State Fault Refusal := sBits (.sshr o) o (tyRegs o) (fun s a => shrN (tyOf o) (sA s a o) (valB s a o (.bits 1) 0)) s
/-- SMOV (R127, R148). -/
def execSmov (o : MOps) (s : State) : Host.Outcome State Fault Refusal := smovOp (.smov o) o s
/-- SCMP: 1 when the condition in C holds, else 0 (R148). -/
def execScmp (o : MOps) (s : State) : Host.Outcome State Fault Refusal := sBits (.scmp o) o 1 (fun s a => if ccInt (o.c.toNat % 8) (intA s a o 0) (intB s a o 0) then 1 else 0) s
/-- SSEL: A when sC is not zero (R148). -/
def execSsel (o : MOps) (s : State) : Host.Outcome State Fault Refusal := sBits (.ssel o) o (tyRegs o) (fun s a => if valC a o 1 0 ≠ 0 then sA s a o else sB s a o) s
/-- SMIN (R148). -/
def execSmin (o : MOps) (s : State) : Host.Outcome State Fault Refusal := sInt (.smin o) o (fun s a => min (intA s a o 0) (intB s a o 0)) s
/-- SMAX (R148). -/
def execSmax (o : MOps) (s : State) : Host.Outcome State Fault Refusal := sInt (.smax o) o (fun s a => max (intA s a o 0) (intB s a o 0)) s
/-- RDLANE: A of lane B, when that lane is within the width and in the slot's mask; else 0 (R149). -/
def execRdlane (o : MOps) (s : State) : Host.Outcome State Fault Refusal :=
  scalOp (.rdlane o) o (tyRegs o) (fun s a p =>
    let L := valB s a o (.bits 1) 0
    (if decide (L < a.width) && decide (L < 64) && p.mask.getLsbD L then valA s a o (intTy o) L else 0, fNone)) s
/-- SPOPC (R148). -/
def execSpopc (o : MOps) (s : State) : Host.Outcome State Fault Refusal := sBits (.spopc o) o 1 (fun s a => popN (wOf o) (sA s a o)) s
/-- SADD.I32 sD, sA, imm (R93). -/
def execSaddI32SImm (o : SOps) (s : State) : Host.Outcome State Fault Refusal := saddOp (.saddI32SImm o) (shortOps (.saddI32SImm o)) s
/-- SMOV sD, sA (R93). -/
def execSmovS (o : SOps) (s : State) : Host.Outcome State Fault Refusal := smovOp (.smovS o) (shortOps (.smovS o)) s
/-- SMOV sD, imm (R93). -/
def execSmovSImm (o : SOps) (s : State) : Host.Outcome State Fault Refusal := smovOp (.smovSImm o) (shortOps (.smovSImm o)) s
/-- SMOV sD, %name (R93). -/
def execSmovSSpecial (o : SOps) (s : State) : Host.Outcome State Fault Refusal := smovOp (.smovSSpecial o) (shortOps (.smovSSpecial o)) s

end Sys2Proof.Machine
end

