-- ==== Sys2Proof/Machine/Special.lean ====
section
/-! DEFINITION. Special functions (R138 to R140). -/

namespace Sys2Proof.Machine

/-- A special function of any type it takes: FP32, packed 16-bit, or FP64 for RCP and SQRT (R138). -/
def specialOp (i : Instr) (o : MOps) (fn : SFn) (s : State) : Host.Outcome State Fault Refusal :=
  let f := tyOf o
  if f = FP64 then vecOp i o 2 (fun s a L => specialF64 fn (rmOf a o) a.fz (valA s a o (.fp FP64) L)) s
  else if f = FP32 then vecOp i o 1 (fun s a L => specialCode fn FP32 a.fz (valA s a o (.fp FP32) L)) s
  else vecOp i o 1 (fun s a L =>
    let x := valA s a o (.pk f) L
    pair (specialCode fn f a.fz (half x 0)) (specialCode fn f a.fz (half x 1))) s

/-- 2^A (R138). -/
def execEx2 (o : MOps) (s : State) : Host.Outcome State Fault Refusal :=
  specialOp (.ex2 o) o .ex2 s
/-- log2 A (R138). -/
def execLg2 (o : MOps) (s : State) : Host.Outcome State Fault Refusal :=
  specialOp (.lg2 o) o .lg2 s
/-- 1 / A (R138). -/
def execRcp (o : MOps) (s : State) : Host.Outcome State Fault Refusal :=
  specialOp (.rcp o) o .rcp s
/-- 1 over the square root of A (R138). -/
def execRsq (o : MOps) (s : State) : Host.Outcome State Fault Refusal :=
  specialOp (.rsq o) o .rsq s
/-- the square root of A (R138). -/
def execSqrt (o : MOps) (s : State) : Host.Outcome State Fault Refusal :=
  specialOp (.sqrt o) o .sqrt s
/-- sin (pi A) (R138). -/
def execSinPi (o : MOps) (s : State) : Host.Outcome State Fault Refusal :=
  specialOp (.sinPi o) o .sinPi s
/-- cos (pi A) (R138). -/
def execCosPi (o : MOps) (s : State) : Host.Outcome State Fault Refusal :=
  specialOp (.cosPi o) o .cosPi s
/-- tanh A (R138). -/
def execTanh (o : MOps) (s : State) : Host.Outcome State Fault Refusal :=
  specialOp (.tanh o) o .tanh s
/-- 1 / (1 + e^-A) (R138). -/
def execSigm (o : MOps) (s : State) : Host.Outcome State Fault Refusal :=
  specialOp (.sigm o) o .sigm s
/-- erf A (R138). -/
def execErf (o : MOps) (s : State) : Host.Outcome State Fault Refusal :=
  specialOp (.erf o) o .erf s

end Sys2Proof.Machine
end

