-- ==== Sys2Proof/Machine/Dispatch.lean ====
section
/-! DEFINITION. Dispatch: one arm for each constructor of Instr, each one direct call of its meaning. -/

namespace Sys2Proof.Machine

/-- The meaning of an instruction or device step at a state. -/
def exec (i : Instr) (s : State) : Host.Outcome State Fault Refusal :=
  match i with
  | .clause h => Sys2Proof.Machine.execClause h s
  | .addInt o => Sys2Proof.Machine.execAddInt o s
  | .subInt o => Sys2Proof.Machine.execSubInt o s
  | .mulInt o => Sys2Proof.Machine.execMulInt o s
  | .mulhi o => Sys2Proof.Machine.execMulhi o s
  | .mad o => Sys2Proof.Machine.execMad o s
  | .madhi o => Sys2Proof.Machine.execMadhi o s
  | .divInt o => Sys2Proof.Machine.execDivInt o s
  | .rem o => Sys2Proof.Machine.execRem o s
  | .minInt o => Sys2Proof.Machine.execMinInt o s
  | .maxInt o => Sys2Proof.Machine.execMaxInt o s
  | .absInt o => Sys2Proof.Machine.execAbsInt o s
  | .negInt o => Sys2Proof.Machine.execNegInt o s
  | .sad o => Sys2Proof.Machine.execSad o s
  | .dp4 o => Sys2Proof.Machine.execDp4 o s
  | .dp2 o => Sys2Proof.Machine.execDp2 o s
  | .lea o => Sys2Proof.Machine.execLea o s
  | .andB o => Sys2Proof.Machine.execAndB o s
  | .orB o => Sys2Proof.Machine.execOrB o s
  | .xor o => Sys2Proof.Machine.execXor o s
  | .notB o => Sys2Proof.Machine.execNotB o s
  | .andn o => Sys2Proof.Machine.execAndn o s
  | .bitf o => Sys2Proof.Machine.execBitf o s
  | .shl o => Sys2Proof.Machine.execShl o s
  | .shr o => Sys2Proof.Machine.execShr o s
  | .shf o => Sys2Proof.Machine.execShf o s
  | .rot o => Sys2Proof.Machine.execRot o s
  | .popc o => Sys2Proof.Machine.execPopc o s
  | .clz o => Sys2Proof.Machine.execClz o s
  | .brev o => Sys2Proof.Machine.execBrev o s
  | .bfe o => Sys2Proof.Machine.execBfe o s
  | .bfi o => Sys2Proof.Machine.execBfi o s
  | .prmb o => Sys2Proof.Machine.execPrmb o s
  | .addFp o => Sys2Proof.Machine.execAddFp o s
  | .subFp o => Sys2Proof.Machine.execSubFp o s
  | .mulFp o => Sys2Proof.Machine.execMulFp o s
  | .fmaFp o => Sys2Proof.Machine.execFmaFp o s
  | .divFp o => Sys2Proof.Machine.execDivFp o s
  | .minFp o => Sys2Proof.Machine.execMinFp o s
  | .maxFp o => Sys2Proof.Machine.execMaxFp o s
  | .absFp o => Sys2Proof.Machine.execAbsFp o s
  | .negFp o => Sys2Proof.Machine.execNegFp o s
  | .frc o => Sys2Proof.Machine.execFrc o s
  | .rndi o => Sys2Proof.Machine.execRndi o s
  | .scalb o => Sys2Proof.Machine.execScalb o s
  | .getexp o => Sys2Proof.Machine.execGetexp o s
  | .getman o => Sys2Proof.Machine.execGetman o s
  | .clampFp o => Sys2Proof.Machine.execClampFp o s
  | .addPacked o => Sys2Proof.Machine.execAddPacked o s
  | .subPacked o => Sys2Proof.Machine.execSubPacked o s
  | .mulPacked o => Sys2Proof.Machine.execMulPacked o s
  | .fmaPacked o => Sys2Proof.Machine.execFmaPacked o s
  | .minPacked o => Sys2Proof.Machine.execMinPacked o s
  | .maxPacked o => Sys2Proof.Machine.execMaxPacked o s
  | .absPacked o => Sys2Proof.Machine.execAbsPacked o s
  | .negPacked o => Sys2Proof.Machine.execNegPacked o s
  | .dot2 o => Sys2Proof.Machine.execDot2 o s
  | .clampPacked o => Sys2Proof.Machine.execClampPacked o s
  | .cvt o => Sys2Proof.Machine.execCvt o s
  | .cvtQ o => Sys2Proof.Machine.execCvtQ o s
  | .pack o => Sys2Proof.Machine.execPack o s
  | .unpack o => Sys2Proof.Machine.execUnpack o s
  | .ex2 o => Sys2Proof.Machine.execEx2 o s
  | .lg2 o => Sys2Proof.Machine.execLg2 o s
  | .rcp o => Sys2Proof.Machine.execRcp o s
  | .rsq o => Sys2Proof.Machine.execRsq o s
  | .sqrt o => Sys2Proof.Machine.execSqrt o s
  | .sinPi o => Sys2Proof.Machine.execSinPi o s
  | .cosPi o => Sys2Proof.Machine.execCosPi o s
  | .tanh o => Sys2Proof.Machine.execTanh o s
  | .sigm o => Sys2Proof.Machine.execSigm o s
  | .erf o => Sys2Proof.Machine.execErf o s
  | .amaxRd o => Sys2Proof.Machine.execAmaxRd o s
  | .amaxRec o => Sys2Proof.Machine.execAmaxRec o s
  | .amaxAdv o => Sys2Proof.Machine.execAmaxAdv o s
  | .amaxClr o => Sys2Proof.Machine.execAmaxClr o s
  | .amaxScl o => Sys2Proof.Machine.execAmaxScl o s
  | .xlane o => Sys2Proof.Machine.execXlane o s
  | .pcomb o => Sys2Proof.Machine.execPcomb o s
  | .eqset o => Sys2Proof.Machine.execEqset o s
  | .red o => Sys2Proof.Machine.execRed o s
  | .scan o => Sys2Proof.Machine.execScan o s
  | .first o => Sys2Proof.Machine.execFirst o s
  | .spread o => Sys2Proof.Machine.execSpread o s
  | .sadd o => Sys2Proof.Machine.execSadd o s
  | .ssub o => Sys2Proof.Machine.execSsub o s
  | .smul o => Sys2Proof.Machine.execSmul o s
  | .sand o => Sys2Proof.Machine.execSand o s
  | .sor o => Sys2Proof.Machine.execSor o s
  | .sxor o => Sys2Proof.Machine.execSxor o s
  | .sshl o => Sys2Proof.Machine.execSshl o s
  | .sshr o => Sys2Proof.Machine.execSshr o s
  | .smov o => Sys2Proof.Machine.execSmov o s
  | .scmp o => Sys2Proof.Machine.execScmp o s
  | .ssel o => Sys2Proof.Machine.execSsel o s
  | .sld o => Sys2Proof.Machine.execSld o s
  | .smin o => Sys2Proof.Machine.execSmin o s
  | .smax o => Sys2Proof.Machine.execSmax o s
  | .rdlane o => Sys2Proof.Machine.execRdlane o s
  | .spopc o => Sys2Proof.Machine.execSpopc o s
  | .setp o => Sys2Proof.Machine.execSetp o s
  | .sel o => Sys2Proof.Machine.execSel o s
  | .plop o => Sys2Proof.Machine.execPlop o s
  | .prd o => Sys2Proof.Machine.execPrd o s
  | .pwr o => Sys2Proof.Machine.execPwr o s
  | .mov o => Sys2Proof.Machine.execMov o s
  | .class o => Sys2Proof.Machine.execClass o s
  | .ldB32 o => Sys2Proof.Machine.execLdB32 o s
  | .ldB64 o => Sys2Proof.Machine.execLdB64 o s
  | .ldB128 o => Sys2Proof.Machine.execLdB128 o s
  | .ldN8 o => Sys2Proof.Machine.execLdN8 o s
  | .ldI8 o => Sys2Proof.Machine.execLdI8 o s
  | .ldN16 o => Sys2Proof.Machine.execLdN16 o s
  | .ldI16 o => Sys2Proof.Machine.execLdI16 o s
  | .stB8 o => Sys2Proof.Machine.execStB8 o s
  | .stB16 o => Sys2Proof.Machine.execStB16 o s
  | .stB32 o => Sys2Proof.Machine.execStB32 o s
  | .stB64 o => Sys2Proof.Machine.execStB64 o s
  | .stB128 o => Sys2Proof.Machine.execStB128 o s
  | .prf o => Sys2Proof.Machine.execPrf o s
  | .ldGm o => Sys2Proof.Machine.execLdGm o s
  | .stGm o => Sys2Proof.Machine.execStGm o s
  | .ldl o => Sys2Proof.Machine.execLdl o s
  | .stl o => Sys2Proof.Machine.execStl o s
  | .ringOpen o => Sys2Proof.Machine.execRingOpen o s
  | .ringClose o => Sys2Proof.Machine.execRingClose o s
  | .ringRsv o => Sys2Proof.Machine.execRingRsv o s
  | .ringPost o => Sys2Proof.Machine.execRingPost o s
  | .ringTake o => Sys2Proof.Machine.execRingTake o s
  | .ringDone o => Sys2Proof.Machine.execRingDone o s
  | .ringQry o => Sys2Proof.Machine.execRingQry o s
  | .atomAddInt o => Sys2Proof.Machine.execAtomAddInt o s
  | .atomAddFp o => Sys2Proof.Machine.execAtomAddFp o s
  | .atomMinI o => Sys2Proof.Machine.execAtomMinI o s
  | .atomMinN o => Sys2Proof.Machine.execAtomMinN o s
  | .atomMaxI o => Sys2Proof.Machine.execAtomMaxI o s
  | .atomMaxN o => Sys2Proof.Machine.execAtomMaxN o s
  | .atomAnd o => Sys2Proof.Machine.execAtomAnd o s
  | .atomOr o => Sys2Proof.Machine.execAtomOr o s
  | .atomXor o => Sys2Proof.Machine.execAtomXor o s
  | .atomXchg o => Sys2Proof.Machine.execAtomXchg o s
  | .atomCas o => Sys2Proof.Machine.execAtomCas o s
  | .atomInc o => Sys2Proof.Machine.execAtomInc o s
  | .atomDec o => Sys2Proof.Machine.execAtomDec o s
  | .fence o => Sys2Proof.Machine.execFence o s
  | .bar o => Sys2Proof.Machine.execBar o s
  | .barArv o => Sys2Proof.Machine.execBarArv o s
  | .cpy o => Sys2Proof.Machine.execCpy o s
  | .gath o => Sys2Proof.Machine.execGath o s
  | .scat o => Sys2Proof.Machine.execScat o s
  | .sisect o => Sys2Proof.Machine.execSisect o s
  | .smerge o => Sys2Proof.Machine.execSmerge o s
  | .winPub o => Sys2Proof.Machine.execWinPub o s
  | .cbInval o => Sys2Proof.Machine.execCbInval o s
  | .mma o => Sys2Proof.Machine.execMma o s
  | .mmaX64 o => Sys2Proof.Machine.execMmaX64 o s
  | .wbLd o => Sys2Proof.Machine.execWbLd o s
  | .accRd o => Sys2Proof.Machine.execAccRd o s
  | .accWr o => Sys2Proof.Machine.execAccWr o s
  | .accZero o => Sys2Proof.Machine.execAccZero o s
  | .muFence o => Sys2Proof.Machine.execMuFence o s
  | .bra o => Sys2Proof.Machine.execBra o s
  | .jmp o => Sys2Proof.Machine.execJmp o s
  | .brx o => Sys2Proof.Machine.execBrx o s
  | .call o => Sys2Proof.Machine.execCall o s
  | .callR o => Sys2Proof.Machine.execCallR o s
  | .ret o => Sys2Proof.Machine.execRet o s
  | .join o => Sys2Proof.Machine.execJoin o s
  | .exit o => Sys2Proof.Machine.execExit o s
  | .yield o => Sys2Proof.Machine.execYield o s
  | .region o => Sys2Proof.Machine.execRegion o s
  | .fork o => Sys2Proof.Machine.execFork o s
  | .spawn o => Sys2Proof.Machine.execSpawn o s
  | .spawnSpec o => Sys2Proof.Machine.execSpawnSpec o s
  | .depDec o => Sys2Proof.Machine.execDepDec o s
  | .depAdd o => Sys2Proof.Machine.execDepAdd o s
  | .tend o => Sys2Proof.Machine.execTend o s
  | .tabort o => Sys2Proof.Machine.execTabort o s
  | .tabortDrop o => Sys2Proof.Machine.execTabortDrop o s
  | .renq o => Sys2Proof.Machine.execRenq o s
  | .sysrd o => Sys2Proof.Machine.execSysrd o s
  | .syswr o => Sys2Proof.Machine.execSyswr o s
  | .trap o => Sys2Proof.Machine.execTrap o s
  | .tret o => Sys2Proof.Machine.execTret o s
  | .bkpt o => Sys2Proof.Machine.execBkpt o s
  | .nop o => Sys2Proof.Machine.execNop o s
  | .pmcrd o => Sys2Proof.Machine.execPmcrd o s
  | .sleep o => Sys2Proof.Machine.execSleep o s
  | .nopS o => Sys2Proof.Machine.execNopS o s
  | .movSVector o => Sys2Proof.Machine.execMovSVector o s
  | .movSScalar o => Sys2Proof.Machine.execMovSScalar o s
  | .smovS o => Sys2Proof.Machine.execSmovS o s
  | .movSImm o => Sys2Proof.Machine.execMovSImm o s
  | .smovSImm o => Sys2Proof.Machine.execSmovSImm o s
  | .addI32SImm o => Sys2Proof.Machine.execAddI32SImm o s
  | .saddI32SImm o => Sys2Proof.Machine.execSaddI32SImm o s
  | .shlB32S o => Sys2Proof.Machine.execShlB32S o s
  | .shrN32S o => Sys2Proof.Machine.execShrN32S o s
  | .shrI32S o => Sys2Proof.Machine.execShrI32S o s
  | .addI32S o => Sys2Proof.Machine.execAddI32S o s
  | .subI32S o => Sys2Proof.Machine.execSubI32S o s
  | .andB32S o => Sys2Proof.Machine.execAndB32S o s
  | .orB32S o => Sys2Proof.Machine.execOrB32S o s
  | .xorB32S o => Sys2Proof.Machine.execXorB32S o s
  | .addF32S o => Sys2Proof.Machine.execAddF32S o s
  | .mulF32S o => Sys2Proof.Machine.execMulF32S o s
  | .movSSpecial o => Sys2Proof.Machine.execMovSSpecial o s
  | .smovSSpecial o => Sys2Proof.Machine.execSmovSSpecial o s
  | .yieldS o => Sys2Proof.Machine.execYieldS o s
  | .exitS o => Sys2Proof.Machine.execExitS o s
  | .retS o => Sys2Proof.Machine.execRetS o s
  | .jmpS off => Sys2Proof.Machine.execJmpS off s
  | .bkptS o => Sys2Proof.Machine.execBkptS o s
  | .longLatencyComplete agent op => Sys2Proof.Machine.execLongLatencyComplete agent op s
  | .pathRestore agent => Sys2Proof.Machine.execPathRestore agent s
  | .sleepEnd agent slotB => Sys2Proof.Machine.execSleepEnd agent slotB s
  | .watchdogExpiry agent => Sys2Proof.Machine.execWatchdogExpiry agent s
  | .warpRetire agent => Sys2Proof.Machine.execWarpRetire agent s
  | .fragmentStart frag => Sys2Proof.Machine.execFragmentStart frag s
  | .pullRequest frag => Sys2Proof.Machine.execPullRequest frag s
  | .pullResponse frag => Sys2Proof.Machine.execPullResponse frag s
  | .push frag granule => Sys2Proof.Machine.execPush frag granule s
  | .merge frag => Sys2Proof.Machine.execMerge frag s
  | .barrierArrival frag => Sys2Proof.Machine.execBarrierArrival frag s
  | .barrierCompletion frag => Sys2Proof.Machine.execBarrierCompletion frag s
  | .forwardedMatrixCommand cluster quad => Sys2Proof.Machine.execForwardedMatrixCommand cluster quad s
  | .engineChunk cluster se => Sys2Proof.Machine.execEngineChunk cluster se s
  | .engineCommandComplete cluster se cmd => Sys2Proof.Machine.execEngineCommandComplete cluster se cmd s
  | .followOnHandover cluster cmd => Sys2Proof.Machine.execFollowOnHandover cluster cmd s
  | .muCommandStart cluster quad => Sys2Proof.Machine.execMuCommandStart cluster quad s
  | .muCommandComplete cluster quad => Sys2Proof.Machine.execMuCommandComplete cluster quad s
  | .doorbellWrite q tail => Sys2Proof.Machine.execDoorbellWrite q tail s
  | .launchAccept q => Sys2Proof.Machine.execLaunchAccept q s
  | .groupPlace launch => Sys2Proof.Machine.execGroupPlace launch s
  | .launchComplete q => Sys2Proof.Machine.execLaunchComplete q s
  | .ctxNew f => Sys2Proof.Machine.execCtxNew f s
  | .ctxFree f => Sys2Proof.Machine.execCtxFree f s
  | .qReg f => Sys2Proof.Machine.execQReg f s
  | .qUnreg f => Sys2Proof.Machine.execQUnreg f s
  | .evqSet f => Sys2Proof.Machine.execEvqSet f s
  | .clQry f => Sys2Proof.Machine.execClQry f s
  | .vfEnable f => Sys2Proof.Machine.execVfEnable f s
  | .vfReset f => Sys2Proof.Machine.execVfReset f s
  | .partSet f => Sys2Proof.Machine.execPartSet f s
  | .partSetHandover f => Sys2Proof.Machine.execPartSetHandover f s
  | .allot f => Sys2Proof.Machine.execAllot f s
  | .l2Share f => Sys2Proof.Machine.execL2Share f s
  | .l2ShareComplete vf => Sys2Proof.Machine.execL2ShareComplete vf s
  | .memGrant f => Sys2Proof.Machine.execMemGrant f s
  | .memRevoke f => Sys2Proof.Machine.execMemRevoke f s
  | .slotSet f => Sys2Proof.Machine.execSlotSet f s
  | .winNew f => Sys2Proof.Machine.execWinNew f s
  | .winAdd f => Sys2Proof.Machine.execWinAdd f s
  | .winDel f => Sys2Proof.Machine.execWinDel f s
  | .winDelDrained window vf => Sys2Proof.Machine.execWinDelDrained window vf s
  | .winFree f => Sys2Proof.Machine.execWinFree f s
  | .peerMap f => Sys2Proof.Machine.execPeerMap f s
  | .amaxSet f => Sys2Proof.Machine.execAmaxSet f s
  | .clSplit f => Sys2Proof.Machine.execClSplit f s
  | .mailboxUnknown f => Sys2Proof.Machine.execMailboxUnknown f s
  | .halt vf ctx => Sys2Proof.Machine.execHalt vf ctx s
  | .contextHalted vf ctx => Sys2Proof.Machine.execContextHalted vf ctx s
  | .resume vf ctx => Sys2Proof.Machine.execResume vf ctx s
  | .agentReplace agent => Sys2Proof.Machine.execAgentReplace agent s
  | .unitClaim unit => Sys2Proof.Machine.execUnitClaim unit s
  | .fillComplete unit granule => Sys2Proof.Machine.execFillComplete unit granule s
  | .migTrack => Sys2Proof.Machine.execMigTrack s
  | .migExport => Sys2Proof.Machine.execMigExport s
  | .migStop => Sys2Proof.Machine.execMigStop s
  | .migImport => Sys2Proof.Machine.execMigImport s
  | .migStart => Sys2Proof.Machine.execMigStart s
  | .migAbort => Sys2Proof.Machine.execMigAbort s
  | .migrationUnknownOp op => Sys2Proof.Machine.execMigrationUnknownOp op s
  | .recoveryLoad => Sys2Proof.Machine.execRecoveryLoad s
  | .registerWrite r v => Sys2Proof.Machine.execRegisterWrite r v s
  | .spdmRequest m => Sys2Proof.Machine.execSpdmRequest m s
  | .atsCompletion vf pasid page ans => Sys2Proof.Machine.execAtsCompletion vf pasid page ans s
  | .pageRequestSend vf => Sys2Proof.Machine.execPageRequestSend vf s
  | .prgResponseSuccess vf prgi => Sys2Proof.Machine.execPrgResponseSuccess vf prgi s
  | .prgResponseInvalid vf prgi => Sys2Proof.Machine.execPrgResponseInvalid vf prgi s
  | .prgResponseFailure vf prgi => Sys2Proof.Machine.execPrgResponseFailure vf prgi s
  | .priEnable vf => Sys2Proof.Machine.execPriEnable vf s
  | .invalidationRequest vf pasid base size => Sys2Proof.Machine.execInvalidationRequest vf pasid base size s
  | .invalidationCompletion vf tag => Sys2Proof.Machine.execInvalidationCompletion vf tag s
  | .hostBarAccess acc => Sys2Proof.Machine.execHostBarAccess acc s
  | .releasePacket cluster => Sys2Proof.Machine.execReleasePacket cluster s
  | .newTaskPacket cluster => Sys2Proof.Machine.execNewTaskPacket cluster s
  | .packetSend place => Sys2Proof.Machine.execPacketSend place s
  | .binGather cluster core => Sys2Proof.Machine.execBinGather cluster core s
  | .binClose cluster core bin => Sys2Proof.Machine.execBinClose cluster core bin s
  | .waveDispatch cluster core => Sys2Proof.Machine.execWaveDispatch cluster core s
  | .stealRequest cluster vf => Sys2Proof.Machine.execStealRequest cluster vf s
  | .stealDonation victim thief vf => Sys2Proof.Machine.execStealDonation victim thief vf s
  | .taskCommit cluster record => Sys2Proof.Machine.execTaskCommit cluster record s
  | .lapStart chiplet => Sys2Proof.Machine.execLapStart chiplet s
  | .flitPass chiplet vf stop => Sys2Proof.Machine.execFlitPass chiplet vf stop s
  | .slopeWindowEnd chiplet => Sys2Proof.Machine.execSlopeWindowEnd chiplet s
  | .slotOpen slot => Sys2Proof.Machine.execSlotOpen slot s
  | .vfTimeJournal => Sys2Proof.Machine.execVfTimeJournal s
  | .voteChange chiplet vf level => Sys2Proof.Machine.execVoteChange chiplet vf level s
  | .freqHoldExpiry chiplet => Sys2Proof.Machine.execFreqHoldExpiry chiplet s
  | .chipletThermalLimit chiplet tenths => Sys2Proof.Machine.execChipletThermalLimit chiplet tenths s
  | .hbmThermalChange stack tenths => Sys2Proof.Machine.execHbmThermalChange stack tenths s
  | .singlePartFault part => Sys2Proof.Machine.execSinglePartFault part s
  | .fatalError => Sys2Proof.Machine.execFatalError s
  | .warmReset => Sys2Proof.Machine.execWarmReset s
  | .powerOn trained => Sys2Proof.Machine.execPowerOn trained s
  | .fragmentExitMessage frag => Sys2Proof.Machine.execFragmentExitMessage frag s
  | .frequencyStep chiplet => Sys2Proof.Machine.execFrequencyStep chiplet s
  | .powerLoss => Sys2Proof.Machine.execPowerLoss s
  | .peerWindowAccess window acc => Sys2Proof.Machine.execPeerWindowAccess window acc s
  | .peerDaleMessage m => Sys2Proof.Machine.execPeerDaleMessage m s

end Sys2Proof.Machine
end

