-- ==== Sys2Proof/Machine/Issue.lean ====
section
/-! DEFINITION. Issue: what a PC slot waits for, the fetch of its instruction, the interlocks, and the licence (R71 to R82, R89, R176, R190, R219, R246, R251, R252, R265, R319, R320). -/

namespace Sys2Proof.Machine

/-- What a wait has come to (R168, R172, R174). -/
inductive Waited where
  /-- it goes on -/
  | hold
  /-- the slot waits no more, and nothing else has happened -/
  | free
  /-- its end is a step of its own -/
  | step (s : State)
/-- A slot's wait looked at. A fragment learns of a barrier by BARRIER_COMPLETION; a page and a sleep end by their own events. -/
def State.waited (s : State) (id : Nat) (b : Bool) (a : Agent) : Waited :=
  let clear : State := s.setAgent id (a.setSlot b { a.slot b with wait := .none })
  match (a.slot b).wait with
  | .none => .free
  | .bar k gen => if a.isFrag then .hold else match s.groupOf a with
      | some g => if (g.bar k).gen > gen then .step (match a.group, (a.slot b).path with
          | some n, some p => clear.fenceLanes id a p.mask (.acquire 1) [] [.bar n k gen]
          | _, _ => clear) else .hold
      | none => .step clear
  | .barArv k gen lanes => if a.isFrag then .hold else match a.group, s.groupOf a with
      | some n, some g => if (g.bar k).gen > gen then .step ((clear.fenceLanes id a lanes (.release 1) [.bar n k (g.bar k).gen] []).atBarrier n (fun g => g.arrive k a.warp lanes)) else .hold
      | _, _ => .step clear
  | .barSent _ _ => .hold
  | .sleep _ => .hold
  | .page n _ _ => if s.pageHeld (.park n) then .hold else .step (s.unpark id b)
  | .fill => if s.pageHeld (.save a.vf a.ctx) then .hold else .step (s.setAgent id (a.setSlot b { (a.slot b).reentered with wait := .none }))
  | .ring r serial desc =>
    match s.ring? a.cluster r, (a.slot b).path with
    | some x, some p => if x.serial = serial then .free else .step (clear.ringErr id b p desc)
    | none, some p => .step (clear.ringErr id b p desc)
    | _, none => .hold

/-- Registers of ranges, within the allocation. -/
def Agent.regsOf (a : Agent) (rs : List (Nat × Nat)) : List Nat :=
  (rs.flatMap (fun x => (List.range x.2).map (fun k => x.1 + k))).filter (fun r => decide (r < a.nregs))
/-- Lanes in which some of the registers have an error, by one of the marks. -/
def lanesMarked (l : NMap Mask) (rs : List Nat) : Mask := rs.foldl (fun m r => m ||| mapGetD l r 0) 0
/-- What the rows that an instruction reads raise, and in which lanes: REGERR for a bad row, or for a copy of one, MEMINT for a staged copy with a double-bit error (R409, R410). A REGION reads, in every live lane, the rows that it stages and the dirty copies that it writes back (R63; log 30). -/
def Agent.struck (a : Agent) (i : Instr) (act : Mask) : Option (Nat × Mask) :=
  if !a.marked then none
  else
    let rs := a.regsOf (usesOf i).reads
    let st := a.staged
    let x : Mask × Mask := match i with
      | .region o =>
        if !a.core.isWide || !guardAlways o.g then (0, 0)
        else
          let new := (a.region o).staged
          (lanesMarked a.bad (new.filter (fun r => !(st.contains r))) &&& a.live, lanesMarked a.badStg (a.stgDirty.filter (fun r => !(new.contains r))) &&& a.live)
      | _ =>
        let near := rs.filter (fun r => st.contains r)
        ((lanesMarked a.bad (rs.filter (fun r => !(st.contains r))) ||| lanesMarked a.stgPar near) &&& act, lanesMarked a.badStg near &&& act)
    if x.1 ≠ 0 then some (cREGERR, x.1) else if x.2 ≠ 0 then some (cMEMINT, x.2) else none
/-- Rows that an instruction writes are sound again in its lanes (log 30); those of a GATH's D not before its elements arrive (R182). -/
def Agent.renew (a : Agent) (i : Instr) (act : Mask) : Agent :=
  if !a.marked then a else match i with | .gath _ => a | _ => (a.regsOf (usesOf i).vw).foldl (fun a r => a.soundRow r act) a
/-- Rows that an instruction writes: dirty in a fragment (R251), and sound. -/
def Agent.soil (a : Agent) (i : Instr) (act : Mask) : Agent :=
  let u := usesOf i
  let b := a.renew i act
  if b.isFrag then (b.granulesOf u.vw).foldl (fun a g => a.setGranule g .dirty) b else b

/-- A command that an instruction has put into an engine's queue. -/
def newEng (s t : State) (cluster : Nat) (se : Bool) : Option EngCmd :=
  if (t.engQ cluster se).length > (s.engQ cluster se).length then (t.engQ cluster se).getLast? else none
/-- A command that an instruction has put into a matrix unit's queue. -/
def newMu (s t : State) (k : Nat) : Option MuCmd :=
  if (t.mu k).queue.length > (s.mu k).queue.length then (t.mu k).queue.getLast? else none
/-- A fragment has sent a matrix command to its quadrant. -/
def sentMu (s t : State) (a : Agent) : Bool :=
  let l := mapGetD t.saddle a.cluster []
  decide (l.length > (mapGetD s.saddle a.cluster []).length) && (match l.getLast? with | some m => (match m.msg with | .matrix _ _ _ _ _ => true | _ => false) | none => false)
/-- A queue had no room, or a flag would pass 63 (R52, R176, R219). A long-latency instruction with no active lane, whose flag R82 signals at once, is not held where that flag stands at 63, of which R52 says nothing: it goes on, and the flag does not move (DESIGN CHOICE, log 33). -/
def State.noRoom (s t : State) (id : Nat) (a : Agent) : Bool :=
  let full (se : Bool) : Bool := (newEng s t a.cluster se).isSome && !s.engRoom a se
  full false || full true || (((newMu s t (muKey a.cluster (s.muQuad a) a.vf a.ctx)).isSome || sentMu s t a) && !s.muRoom a.cluster (s.muQuad a) a.vf a.ctx)
    || (match t.agent? id with | some x => x.flags.any (fun f => decide (f.2 > 63)) | none => false)
/-- The price of what issued: vector prices only for 64-lane warps of wide cores (R318, R320). -/
def State.priceOf (s t : State) (a : Agent) (i : Instr) : Nat :=
  match newMu s t (muKey a.cluster (s.muQuad a) a.vf a.ctx) with
  | some c => muPrice c.op
  | none =>
    let chunks := match newEng s t a.cluster false, newEng s t a.cluster true with
      | some c, _ => c.op.chunks
      | none, some c => c.op.chunks
      | none, none => 0
    slotPrice (a.width == 64 && a.core.isWide) i chunks

/-- The instruction went on: it was counted (R215). -/
def issuedIn (t : State) (id : Nat) (a : Agent) : Bool := match t.agent? id with | some x => decide (x.insn > a.insn) | none => true

/-- Cycles for which a stall hint asks, in 32nds (R80). -/
def stallOf (i : Instr) : Nat :=
  match opsOf i with
  | some o => 32 * (match o.stall.toNat with | 1 => 1 | 2 => 4 | 3 => 16 | _ => 0)
  | none => 0
/-- A slot that has issued: with its clause ended it stands at the tail of its list, otherwise it keeps its place; and its stall hint counts (R80, R247). -/
def Slot.after (x : Slot) (stall tail : Nat) : Slot :=
  match x.path with
  | some p => if p.phase = .header then { x with rank := tail, turn := false, stall := stall } else { x with turn := decide (x.rank < tail), stall := stall }
  | none => x
/-- The step has ended: no slot executes; where the instruction went on, the rows that it writes are soiled, its slot takes its place in the list, handler mode ends with its path, and an instruction of a fragment resets its warp's watchdog count (R211, R247, R251, R265, R409). -/
def State.endTurn (s : State) (id : Nat) (b : Bool) (a : Agent) (i : Instr) (act : Mask) : State :=
  let s1 : State := { s with cur := none }
  if !issuedIn s id a then s1
  else
    let s2 := if a.isFrag then s1.modAgent (a.warpId id) (fun x => { x with wdc := 0 }) else s1
    (s2.modAgent id (fun x =>
      let x := if act = 0 then x else x.soil i act
      x.setSlot b ((x.slot b).after (stallOf i) s.tail))).overHandler id

/-- An instruction at a slot whose other conditions hold: it issues when its queue, its flag and its purse allow, and is charged (R246, R318 to R320). -/
def State.issue (s : State) (id : Nat) (b : Bool) (a : Agent) (i : Instr) (act : Mask) : Host.Outcome State Fault Refusal :=
  let run : State := { s with cur := some ⟨id, b⟩ }
  match exec i run with
  | .next t =>
    if s.noRoom t id a then .next s
    else
      let price := if act = 0 || !issuedIn t id a then 0 else s.priceOf t a i
      let q := s.muQuad a
      if price = 0 then .next ((t.endTurn id b a i act).dropClaim a.cluster q (.slot id b))
      else
        let x := run.pay a.cluster q a.vf (.slot id b) price
        if x.2 then
          match exec i x.1 with
          | .next t => .next (t.endTurn id b a i act)
          | o => o
        else .next { x.1 with cur := none }
  | o => o

/-- The instruction of a slot in a clause body: fetched, decoded, checked (R97), and issued when its registers are ready. -/
def State.body (s : State) (id : Nat) (b : Bool) (a : Agent) (p : Path) : Host.Outcome State Fault Refusal :=
  match s.fetchInstr id b a p with
  | .stop t => .next t
  | .ok p0 p1 p2 =>
    match decodeBody p0 p1 p2 with
    | none => .next (s.illop id b p p.mask)
    | some i =>
      if !i.wf then .next (s.illop id b p p.mask)
      else
        let act := a.actFor p i
        let u := usesOf i
        if act = 0 then s.issue id b a i act
        else if a.interlocked u then .next s
        else match s.rows id a u with
          | .hold => .next s
          | .pull t => .next t
          | .ready =>
            match a.struck i act with
            | some (cause, m) => .next (s.raiseAt id b p.pos m (fun L => ⟨cause, false, L, 0⟩))
            | none => s.issue id b a i act

/-- The header of a slot at a header position (R75, R76). -/
def State.header (s : State) (id : Nat) (b : Bool) (a : Agent) (p : Path) : Host.Outcome State Fault Refusal :=
  match s.fetchParcel id b a p p.pos.hdr with
  | .stop t => .next t
  | .ok w =>
    match decodeHeader w with
    | none => .next (s.illop id b { p with pos := ⟨p.pos.hdr, 0⟩ } p.mask)
    | some i =>
      if !i.wf then .next (s.illop id b { p with pos := ⟨p.pos.hdr, 0⟩ } p.mask)
      else match exec i { s with cur := some ⟨id, b⟩ } with
        | .next t => .next { t with cur := none }
        | o => o

/-- A turn of a PC slot: one step of what it can do; a slot that can do nothing leaves the state as it is. -/
def State.slotTurn (s : State) (id : Nat) (b : Bool) : Host.Outcome State Fault Refusal :=
  match s.agent? id with
  | none => .next s
  | some a =>
    if !s.mayLook a b then .next s
    else match s.waited id b a, (a.slot b).path with
      | .hold, _ => .next s
      | .step t, _ => .next t
      | .free, none => .next s
      | .free, some p =>
        if (a.ends b).isSome then .next ((s.settle id a).overHandler id)
        else if a.atJoin b then
          -- a fragment at its join record: a recorded trap is taken first (R253)
          match (if a.handler.isNone && a.flags.isEmpty then oldestTrap a.traps else none) with
          | some t => .next (s.takePending id b p.pos t)
          | none => .next s
        else match p.phase with
          | .header => s.header id b a p
          | .body _ _ => s.body id b a p

end Sys2Proof.Machine
end

