-- ==== Sys2Proof/Machine/Turns.lean ====
section
/-! DEFINITION. The passing of time, and which turn comes next when the agenda lists none (R54, R247, R248, R265, R304; logs 1 and 3). -/

namespace Sys2Proof.Machine

/-- 32nds of a cycle of a cluster's arithmetic clock in n mesh cycles: its clock is (12 + level) / 32 of the mesh's (R3, R12, R412). -/
def State.beats (s : State) (n cluster : Nat) : Nat := n * (12 + (s.chiplet (cluster / 16)).level)
/-- How long each cluster has been idle for a VF, n mesh cycles on (R304). -/
def State.markIdle (s : State) (n : Nat) : NMap Nat :=
  s.parts.foldl (fun m x => if s.idleFor (x.1 / 64) (x.1 % 64) then mapSet m x.1 (mapGetD m x.1 0 + s.beats n (x.1 / 64)) else mapErase m x.1) s.idleAt
/-- Bins age (R300). -/
def State.ageBins (s : State) (n : Nat) : NMap Dispatcher :=
  s.disps.map (fun d => (d.1, { d.2 with bins := d.2.bins.map (fun b => (b.1, { b.2 with age := b.2.age + s.beats n (d.1 / 2) })) }))
/-- What is left of a sleep, as cycles pass. -/
def Wait.drowse (w : Wait) (k : Nat) : Wait := match w with | .sleep n => .sleep (n - k) | w => w
def Slot.drowse (x : Slot) (k : Nat) : Slot := { x with wait := x.wait.drowse k, stall := x.stall - k }
/-- A slot of the agent holds a short draw (R319, R323). -/
def State.shortOf (s : State) (id : Nat) (a : Agent) : Bool :=
  let p := s.purse a.cluster (s.muQuad a)
  (p.claimant.toList ++ p.others).any (fun x => decide (p.tokens < x.2) && (x.1 == .slot id false || x.1 == .slot id true) && s.claims a.cluster x.1)
/-- An agent as mesh cycles pass: its watchdog where it counts (R265), its cycle counts (R215), its sleeps (R216), and its stall hints (R80). -/
def State.ageAgent (s : State) (n id : Nat) (a : Agent) : Agent :=
  let k := s.beats n a.cluster
  { a with
    wdc := if s.watched id a then a.wdc + n else a.wdc
    cyc := a.cyc + k
    tokenWait := if s.shortOf id a then a.tokenWait + k else a.tokenWait
    slotA := a.slotA.drowse k
    slotB := a.slotB.drowse k
    stack := a.stack.map (fun e => { e with wait := e.wait.drowse k }) }
/-- 2^20 mesh cycles have passed since Dale journaled a VF's time, or it has not yet (R427). -/
def State.timeDue (s : State) (v : Nat) : Bool := match s.journaled v with | some t => !(decide (t ≤ s.vfTime v) && decide (s.vfTime v < t + 2 ^ 20)) | none => true
/-- Dale journals the VF time of every enabled VF once it is due (R427). -/
def State.keepTimes (s : State) : State :=
  if s.up && s.vfs.any (fun v => v.2.enabled && s.timeDue v.1) then s.jotTimes else s
/-- Mesh cycles pass (log 3): the time base, every agent, Dale's journal of VF times, and the owner tags as they stand (R375). -/
def State.tick (s : State) : State :=
  let n := Config.cycleGap s.fresh
  State.keepTimes { s with
    time := s.time + n, fresh := s.fresh + 1, turns := s.turns + 1, tags := s.retag, idleAt := s.markIdle n, disps := s.ageBins n
    agents := s.agents.map (fun x => (x.1, s.ageAgent n x.1 x.2)) }

/-- A core as a number, for the order in which the cores take their turns (log 1). -/
def Agent.coreKey (a : Agent) : Nat := 16 * a.cluster + a.core.port
/-- The rotation list of a core: its slots in their order, those under a stall hint behind the others (R247, R249). -/
def State.rotation (s : State) (core : Nat) : List (Nat × Bool) :=
  let l := (s.agents.filter (fun x => x.2.coreKey == core)).flatMap (fun x => [(x.2.slotA, x.1, false), (x.2.slotB, x.1, true)])
  let ins (x : Slot × Nat × Bool) (l : List (Slot × Nat × Bool)) : List (Slot × Nat × Bool) :=
    l.takeWhile (fun y => decide (y.1.rank ≤ x.1.rank)) ++ x :: l.dropWhile (fun y => decide (y.1.rank ≤ x.1.rank))
  let l := l.foldl (fun l x => ins x l) []
  (l.filter (fun x => x.1.stall == 0) ++ l.filter (fun x => x.1.stall != 0)).map (fun x => x.2)
/-- The cores on which agents stand, in rotation from one step to the next (log 1). -/
def State.coreOrder (s : State) : List Nat :=
  let l := s.agents.foldl (fun l x => insertNat l x.2.coreKey) []
  let k := if l.isEmpty then 0 else s.turns / 2 % l.length
  l.drop k ++ l.take k
/-- The slots, core by core, each core's in the order of its list (R247). -/
def State.slotTurns (s : State) : List Turn := s.coreOrder.flatMap (fun c => (s.rotation c).map (fun x => .slot x.1 x.2))

/-- Something that the device may do of itself: an event's meaning. -/
abbrev Move := State → Host.Outcome State Fault Refusal

/-- The request event of a mailbox code (R369). -/
def requestOf (f : Fn) (code : Nat) : Move :=
  match code with
  | 0x01 => execCtxNew f | 0x02 => execCtxFree f | 0x03 => execQReg f | 0x04 => execQUnreg f | 0x05 => execEvqSet f | 0x06 => execClQry f
  | 0x40 => execVfEnable f | 0x41 => execVfReset f | 0x42 => execPartSet f | 0x43 => execAllot f | 0x44 => execL2Share f | 0x45 => execMemGrant f
  | 0x46 => execMemRevoke f | 0x47 => execSlotSet f | 0x48 => execWinNew f | 0x49 => execWinAdd f | 0x4A => execWinDel f | 0x4B => execWinFree f
  | 0x4C => execPeerMap f | 0x4D => execAmaxSet f | 0x4E => execClSplit f | _ => execMailboxUnknown f
/-- Events of a function's mailbox. -/
def State.boxEvents (s : State) (f : Fn) : List Move :=
  let m := s.box f
  if !m.busy then []
  else match m.pend with
    | none => [requestOf f m.reqCode]
    | some (.part _ _ _) => [execPartSetHandover f]
    | some (.share v) => [execL2ShareComplete v]
    | some (.winDel w v) => [execWinDelDrained w v]
    | some (.peer _ _ _ _) => []
/-- The op that MIGCTL has started (R423). -/
def State.migEvents (s : State) : List Move :=
  if !s.mig.busy then []
  else match s.mig.op with
    | 1 => [execMigTrack] | 2 => [execMigExport] | 3 => [execMigStop] | 4 => [execMigImport] | 5 => [execMigStart] | 6 => [execMigAbort]
    | n => [execMigrationUnknownOp (BitVec.ofNat 4 n)]

/-- Events of an agent. -/
def agentEvents (id : Nat) (a : Agent) : List Move :=
  (a.ops.filter (fun o => o.ready)).map (fun o => execLongLatencyComplete id o.id)
    ++ [execPathRestore id, execSleepEnd id false, execSleepEnd id true, execWatchdogExpiry id, execWarpRetire id]
    ++ (if a.isFrag then [execMerge id, execPullRequest id] else [])
    ++ [execAgentReplace id] ++ a.unfilled.map (fun g => execFillComplete (.agent id) g) ++ a.gmUnfilled.map (fun i => execFillComplete (.scratch id i) 0)
/-- Events of the messages on a cluster's Saddle network (R250). -/
def saddleEvents (cluster : Nat) (l : List Saddle) : List Move :=
  l.map (fun m => match m.msg with
    | .start f => execFragmentStart f
    | .barArrive f _ _ _ _ _ _ => execBarrierArrival f
    | .barDone f _ _ => execBarrierCompletion f
    | .pullReq f _ => execPullRequest f
    | .pullResp f _ => execPullResponse f
    | .push f g => execPush f g
    | .fragExit f _ _ _ => execFragmentExitMessage f
    | .matrix q _ _ _ _ => execForwardedMatrixCommand cluster q)
/-- A fragment has been given contexts that a halted one keeps (R264), or an agent that waits to be placed again finds its own units, or its rings' ids, kept by another (R406). -/
def State.placeKept (s : State) (id : Nat) (a : Agent) : Bool :=
  if a.halted then (match s.ctxOf a with | some c => c.st == .resuming | none => false) && (!s.unitsFree id a || (s.ringsAway a.ringOwner).any (fun r => (s.ring? r.1 r.2.1).isSome))
  else a.isFrag && !s.placeClear a
/-- Something of a VF that runs is about to need units on a cluster: a group to be placed, a wave to be dispatched, an agent in its place, or the opening of a ring (R400). -/
def State.needsUnits (s : State) (vf cluster : Nat) : Bool :=
  s.launches.any (fun l => l.2.vf == vf && s.placeable l.2 && (s.placesOf l).contains cluster)
    || [0, 1].any (fun c => (s.pending (s.disp cluster c)).any (fun b => b.2.vf == vf))
    || s.agents.any (fun a => a.2.vf == vf && a.2.cluster == cluster
      && (s.placeKept a.1 a.2 || [false, true].any (fun b => match s.eligible a.1 b with | some (_, .ringOpen _) => true | _ => false)))
/-- A tile, a slot or the scale cache of the image of a matrix unit, by the image's key. -/
def muUnit (k u : Nat) : UnitRef :=
  if u < 16 then .tile (k / 8192) (k / 1024 % 8) (k / 16 % 64) (k % 16) u
  else if u < 32 then .slot (k / 8192) (k / 1024 % 8) (k / 16 % 64) (k % 16) (u - 16)
  else .scache (k / 8192) (k / 1024 % 8) (k / 16 % 64) (k % 16)
/-- Units of halted contexts that are about to be needed, or all of a VF that is being moved (R400, R425). -/
def State.claims? (s : State) : List Move :=
  let moved (vf : Nat) : Bool := (s.vf vf).stopped
  let due (vf ctx cluster : Nat) : Bool := s.claimable vf ctx && (moved vf || s.needsUnits vf cluster)
  let used (k u : Nat) : Bool := s.mus.any (fun y => y.1 / 16 == k / 16 && y.1 != k && (match y.2.queue with | c :: _ => (c.units y.2).contains u | [] => false))
  s.agents.flatMap (fun x => if due x.2.vf x.2.ctx x.2.cluster || (x.2.halted && s.unitsTaken x.1 x.2) then
      (if x.2.spilt then [] else [execUnitClaim (.agent x.1)]) ++ (List.range x.2.gmGran.length).map (fun i => execUnitClaim (.scratch x.1 i)) else [])
    ++ s.groups.flatMap (fun x => if due x.2.vf x.2.ctx x.2.cluster then
      (List.range x.2.granules.length).map (fun i => execUnitClaim (.granule x.1 i)) ++ (if moved x.2.vf then [execUnitClaim (.records x.1)] else []) else [])
    ++ s.launches.flatMap (fun l => l.2.tgran.flatMap (fun g => if due l.2.vf l.2.ctx g.1 then (List.range g.2.length).map (fun i => execUnitClaim (.taskGran l.1 g.1 i)) else []))
    ++ s.rings.flatMap (fun r => match s.ownerCtx r.2.owner with
      | some c => if due c.1 c.2 (r.1 / 64) then [execUnitClaim (.ring (r.1 / 64) (r.1 % 64))] else []
      | none => [])
    ++ s.mus.flatMap (fun x => if s.claimable (x.1 / 16 % 64) (x.1 % 16) then
        ((List.range 33).filter (fun u => moved (x.1 / 16 % 64) || used x.1 u)).map (fun u => execUnitClaim (muUnit x.1 u))
          ++ x.2.queue.map (fun c => execUnitClaim (.muCmd (x.1 / 8192) (x.1 / 1024 % 8) (x.1 / 16 % 64) (x.1 % 16) c.id)) else [])
    ++ s.engines.flatMap (fun x => x.2.map (fun c => execUnitClaim (.engCmd (x.1 / 2) (x.1 % 2 == 1) c.id)))
/-- Held entries that have to come back, and granules of task areas that have to be filled (R406, R407). -/
def State.returns (s : State) : List Move :=
  s.engines.flatMap (fun x => (x.2.filter (fun c => c.out)).map (fun c => execFillComplete (.engCmd (x.1 / 2) (x.1 % 2 == 1) c.id) 0))
    ++ s.mus.flatMap (fun x => (x.2.queue.filter (fun c => c.out)).map (fun c => execFillComplete (.muCmd (x.1 / 8192) (x.1 / 1024 % 8) (x.1 / 16 % 64) (x.1 % 16) c.id) 0))
    ++ s.launches.flatMap (fun l => l.2.tunfilled.flatMap (fun g => g.2.map (fun i => execFillComplete (.taskGran l.1 g.1 i) 0)))
/-- Everything that the device may do of itself. -/
def State.ownEvents (s : State) : List Move :=
  s.agents.flatMap (fun x => agentEvents x.1 x.2)
    ++ s.saddle.flatMap (fun x => saddleEvents x.1 x.2)
    ++ s.engines.flatMap (fun x => execEngineChunk (x.1 / 2) (x.1 % 2 == 1) :: x.2.flatMap (fun c => [execEngineCommandComplete (x.1 / 2) (x.1 % 2 == 1) c.id, execFollowOnHandover (x.1 / 2) c.id]))
    ++ s.mus.flatMap (fun x => [execMuCommandStart (x.1 / 8192) (x.1 / 1024 % 8), execMuCommandComplete (x.1 / 8192) (x.1 / 1024 % 8)]
        ++ x.2.unfilled.map (fun u => execFillComplete (muUnit x.1 u) 0))
    ++ s.groups.flatMap (fun x => x.2.unfilled.map (fun i => execFillComplete (.granule x.1 i) 0))
    ++ s.vfs.flatMap (fun v => v.2.ctxs.flatMap (fun c => execContextHalted v.1 c.1 :: c.2.queues.flatMap (fun q => [execLaunchAccept ⟨v.1, c.1, q.1⟩, execLaunchComplete ⟨v.1, c.1, q.1⟩])))
    ++ s.launches.map (fun l => execGroupPlace l.1)
    ++ s.packets.zipIdx.flatMap (fun p => [execPacketSend p.2, execReleasePacket (handleCl p.1.dst), execNewTaskPacket (handleCl p.1.dst)])
    ++ s.disps.flatMap (fun d => [execBinGather (d.1 / 2) (d.1 % 2), execWaveDispatch (d.1 / 2) (d.1 % 2)] ++ d.2.bins.map (fun b => execBinClose (d.1 / 2) (d.1 % 2) b.1))
    ++ s.parts.map (fun p => execStealRequest (p.1 / 64) (p.1 % 64))
    ++ s.steals.map (fun x => execStealDonation x.2.1 (x.1 / 64) (x.1 % 64))
    ++ (s.recs.filter (fun r => r.2.st == .commit)).map (fun r => execTaskCommit (r.1 / 4096) (r.1 % 4096))
    ++ s.chiplets.flatMap (fun c => c.2.flits.map (fun f => execFlitPass c.1 f.1 f.2.stop) ++ [execLapStart c.1, execSlopeWindowEnd c.1, execFrequencyStep c.1, execFreqHoldExpiry c.1])
    ++ s.boxEvents .pf ++ s.vfBoxes.flatMap (fun b => s.boxEvents (.vf b.1)) ++ s.migEvents
    ++ s.vfs.map (fun v => execPageRequestSend v.1) ++ s.invals.map (fun i => execInvalidationCompletion i.vf i.tag)
    ++ [execSlotOpen (s.time / 64 % 1024)] ++ s.claims? ++ s.returns
    ++ [fun s => .next s.reinstateNext] ++ s.vfs.flatMap (fun v => v.2.ctxs.flatMap (fun c => (c.2.queues.filter (fun q => q.2.rewrite)).map (fun q s => .next (s.rewriteWord ⟨v.1, c.1, q.1⟩))))

/-- A turn that would change nothing is passed over. -/
def State.idles (s : State) (o : Host.Outcome State Fault Refusal) : Bool := match o with | .next t => decide (t = s) | _ => false
/-- What may happen while there is no power, or the boot ROM is in recovery: power, resets, and the host's writes of the recovery block (R418, R422, R428). -/
def whileDown (e : Instr) : Bool :=
  match e with
  | .powerOn _ => true
  | .powerLoss => true
  | .warmReset => true
  | .recoveryLoad => true
  | .registerWrite _ _ => true
  | _ => false
/-- The turn of a device event: not that of a code instruction, which only a slot runs; firmware must run for all but a few (R418). -/
def State.eventTurn (s : State) (e : Instr) : Host.Outcome State Fault Refusal :=
  if (encode e).isEmpty && (s.up || whileDown e) then exec e s else .next s
/-- What happens beside the events of the opcode table (log 1). -/
def State.deedTurn (s : State) (d : Deed) : State :=
  match d with
  | .writeBack g => if (mapGet? s.dirty g).isSome then s.writeBacks [g] else s
  | .fill g => s.fill g
  | .harm x => if s.broken.contains x then s else { s with broken := s.broken ++ [x] }
  | .packetIn link dev num dst ent ackid l args => s.packetIn link dev num dst ent ackid l args
  | .releaseIn link dev num h => s.releaseIn link dev num h
  | .packetAcked ackid accepted => s.packetAcked ackid accepted
  | .creditIn dev cluster => s.creditIn dev cluster
  | .carried rs => { s with mig := { s.mig with records := rs } }
  | .peerWrote dev win issuer off bytes =>
    let l := (bytes.zipIdx).map (fun x => (Spot.peer (64 * dev + win) (off + x.2), x.1))
    l.foldl (fun s x => s.spotPut x.1 x.2) (s.wrote (Ev.of (peerParty issuer) (.at 3)) l)
  | .reorder x k => s.reorder x k
/-- One turn. -/
def State.turn (s : State) (t : Turn) : Host.Outcome State Fault Refusal :=
  match t with
  | .slot id b => s.slotTurn id b
  | .event e => s.eventTurn e
  | .deed d => .next (if s.up then s.deedTurn d else s)
/-- Slots that have issued in their clause and can go on no further stand at the tail of their lists (R247). -/
def State.passTurns (s : State) : State :=
  let stuck (id : Nat) (b : Bool) (x : Slot) : Slot := if x.turn && x.path.isSome && s.idles (s.slotTurn id b) then { x with rank := s.tail, turn := false } else x
  { s with agents := s.agents.map (fun x => (x.1, { x.2 with slotA := stuck x.1 false x.2.slotA, slotB := stuck x.1 true x.2.slotB })) }
/-- The outcome of the next turn that changes anything: slots and the device's own events take precedence in alternate steps, the cores and the events in rotation, so that none is starved (log 1). -/
def State.nextTurn (s : State) : Host.Outcome State Fault Refusal :=
  let s := s.passTurns
  let l := if s.up then s.ownEvents else []
  let k := if l.isEmpty then 0 else s.turns / 2 % l.length
  let evs := l.drop k ++ l.take k
  let slots : List Move := s.slotTurns.map (fun t s => s.turn t)
  ((if s.turns % 2 = 0 then slots ++ evs else evs ++ slots).findSome? (fun f => let o := f s; if s.idles o then none else some o)).getD (.next s)

end Sys2Proof.Machine
end

