-- ==== Sys2Proof/Machine/Step.lean ====
section
/-! DEFINITION. The step, and the placing of one instruction where the next step fetches it (logs 1, 3 and 5). -/

namespace Sys2Proof.Machine

/-- One step of the machine: time passes, and the next turn is taken, from the agenda while it lists one (log 1). -/
def step (s : State) : Host.Outcome State Fault Refusal :=
  let t := s.tick
  match t.agenda with
  | x :: r => State.turn { t with agenda := r } x
  | [] => t.nextTurn

/-- Device address of the placed clause header; the instruction follows it. -/
def placeAt : Nat := 0x1000
/-- The header of the placed clause: one instruction, flag f0 (R74). -/
def placeHdr : ClauseHdr := ⟨false, 1, 15, 0, 0⟩
/-- Bytes of the placed words: the instruction alone for a header, otherwise after the header. -/
def placedBytes (nbits w : Nat) : List Byte :=
  let ps := parcelBytes (parcelAt nbits w 0) ++ parcelBytes (parcelAt nbits w 1) ++ parcelBytes (parcelAt nbits w 2)
  if kindOf (parcelAt nbits w 0) = 3 then ps else (encodeHeader placeHdr).flatMap parcelBytes ++ ps
/-- The placed warp (R343): 32 lanes of a group of one warp on cluster 0, quadrant 0, its path at the instruction. -/
def placeWarp (group launch : Nat) (header : Bool) : Agent :=
  { Agent.blank with
    kind := .grid, group := some group, launch := launch, gsize := 32, ngroups := 1, units := [0, 1], width := 32
    started := maskTo 32, live := maskTo 32, nregs := 256, dsn := 64
    slotA := Slot.of (some ⟨⟨BitVec.ofNat 64 placeAt, 0⟩, maskTo 32, .none, if header then .header else .body (BitVec.ofNat 64 (placeAt + 4)) placeHdr⟩) .none false 0 }
/-- The state with an instruction where the next step fetches it: VF 0 enabled with one context, an extent whose translation is cached, quadrant 0 of cluster 0 with a full purse, a warp at the instruction, and the agenda naming that warp (log 5). -/
def State.withFetchWord (s : State) (nbits w : Nat) : State :=
  let id := s.nextId
  let header := decide (kindOf (parcelAt nbits w 0) = 3)
  let v := s.vf 0
  let ctx : Ctx := ⟨0, .run, none, [], []⟩
  let g : Group := ⟨id + 2, 0, 0, 0, 0, [], [], [(0, id)], [(0, maskTo 32)], [], [], false, false, [], [], false⟩
  let s1 : State := { s with
    cur := none, nextId := id + 3, agents := mapSet s.agents id (placeWarp (id + 1) (id + 2) header), groups := mapSet s.groups (id + 1) g
    parts := mapSet s.parts 0 ⟨1, [0], 4⟩, extents := mapSet s.extents 0 (.vf 0), purses := mapSet s.purses 0 ⟨16383, none, [], 0, false⟩
    tlb := mapSet s.tlb 1000 [⟨0, 0, 0, 2 ^ 21, s.bar2, true, true, true, none⟩]
    mem := memWrite s.mem placeAt (placedBytes nbits w), poison := [], fails := [], agenda := [.slot id false] }
  s1.setVf 0 { v with enabled := true, ctxs := mapSet v.ctxs 0 ctx, extents := [0], newShare := none }

end Sys2Proof.Machine
end

