-- ==== Sys2Proof/Safety.lean ====
section
/-! DEFINITION. What counts as a safe run, and the terms in which claims are made: what a step of an agent may change besides what its instruction writes, and the outcomes of the plain shapes of instruction (R82, R86, R189, R380). -/

namespace Sys2Proof.Machine

/-- Tenant memory and host memory are in canonical form: addresses strictly rising, no unlisted value listed. -/
def State.memoryOk (s : State) : Prop := Memory.wf s.mem = true ∧ Memory.wf s.hostMem = true

/-- A run of n steps that never stops, and keeps memory in canonical form. -/
def State.safeFor (s : State) : Nat → Prop
  | 0 => s.memoryOk
  | n + 1 => s.memoryOk ∧ match step s with | .next t => t.safeFor n | _ => False

/-- An outcome that is a next state. -/
def goesOn (o : Host.Outcome State Fault Refusal) : Prop := ∃ t, o = .next t

/-- Only where the paths of an agent stand differs: its slots and its stack (R188 to R192). -/
def Agent.onlyMoved (a a' : Agent) : Prop := a' = { a with slotA := a'.slotA, slotB := a'.slotB, stack := a'.stack }

/-- The agent a' is a after an instruction has been counted (R215, R265), but for its registers and predicates, FPC, and where its paths stand. -/
def Agent.counted (a : Agent) (s : State) (a' : Agent) : Prop :=
  a' = { a with
    insn := a.insn + 1, wdc := 0, bankWait := a.bankWait + Config.bankGap s.fresh
    vregs := a'.vregs, sregs := a'.sregs, preds := a'.preds, fpc := a'.fpc
    slotA := a'.slotA, slotB := a'.slotB, stack := a'.stack }

/-- The path that stood in a slot has moved past an instruction, and its slot is else as it was, unless it arrives there at its join record (R79, R190). -/
def Agent.movedPast (a : Agent) (b : Bool) (p : Path) (i : Instr) (a' : Agent) : Prop :=
  p.mask ≠ 0 → a.arrives (p.past (instrBytes i)) = false → a'.slot b = { a.slot b with path := some (p.past (instrBytes i)) }

/-- Word k of a number (R11). -/
def wordAt (x k : Nat) : Word := BitVec.ofNat 32 (x / 2 ^ (32 * k))
/-- The OR of the flags raised by the lanes of a set (R42). -/
def flagsOver (m : Mask) (f : Nat → FFlags) : FFlags := (lanesOf m).foldl (fun x L => x ||| f L) 0

/-- The agent's registers of the lanes of a set hold results of n registers from d up; a register at or above the allocation reads 0 (R48); every other register of every lane is as before. -/
def Agent.vWritten (a : Agent) (m : Mask) (d n : Nat) (f : Nat → Nat) (a' : Agent) : Prop :=
  (∀ L k, L < 64 → m.getLsbD L = true → k < n → a'.v (d + k) L = if d + k < a.nregs then wordAt (f L) k else 0)
    ∧ (∀ L r, L < 64 → (m.getLsbD L = false ∨ r < d ∨ d + n ≤ r) → a'.v r L = a.v r L)
/-- Scalar registers d to d + n - 1 hold a result, and every other one is as before. -/
def Agent.sWritten (a : Agent) (d n x : Nat) (a' : Agent) : Prop :=
  (∀ k, k < n → a'.s (d + k) = wordAt x k) ∧ (∀ r, (r < d ∨ d + n ≤ r) → a'.s r = a.s r)

/-- A vector instruction with some active lane answers a next state in which each active lane's D holds its result and FPC the OR of the lanes' flags, and of everything else only the counters and the path have moved (R15, R42, R48, R82). -/
def vectorResult (i : Instr) (o : MOps) (n : Nat) (f : State → Agent → Mask → Nat → Res) : Prop :=
  ∀ s id b a p, s.running = some (id, b, a, p) → a.active p o.g ≠ 0 →
    ∃ a', exec i s = .next (s.setAgent id a') ∧ (a.account s i).counted s a' ∧ (a.account s i).movedPast b p i a'
      ∧ a.vWritten (a.active p o.g) o.d.toNat n (fun L => (f s a (a.active p o.g) L).1) a'
      ∧ a'.fpc = a.fpc ||| (flagsOver (a.active p o.g) (fun L => (f s a (a.active p o.g) L).2)).zeroExtend 32
      ∧ a'.sregs = a.sregs ∧ a'.preds = a.preds

/-- The same of an instruction that writes predicate D: for each active lane its truth value; p0 stays true, and other lanes and predicates are as before (R51). -/
def predicateResult (i : Instr) (o : MOps) (f : State → Agent → Mask → Nat → Bool × FFlags) : Prop :=
  ∀ s id b a p, s.running = some (id, b, a, p) → a.active p o.g ≠ 0 →
    ∃ a', exec i s = .next (s.setAgent id a') ∧ (a.account s i).counted s a' ∧ (a.account s i).movedPast b p i a'
      ∧ (∀ q L, L < 64 → (a'.p q).getLsbD L =
          if q = 0 then true else if q = o.d.toNat ∧ (a.active p o.g).getLsbD L = true then (f s a (a.active p o.g) L).1 else (a.p q).getLsbD L)
      ∧ a'.fpc = a.fpc ||| (flagsOver (a.active p o.g) (fun L => (f s a (a.active p o.g) L).2)).zeroExtend 32
      ∧ a'.vregs = a.vregs ∧ a'.sregs = a.sregs

/-- The same of an instruction of the scalar group: one result for the warp, in sD (R86, R148). -/
def scalarResult (i : Instr) (o : MOps) (n : Nat) (f : State → Agent → Path → Res) : Prop :=
  ∀ s id b a p, s.running = some (id, b, a, p) → o.g.neg = false →
    ∃ a', exec i s = .next (s.setAgent id a') ∧ (a.account s i).counted s a' ∧ (a.account s i).movedPast b p i a'
      ∧ a.sWritten o.d.toNat n (f s a p).1 a' ∧ a'.fpc = a.fpc ||| (f s a p).2.zeroExtend 32
      ∧ a'.vregs = a.vregs ∧ a'.preds = a.preds

/-- An instruction that changes nothing of its agent: the counters and the path alone move. -/
def nothingElse (i : Instr) (s : State) (id : Nat) (b : Bool) (a : Agent) (p : Path) : Prop :=
  ∃ a', exec i s = .next (s.setAgent id a') ∧ a.counted s a' ∧ a.movedPast b p i a'
    ∧ a'.vregs = a.vregs ∧ a'.sregs = a.sregs ∧ a'.preds = a.preds ∧ a'.fpc = a.fpc

end Sys2Proof.Machine
end

