-- ==== Sys2Proof/Certificates/Slice0/Terms.lean ====
section
/-! DEFINITION. The terms of the statements: results of instructions written from the rules, and the shapes of next state that several instructions share. -/

namespace Sys2Proof.Claims
open Sys2Proof.Machine

/-! Integer and logic results (R116 to R119). -/

/-- An exact integer as a result of an integer type: its low n bits, or under `.sat` the result clamped to the type's range, which raises SAT when it changes the value (R116). -/
def intResult (f : Fmt) (sat : Bool) (x : Int) : Res :=
  let n := fmtWidth f
  let lo : Int := if fmtSigned f then -((2 ^ (n - 1) : Nat) : Int) else 0
  let hi : Int := if fmtSigned f then ((2 ^ (n - 1) : Nat) : Int) - 1 else ((2 ^ n : Nat) : Int) - 1
  if sat then (wrapNat (max lo (min hi x)) n, if lo ≤ x ∧ x ≤ hi then 0 else fSAT) else (wrapNat x n, 0)

/-- An integer instruction whose exact result is a function of A, B and C. -/
def integerResult (i : Instr) (o : MOps) (x : Int → Int → Int → Int) : Prop :=
  vectorResult i o (tyRegs o) (fun s a _ L => intResult (tyOf o) (satOf o) (x (intA s a o L) (intB s a o L) (intC a o L)))

/-- Operands of the instruction's own width, the third operand, and a 32-bit B. -/
def opA (s : State) (a : Agent) (o : MOps) (L : Nat) : Nat := valA s a o (intTy o) L
def opB (s : State) (a : Agent) (o : MOps) (L : Nat) : Nat := valB s a o (intTy o) L
def wordA (s : State) (a : Agent) (o : MOps) (L : Nat) : Nat := valA s a o (.bits 1) L
def wordB (s : State) (a : Agent) (o : MOps) (L : Nat) : Nat := valB s a o (.bits 1) L
def wordC (a : Agent) (o : MOps) (L : Nat) : Nat := valC a o 1 L

/-- Element j of w bits of a register, signed or unsigned by the type (R116). -/
def element (f : Fmt) (w x j : Nat) : Int := if fmtSigned f then sextNat (x / 2 ^ (w * j)) w else ((x / 2 ^ (w * j) % 2 ^ w : Nat) : Int)

/-- An exact integer result of a type, a function of the state, the agent and the lane. -/
def exactResult (i : Instr) (o : MOps) (x : State → Agent → Nat → Int) : Prop :=
  vectorResult i o (tyRegs o) (fun s a _ L => intResult (tyOf o) (satOf o) (x s a L))

/-- A result of n registers that raises no flag. -/
def copyResult (i : Instr) (o : MOps) (n : Nat) (x : State → Agent → Nat → Nat) : Prop :=
  vectorResult i o n (fun s a _ L => (x s a L, 0))
/-- A well-formed instruction's result given bit by bit, for each bit of its type; no flag. -/
def bitResult (i : Instr) (o : MOps) (bit : State → Agent → Nat → Nat → Bool) : Prop :=
  i.wf = true → copyResult i o (tyRegs o) (fun s a L => bitsN (fmtWidth (tyOf o)) (bit s a L))

/-- Shifts by a count: bits shifted in are 0, or copies of the sign of a signed type (R118). -/
def leftBit (x c j : Nat) : Bool := decide (c ≤ j) && x.testBit (j - c)
def rightBit (f : Fmt) (x c j : Nat) : Bool :=
  if j + c < fmtWidth f then x.testBit (j + c) else fmtSigned f && x.testBit (fmtWidth f - 1)
/-- Bit j of BFE (R118, R119). -/
def extractBit (f : Fmt) (x b j : Nat) : Bool :=
  let n := fmtWidth f
  let len := min (b / 256 % 256) n
  let src (k : Nat) : Bool := if k < n then x.testBit k else fmtSigned f && x.testBit (n - 1)
  if len = 0 then false else if j < len then src (b % 256 + j) else fmtSigned f && src (b % 256 + len - 1)
/-- Bit j of BFI (R118, R119). -/
def insertBit (x y c j : Nat) : Bool :=
  if c % 256 ≤ j ∧ j < c % 256 + c / 256 % 256 then y.testBit (j - c % 256) else x.testBit j
/-- Bit j of PRMB: of byte C[4i+2:4i] of B * 2^32 + A, or 0 when C[4i+3] is 1 (R118). -/
def permuteBit (x y c j : Nat) : Bool :=
  let k := c / 16 ^ (j / 8) % 16
  decide (k < 8) && (y * 2 ^ 32 + x).testBit (8 * k + j % 8)

/-! Floating point (R120 to R125). -/

/-- A floating-point instruction: a function of the values of A, B and C, which have had FZ applied (R35), and of the rounding mode. -/
def fpResult (i : Instr) (o : MOps) (f : RMode → Bool → Val → Val → Val → Res) : Prop :=
  vectorResult i o (tyRegs o) (fun s a _ L => f (rmOf a o) a.fz (fpA s a o L) (fpB s a o L) (fpC a o L))
/-- A packed instruction: element 0 of D from the elements 0, and element 1 from the elements 1 (R124). -/
def packedResult (i : Instr) (o : MOps) (f : RMode → Bool → Val → Val → Val → Res) : Prop :=
  vectorResult i o 1 (fun s a _ L =>
    let r (j : Nat) : Res := f (rmOf a o) a.fz (pkA s a o L j) (pkB s a o L j) (pkC a o L j)
    ((r 0).1 + 2 ^ 16 * (r 1).1, (r 0).2 ||| (r 1).2))

/-- A special function of a type: FP32, packed 16-bit, or FP64 (R138). -/
def specialResult (i : Instr) (o : MOps) (fn : SFn) : Prop :=
  (tyOf o = FP32 → vectorResult i o 1 (fun s a _ L => specialCode fn FP32 a.fz (valA s a o (.fp FP32) L))) ∧
  (tyOf o = FP16 ∨ tyOf o = BF16 → vectorResult i o 1 (fun s a _ L =>
    let r (j : Nat) : Res := specialCode fn (tyOf o) a.fz (valA s a o (.pk (tyOf o)) L / 2 ^ (16 * j) % 2 ^ 16)
    ((r 0).1 + 2 ^ 16 * (r 1).1, (r 0).2 ||| (r 1).2))) ∧
  (tyOf o = FP64 → vectorResult i o 2 (fun s a _ L => specialF64 fn (rmOf a o) a.fz (valA s a o (.fp FP64) L)))

/-! Conversions (R130 to R133). -/

/-- A conversion under its check of DYN into D8 (R33): where the check holds for some active lane, ILLOP; otherwise the result. -/
def conversionResult (i : Instr) (o : MOps) (n : Nat) (f : State → Agent → Nat → Res) : Prop :=
  ∀ s id b a p, s.running = some (id, b, a, p) → a.active p o.g ≠ 0 →
    if tyOf o = D8 ∧ modLow o = 7 ∧ a.rm ≠ 0 then exec i s = .next (s.illop id b p (a.active p o.g))
    else ∃ a', exec i s = .next (s.setAgent id a') ∧ (a.account s i).counted s a' ∧ (a.account s i).movedPast b p i a'
      ∧ a.vWritten (a.active p o.g) o.d.toNat n (fun L => (f s a L).1) a'
      ∧ a'.fpc = a.fpc ||| (flagsOver (a.active p o.g) (fun L => (f s a L).2)).zeroExtend 32
      ∧ a'.sregs = a.sregs ∧ a'.preds = a.preds

/-- The dense string of 16 six-bit elements and their byte form (R133). -/
def denseBit (x j : Nat) : Bool := decide (j < 96) && x.testBit (8 * (j / 6) + j % 6)
def byteBit (x j : Nat) : Bool := decide (j % 8 < 6) && x.testBit (6 * (j / 8) + j % 8)

/-! The scalar group, cross-lane instructions and short forms (R93, R141 to R149). -/

/-- An integer result for the warp, wrapped or clamped (R148). -/
def scalarInteger (i : Instr) (o : MOps) (x : Int → Int → Int) : Prop :=
  scalarResult i o (tyRegs o) (fun s a _ => intResult (tyOf o) (satOf o) (x (intA s a o 0) (intB s a o 0)))
/-- A result of n scalar registers that raises no flag. -/
def scalarCopy (i : Instr) (o : MOps) (n : Nat) (x : State → Agent → Path → Nat) : Prop := scalarResult i o n (fun s a p => (x s a p, 0))
/-- A well-formed scalar instruction's result given bit by bit. -/
def scalarBits (i : Instr) (o : MOps) (bit : State → Agent → Nat → Bool) : Prop :=
  i.wf = true → scalarCopy i o (tyRegs o) (fun s a _ => bitsN (fmtWidth (tyOf o)) (bit s a))

/-- The lane that XLANE's mode computes from its own lane and B: named, below, above, partner (R142). -/
def laneNumber (mode L b : Nat) : Int :=
  if mode = 0 then b else if mode = 1 then (L : Int) - b else if mode = 2 then (L : Int) + b else (L ^^^ b : Nat)
/-- Active lanes whose predicate A, after any negation, holds (R143). -/
def holding (a : Agent) (o : MOps) (m : Mask) : Mask :=
  m &&& maskOf (fun L => (a.p (o.a.field.toNat % 8)).getLsbD L != decide (o.a.field.toNat ≥ 8))
/-- The active lanes whose A holds the same bits as lane L's (R144). -/
def laneClass (s : State) (a : Agent) (o : MOps) (m : Mask) (L : Nat) : Mask :=
  let n := if o.mod.getLsbD 2 then 2 else 1
  maskOf (fun j => m.getLsbD j && valA s a o (.bits n) j == valA s a o (.bits n) L)

/-- The M form that R93 gives a short instruction: its guard, D and sources, with C, FS and the stall hint zero. -/
def mForm (o : SOps) (mod : BitVec 8) (kd : Bool) (x y : Src) : MOps := ⟨o.g, 0, false, mod, o.d, kd, x, y, 0, false, none⟩

end Sys2Proof.Claims
end

