-- ==== Sys2Proof/Certificates/Slice0/MemTerms.lean ====
section
/-! DEFINITION. The terms of the statements about memory, rings, engines and control: what an instruction that goes on leaves, the lanes' translated locations, and the bytes a store leaves. -/

namespace Sys2Proof.Claims
open Sys2Proof.Machine

/-- The thread of an event, its access, the locations that it reads, and the bytes that it writes. -/
def evBody (e : Ev) : Party × Access × List Spot × List (Spot × Byte) := (e.party, e.acc, e.reads.map (fun r => r.1), e.writes.map (fun w => (w.1, w.2.2)))
/-- S has recorded such events, in this order, after those of s (R270). -/
def recorded (s S : State) (l : List (Party × Access × List Spot × List (Spot × Byte))) : Prop :=
  ∃ es, S.events = es ++ s.events ∧ es.map evBody = l.reverse
/-- S has recorded, after the events of s, events of some lanes alone. -/
def eventsOf (s S : State) (a : Agent) (id : Nat) (m : Mask) : Prop :=
  ∃ es, S.events = es ++ s.events ∧ ∀ e ∈ es, ∃ L ∈ lanesOf m, e.party = a.party id L

/-- The instruction answers S with its agent now c, counted, with its path past the instruction; settling may move paths, and nothing else (R79, R190 to R192, R215). -/
def becomes (i : Instr) (s S : State) (id : Nat) (b : Bool) (c : Agent) (p : Path) : Prop :=
  ∃ a', exec i s = .next (S.setAgent id a')
    ∧ a' = { c with insn := c.insn + 1, wdc := 0, bankWait := c.bankWait + Config.bankGap S.fresh, slotA := a'.slotA, slotB := a'.slotB, stack := a'.stack }
    ∧ c.movedPast b p i a'

/-- A vector instruction that answers S, with its lanes' results in D (compare vectorResult, where S is s). -/
def vectorIn (i : Instr) (o : MOps) (s S : State) (id : Nat) (b : Bool) (a : Agent) (p : Path) (n : Nat) (f : Nat → Res) : Prop :=
  ∃ a', exec i s = .next (S.setAgent id a') ∧ (a.account s i).counted s a' ∧ (a.account s i).movedPast b p i a'
    ∧ a.vWritten (a.active p o.g) o.d.toNat n (fun L => (f L).1) a'
    ∧ a'.fpc = a.fpc ||| (flagsOver (a.active p o.g) (fun L => (f L).2)).zeroExtend 32
    ∧ a'.sregs = a.sregs ∧ a'.preds = a.preds

/-- A warp instruction that answers S, with a result of n registers in sD. -/
def scalarIn (i : Instr) (o : MOps) (s S : State) (id : Nat) (b : Bool) (a : Agent) (p : Path) (n x : Nat) : Prop :=
  ∃ a', exec i s = .next (S.setAgent id a') ∧ (a.account s i).counted s a' ∧ (a.account s i).movedPast b p i a'
    ∧ a.sWritten o.d.toNat n x a' ∧ a'.fpc = a.fpc ∧ a'.vregs = a.vregs ∧ a'.preds = a.preds

/-! Instructions by how they act (R82, R86). -/

/-- Instructions that act lane by lane, or once when some lane is active. -/
def perLane : List (MOps → Instr) :=
  [.addInt, .subInt, .mulInt, .mulhi, .mad, .madhi, .divInt, .rem, .minInt, .maxInt, .absInt, .negInt, .sad, .dp4, .dp2, .lea,
   .andB, .orB, .xor, .notB, .andn, .bitf, .shl, .shr, .shf, .rot, .popc, .clz, .brev, .bfe, .bfi, .prmb,
   .addFp, .subFp, .mulFp, .fmaFp, .divFp, .minFp, .maxFp, .absFp, .negFp, .frc, .rndi, .scalb, .getexp, .getman, .clampFp,
   .addPacked, .subPacked, .mulPacked, .fmaPacked, .minPacked, .maxPacked, .absPacked, .negPacked, .dot2, .clampPacked,
   .cvt, .cvtQ, .pack, .unpack, .ex2, .lg2, .rcp, .rsq, .sqrt, .sinPi, .cosPi, .tanh, .sigm, .erf,
   .amaxRec, .amaxAdv, .amaxClr, .xlane, .pcomb, .eqset, .scan, .first, .spread,
   .setp, .sel, .plop, .prd, .pwr, .mov, .class,
   .ldB32, .ldB64, .ldB128, .ldN8, .ldI8, .ldN16, .ldI16, .stB8, .stB16, .stB32, .stB64, .stB128, .prf, .ldGm, .stGm, .ldl, .stl,
   .atomAddInt, .atomAddFp, .atomMinI, .atomMinN, .atomMaxI, .atomMaxN, .atomAnd, .atomOr, .atomXor, .atomXchg, .atomCas, .atomInc, .atomDec,
   .gath, .scat, .ret, .join, .exit, .fork, .spawn, .spawnSpec, .depDec, .depAdd, .tend, .tabort, .tabortDrop, .renq, .trap, .bkpt]
/-- Instructions that act once for the warp (R86). -/
def oncePerWarp : List (MOps → Instr) :=
  [.sadd, .ssub, .smul, .sand, .sor, .sxor, .sshl, .sshr, .smov, .scmp, .ssel, .sld, .smin, .smax, .rdlane, .spopc, .amaxRd, .amaxScl,
   .ringOpen, .ringClose, .ringRsv, .ringPost, .ringTake, .ringDone, .ringQry, .cpy, .sisect, .smerge, .winPub, .cbInval,
   .mma, .mmaX64, .wbLd, .accRd, .accWr, .accZero, .muFence, .brx, .yield, .region, .sysrd, .syswr, .tret, .pmcrd, .sleep]

/-- The short instructions of each kind (R93). -/
def shortPerLane : List (SOps → Instr) :=
  [.movSVector, .movSScalar, .movSImm, .movSSpecial, .addI32SImm, .shlB32S, .shrN32S, .shrI32S, .addI32S, .subI32S, .andB32S, .orB32S, .xorB32S,
   .addF32S, .mulF32S, .exitS, .retS, .bkptS]
def shortOncePerWarp : List (SOps → Instr) := [.smovS, .smovSImm, .smovSSpecial, .saddI32SImm, .yieldS]

/-! Amax rings (R134 to R136). -/

/-- The ring maximum that an instruction reads: the largest of the entries, or +0 for a ring the VF does not own. -/
def ringTop (s : State) (a : Agent) (r t : Nat) : Prop :=
  if s.ownsAmax r a.vf then (∀ e ∈ (s.amaxRing r).entries, e.toNat ≤ t) ∧ (t = 0 ∨ ∃ e ∈ (s.amaxRing r).entries, e.toNat = t) else t = 0
/-- The state with an operation performed on a ring, or counted in AMAX_LOST for a ring the VF does not own; nothing else differs. -/
def ringDone (s : State) (a : Agent) (r : Nat) (f : AmaxRing → AmaxRing) (S : State) : Prop :=
  S = { s with amax := S.amax, amaxLost := S.amaxLost }
    ∧ (∀ q, S.amaxRing q = if q = r ∧ s.ownsAmax r a.vf = true then f (s.amaxRing r) else s.amaxRing q)
    ∧ (∀ k, mapGetD S.amaxLost k 0 = mapGetD s.amaxLost k 0 + (if s.ownsAmax r a.vf = false ∧ k = 64 * a.cluster + a.vf then 1 else 0))
/-- The head entry becomes the larger of itself and m (R135). -/
def recordMax (m : Nat) (x : AmaxRing) : AmaxRing :=
  { x with entries := x.entries.set x.head (BitVec.ofNat 32 (max (x.entries.getD x.head 0).toNat m)) }
/-- m is the largest FP32 code of the magnitudes of the finite ones of some values; none where none is finite. -/
def largestFinite (l : List Val) (m : Option Nat) : Prop :=
  match m with
  | none => ∀ v ∈ l, absCode v = none
  | some x => (∃ v ∈ l, absCode v = some x) ∧ ∀ v ∈ l, ∀ y, absCode v = some y → y ≤ x

/-! Accesses (R151 to R158, R349 to R351). -/

/-- What an access of a lane meets. -/
def meets (s : State) (id : Nat) (b : Bool) (a : Agent) (need : Need) (va : Nat) : Xl :=
  s.xlate (.slot id b) a.caches a.vf (s.pasidOf a.vf a.ctx) va need
/-- The access has a usable translation to l, whose lines are not held back. -/
def reaches (s : State) (id : Nat) (b : Bool) (a : Agent) (need : Need) (va : Nat) (l : Loc) : Prop :=
  (∃ w, meets s id b a need va = .ok l w) ∧ s.heldLoc l = false
/-- The n bytes of every lane of a set, at aligned addresses, lie at its location. -/
def lanesReach (s : State) (id : Nat) (b : Bool) (a : Agent) (m : Mask) (need : Need) (n : Nat) (va : Nat → Nat) (loc : Nat → Loc) : Prop :=
  ∀ L, L < 64 → m.getLsbD L = true → va L % n = 0 ∧ reaches s id b a need (va L) (loc L)
/-- The eight bytes of different lanes of a set lie at different locations. -/
def apart (m : Mask) (loc : Nat → Loc) : Prop :=
  ∀ L ∈ lanesOf m, ∀ M ∈ lanesOf m, L ≠ M → ∀ i j, i < 8 → j < 8 → (loc L).add i ≠ (loc M).add j
/-- None of these lanes runs a task that is not irrevocable, nor one whose buffer is still being performed (R305, R307). -/
abbrev allDirect (s : State) (a : Agent) (m : Mask) : Prop := s.softLanes a m = 0 ∧ s.pendingLanes a m = 0
/-- No write of these lanes is buffered in a task, and none can discard a speculative one: a warp or a fragment, or irrevocable tasks where no task is speculative (R305 to R310). -/
def direct (s : State) (a : Agent) (m : Mask) : Prop :=
  allDirect s a m ∧ (a.isWave = true → ∀ x ∈ s.recs, ¬(x.2.st = .running ∧ x.2.spec = true))

/-- The byte that bytes at a location put at another. -/
def byteOver (l : Loc) (bs : List Byte) (x : Loc) : Option Byte :=
  match l, x with
  | .dev d, .dev y => if d ≤ y then bs[y - d]? else none
  | .host d, .host y => if d ≤ y then bs[y - d]? else none
  | _, _ => none
/-- The byte that a store of the lanes of a set leaves at a location: that of the highest lane that covers it (R154). -/
def storedByte (m : Mask) (loc : Nat → Loc) (bs : Nat → List Byte) (x : Loc) : Option Byte :=
  (lanesOf m).reverse.findSome? (fun L => byteOver (loc L) (bs L) x)
/-- Of the state, only what a store to memory may change differs: bytes, lines to write back and which are written whole, a VF's dirty pages, poison, what the slot waited for, and the events recorded. -/
def onlyStored (s S : State) : Prop :=
  S = { s with mem := S.mem, hostMem := S.hostMem, dirty := S.dirty, whole := S.whole, vfs := S.vfs, poison := S.poison, waits := S.waits, fails := S.fails, nextId := S.nextId, events := S.events }
    ∧ ∀ v, S.vf v = { s.vf v with dirty := (S.vf v).dirty }

/-- A global load (R150 to R159): its operation will write each lane's bytes, read now as the rules of memory allow (see sight), and the tasks that are speculative track the lines; it waits where one would track a 65th. -/
def globalLoad (i : Instr) (o : MOps) (n regs : Nat) (ext : Nat → Nat) : Prop :=
  ∀ s id b a p loc, s.running = some (id, b, a, p) → a.active p o.g ≠ 0 →
    lanesReach s id b a (a.active p o.g) needR n (globAddr s a o) loc →
    (∀ L, L < 64 → (a.active p o.g).getLsbD L = true → s.sound (loc L) n = true) →
    match (s.forget (.slot id b)).trackLines a ((lanesOf (a.active p o.g)).map (fun L => (L, (loc L).line))) with
    | none => exec i s = .next (s.forget (.slot id b))
    | some t =>
      let seen := t.sight ((lanesOf (a.active p o.g)).map (fun L => t.laneRead id a L .glob (s.accAt (memAcc o false) (loc L)) (globAddr s a o L) ((loc L).spots n)))
      becomes i s { seen.1 with nextId := s.nextId + 1 } id b ((a.account s i).startOp (opOf s b (p.flagOf o.fs) [(o.d.toNat, regs)] []
        ((lanesOf (a.active p o.g)).flatMap (fun L => laneWrites L o.d.toNat regs
          (ext (ofBytes (t.readLane id a L .glob (globAddr s a o L) (t.loadIn seen.2 (loc L) n)))))))) p
      ∧ t = { s with waits := t.waits, fails := t.fails, recs := t.recs }

/-- A global store whose writes are direct (R154, R157, R159): every byte of memory is that of the highest lane that covers it, or as before. -/
def globalStore (i : Instr) (o : MOps) (n regs : Nat) : Prop :=
  ∀ s id b a p loc, s.running = some (id, b, a, p) → a.active p o.g ≠ 0 → direct s a (a.active p o.g) →
    lanesReach s id b a (a.active p o.g) needW n (globAddr s a o) loc →
    (∀ L, L < 64 → (a.active p o.g).getLsbD L = true → s.writeSound ((lanesOf (a.active p o.g)).map (fun L => (loc L, n))) (loc L, n) = true) →
    ∃ S, becomes i s S id b ((a.account s i).startOp (opOf s b (p.flagOf o.fs) [] [] [])) p
      ∧ onlyStored s S ∧ S.nextId = s.nextId + 1
      ∧ recorded s S ((lanesOf (a.active p o.g)).map (fun L => (a.party id L, s.accAt (memAcc o true) (loc L), [], ((loc L).spots n).zip (bytesOf (valC a o regs L) n))))
      ∧ (∀ x, S.peek x = (storedByte (a.active p o.g) loc (fun L => bytesOf (valC a o regs L) n) x).getD (s.peek x))
      ∧ (∀ g, g ∈ S.poison ↔ g ∈ s.poison ∧ g ∉ coveredGranules ((lanesOf (a.active p o.g)).map (fun L => (loc L, n))) s.poison)

/-- A write of a wave's tasks none of which is irrevocable goes to their buffers, and memory stays (R157, R305). -/
def bufferedWrite (i : Instr) (o : MOps) (need : Need) (n : Nat) (entry : State → Agent → Nat → Loc → BufEntry) (ok : State → List (Loc × Nat) → Loc → Prop) : Prop :=
  ∀ s id b a p loc, s.running = some (id, b, a, p) → a.active p o.g ≠ 0 → a.isWave = true →
    s.softLanes a (a.active p o.g) = a.active p o.g → s.overflow a (a.active p o.g) (fun L => entry s a L (loc L)) = 0 →
    lanesReach s id b a (a.active p o.g) need n (globAddr s a o) loc →
    (∀ L, L < 64 → (a.active p o.g).getLsbD L = true → ok s ((lanesOf (a.active p o.g)).map (fun L => (loc L, n))) (loc L)) →
    ∃ S, becomes i s S id b ((a.account s i).startOp (opOf s b (p.flagOf o.fs) [] [] [])) p
      ∧ S = { s with waits := S.waits, fails := S.fails, recs := S.recs, nextId := s.nextId + 1 }
      ∧ ∀ k, S.rec? k = (s.rec? k).map (fun r =>
          ((lanesOf (a.active p o.g)).filter (fun L => a.recKey L == some k)).foldl (fun r L => r.push (entry s a L (loc L))) r)

/-- An instruction that some tasks must be irrevocable for (R307): while they cannot be, or have entries of their buffers still to be performed, it stays, and only that has happened; once no active lane's task is left that is not, it acts as it does there. -/
def irrevocableFirst (i : Instr) (s : State) (id : Nat) (b : Bool) (a : Agent) (p : Path) (m must : Mask) (ok : State → Prop) : Prop :=
  s.running = some (id, b, a, p) → m ≠ 0 → ok s →
    (∀ S, s.makeIrrev id (must ||| s.pendingLanes a m) = (S, false) → exec i s = .next S) ∧
    (∀ S, s.makeIrrev id (must ||| s.pendingLanes a m) = (S, true) → S.running = some (id, b, a, p) → ok S → allDirect S a m → exec i s = exec i S)
/-- The task of a lane of a wave. -/
def laneTask (s : State) (id : Nat) (a : Agent) (L k : Nat) (r : TaskRec) : Prop := a.recKey L = some k ∧ s.rec? k = some r ∧ r.agent = id ∧ r.lane = L

/-! Group memory (R151, R161, R162). -/

/-- The access of n bytes at an address touches a byte out of range. -/
def gmOut (s : State) (id : Nat) (a : Agent) (n : Nat) (k : Option Nat) : Bool :=
  (List.range n).any (fun i => s.gmCell id a ((k.getD (2 ^ 32 - 1) + i) % 2 ^ 32) == .out)
/-- GM_OOR of the cluster and VF has counted the accesses out of range, one for each lane; other counters are as before. -/
def gmCounted (s S : State) (id : Nat) (a : Agent) (m : Mask) (n : Nat) (k : Nat → Option Nat) : Prop :=
  ∀ j, mapGetD S.gmOor j 0 = mapGetD s.gmOor j 0 + (if j = 64 * a.cluster + a.vf then ((lanesOf m).filter (fun L => gmOut s id a n (k L))).length else 0)
/-- The lanes' group-memory accesses are aligned, and none waits for a granule to be filled after resumption (R152, R407). -/
def gmReady (s : State) (a : Agent) (m : Mask) (n : Nat) (addr : Nat → Nat × Option Nat) : Prop :=
  ∀ L, L < 64 → m.getLsbD L = true → (addr L).1 % n = 0 ∧ ∀ k, (addr L).2 = some k → s.gmFilled a k n = true
/-- Lanes whose access of n bytes touches a byte with a double-bit error (R410). -/
def gmStruck (s : State) (id : Nat) (a : Agent) (m : Mask) (n : Nat) (addr : Nat → Option Nat) : Mask :=
  maskOf (fun L => m.getLsbD L && (match addr L with | some k => s.gmHit id a k n | none => false))
/-- MEMINT of lanes at a group-memory access, each with its own address (R410). -/
def gmMemint (s : State) (id : Nat) (b : Bool) (p : Path) (hit : Mask) (addr : Nat → Option Nat) : State :=
  s.raiseAt id b p.pos hit (fun L => ⟨cMEMINT, false, L, BitVec.ofNat 64 ((addr L).getD 0)⟩)

def groupLoad (i : Instr) (o : MOps) (addr : State → Agent → Nat → Nat × Option Nat) (ok : Agent → Prop) : Prop :=
  ∀ s id b a p, s.running = some (id, b, a, p) → a.active p o.g ≠ 0 → ok a → gmReady s a (a.active p o.g) (gmSize o) (addr s a) →
    let hit := gmStruck s id a (a.active p o.g) (gmSize o) (fun L => (addr s a L).2)
    if s.specLanes a (a.active p o.g) ≠ 0 then exec i s = .next s
    else if hit ≠ 0 then exec i s = .next (gmMemint s id b p hit (fun L => (addr s a L).2))
    else
      let seen := s.sight ((lanesOf (a.active p o.g)).filterMap (fun L => (addr s a L).2.map (fun k => s.laneRead id a L .gm (gmAcc o false) k (s.gmSpots id a k (gmSize o)))))
      ∃ S, vectorIn i o s S id b a p (gmRegCount o) (fun L => (gmExt o (ofBytes
        (s.readLane id a L .gm ((addr s a L).2.getD (2 ^ 32)) (s.gmGet seen.2 id a (addr s a L).2 (gmSize o)))), 0))
      ∧ S = { seen.1 with gmOor := S.gmOor } ∧ gmCounted s S id a (a.active p o.g) (gmSize o) (fun L => (addr s a L).2)

/-- A write to group memory of a wave's tasks none of which is irrevocable goes to their buffers, a byte out of range too, and is counted; one that starts an operation does so (R151, R157, R305). -/
def bufferedGroupWrite (i : Instr) (o : MOps) (n : Nat) (addr : State → Agent → Nat → Nat × Option Nat) (ok : Agent → Prop) (entry : State → Agent → Nat → BufEntry) (op : Bool) : Prop :=
  ∀ s id b a p, s.running = some (id, b, a, p) → a.active p o.g ≠ 0 → ok a → a.isWave = true →
    s.softLanes a (a.active p o.g) = a.active p o.g → s.overflow a (a.active p o.g) (fun L => entry s a L) = 0 →
    gmReady s a (a.active p o.g) n (addr s a) → (op = true → gmStruck s id a (a.active p o.g) n (fun L => (addr s a L).2) = 0) →
    ∃ S, becomes i s S id b (if op then (a.account s i).startOp (opOf s b (p.flagOf o.fs) [] [] []) else a.account s i) p
      ∧ S = { s with recs := S.recs, gmOor := S.gmOor, nextId := if op then s.nextId + 1 else s.nextId }
      ∧ gmCounted s S id a (a.active p o.g) n (fun L => (addr s a L).2)
      ∧ ∀ k, S.rec? k = (s.rec? k).map (fun r =>
          ((lanesOf (a.active p o.g)).filter (fun L => a.recKey L == some k)).foldl (fun r L => r.push (entry s a L)) r)

/-- The byte that a store of lanes leaves in a cell: that of the highest lane whose bytes cover it. -/
def storedCell (s : State) (id : Nat) (a : Agent) (m : Mask) (n : Nat) (addr : Nat → Option Nat) (bs : Nat → List Byte) (c : GmCell) : Option Byte :=
  (lanesOf m).reverse.findSome? (fun L => match addr L with
    | none => none
    | some k => (List.range n).findSome? (fun i => if s.gmCell id a ((k + i) % 2 ^ 32) = c then (bs L)[i]? else none))
/-- Of the state, only bytes of group memory, the marks of their errors, GM_OOR and the events recorded differ. -/
def onlyGroupMemory (s S : State) : Prop :=
  S = { s with groups := S.groups, launches := S.launches, scratch := S.scratch, gmOor := S.gmOor, gmBad := S.gmBad, events := S.events }
    ∧ (∀ g, (mapGet? S.groups g).map (fun x => { x with gm := [] }) = (mapGet? s.groups g).map (fun x => { x with gm := [] }))
    ∧ (∀ l, (mapGet? S.launches l).map (fun x => { x with tareas := [] }) = (mapGet? s.launches l).map (fun x => { x with tareas := [] }))

def groupStore (i : Instr) (o : MOps) (addr : State → Agent → Nat → Nat × Option Nat) (ok : Agent → Prop) : Prop :=
  ∀ s id b a p, s.running = some (id, b, a, p) → a.active p o.g ≠ 0 → ok a → allDirect s a (a.active p o.g) →
    gmReady s a (a.active p o.g) (gmSize o) (addr s a) →
    ∃ S, becomes i s S id b (a.account s i) p ∧ onlyGroupMemory s S
      ∧ gmCounted s S id a (a.active p o.g) (gmSize o) (fun L => (addr s a L).2)
      ∧ (∀ c, c ≠ .out → S.gmPeek c = (storedCell s id a (a.active p o.g) (gmSize o) (fun L => (addr s a L).2)
          (fun L => bytesOf (valC a o (gmRegCount o) L) (gmSize o)) c).getD (s.gmPeek c))
      ∧ recorded s S ((lanesOf (a.active p o.g)).filterMap (fun L =>
          let ws := match (addr s a L).2 with | some k => s.gmTargets id a k (bytesOf (valC a o (gmRegCount o) L) (gmSize o)) | none => []
          if ws.isEmpty then none else some (a.party id L, gmAcc o true, [], ws)))

/-! Atomics (R163 to R165). -/

/-- The lanes of an atomic have acted in lane order, each by one RMW: the state after those of a list. -/
def atomsDone (s : State) (id : Nat) (a : Agent) (o : MOps) (loc : Nat → Loc) (f : Nat → Nat → Res) (ls : List Nat) : State :=
  ls.foldl (fun s L => s.putRmw (Ev.of (a.party id L) (s.accAt (atomAcc o) (loc L))) (loc L) (bytesOf (f L (ofBytes (s.load (loc L) (atomBytes o)))).1 (atomBytes o))) s
def gmAtomsDone (s : State) (id : Nat) (a : Agent) (o : MOps) (f : Nat → Nat → Res) (ls : List Nat) : State :=
  ls.foldl (fun s L => s.gmPutRmw (Ev.of (a.party id L) (atomAcc o)) id a (gmAddr s a o L) (bytesOf (f L (ofBytes (s.gmRead id a (gmAddr s a o L) (atomBytes o)))).1 (atomBytes o))) s
/-- The active lanes below a lane. -/
def lanesBelow (m : Mask) (L : Nat) : List Nat := (lanesOf m).filter (fun k => decide (k < L))
/-- The operation of an atomic: unless NR, it will write the lanes' old values; FPC takes the lanes' flags at completion (R43, R163). -/
def atomOpOf (s : State) (b : Bool) (p : Path) (o : MOps) (m : Mask) (old : Nat → Nat) (f : Nat → Nat → Res) : Outstanding :=
  { opOf s b (p.flagOf o.fs) (if atomNr o then [] else [(o.d.toNat, atomRegs o)]) []
      (if atomNr o then [] else (lanesOf m).flatMap (fun L => laneWrites L o.d.toNat (atomRegs o) (old L))) with
    fflags := flagsOver m (fun L => (f L (old L)).2) }

/-- An atomic whose effect is direct, given its new value and flags by agent, lane and old value: on global memory and on group memory. -/
def atomicDoes (i : Instr) (o : MOps) (f : Agent → Nat → Nat → Res) : Prop :=
  ∀ s id b a p, s.running = some (id, b, a, p) → a.active p o.g ≠ 0 → direct s a (a.active p o.g) →
    let m := a.active p o.g
    (atomGm o = false → ∀ loc, lanesReach s id b a m needRW (atomBytes o) (globAddr s a o) loc →
      (∀ L, L < 64 → m.getLsbD L = true → s.sound (loc L) (atomBytes o) = true) →
      let at' (ls : List Nat) : State := atomsDone (s.forget (.slot id b)) id a o loc (f a) ls
      becomes i s { at' (lanesOf m) with nextId := s.nextId + 1 } id b
        ((a.account s i).startOp (atomOpOf s b p o m (fun L => ofBytes ((at' (lanesBelow m L)).load (loc L) (atomBytes o))) (f a))) p) ∧
    (atomGm o = true → gmReady s a m (atomBytes o) (fun L => (gmAddr s a o L, some (gmAddr s a o L))) →
      let at' (ls : List Nat) : State := gmAtomsDone s id a o (f a) ls
      let hit := gmStruck s id a m (atomBytes o) (fun L => some (gmAddr s a o L))
      if hit ≠ 0 then exec i s = .next (gmMemint s id b p hit (fun L => some (gmAddr s a o L))) else
      ∃ S, becomes i s S id b
          ((a.account s i).startOp (atomOpOf s b p o m (fun L => ofBytes ((at' (lanesBelow m L)).gmRead id a (gmAddr s a o L) (atomBytes o))) (f a))) p
        ∧ S = { at' (lanesOf m) with gmOor := S.gmOor, nextId := s.nextId + 1 }
        ∧ gmCounted s S id a m (atomBytes o) (fun L => some (gmAddr s a o L)))

/-- C of a lane, and its second register or pair, of an atomic; both as signed numbers. -/
def opndC (o : MOps) (a : Agent) (L : Nat) : Nat := valC a o (atomRegs o) L
def opndNext (o : MOps) (a : Agent) (L : Nat) : Nat := valC a { o with c := o.c + BitVec.ofNat 8 (atomRegs o) } (atomRegs o) L
def signedAtom (o : MOps) (x : Nat) : Int := sextNat x (8 * atomBytes o)

/-! What the accesses of an instruction meet, in the order of R156. -/

/-- The accesses of n bytes of an instruction's active lanes: ALIGN, then XLAT, then translations asked for, then pages not present, then MEMINT; each before any lane performs. -/
def accessOutcomes (i : Instr) (o : MOps) (need : Need) (n : Nat) (va : State → Agent → Nat → Nat) (pre : State → Agent → Mask → Prop)
    (sound : State → List (Loc × Nat) → Loc → Bool) : Prop :=
  ∀ s id b a p, s.running = some (id, b, a, p) → a.active p o.g ≠ 0 → pre s a (a.active p o.g) →
    let m := a.active p o.g
    let lanes := lanesOf m
    let at' := va s a
    let met (L : Nat) : Xl := meets s id b a need (at' L)
    let bad := maskOf (fun L => m.getLsbD L && decide (at' L % n ≠ 0))
    let lost := maskOf (fun L => m.getLsbD L && decide (met L = .failed))
    let missing := lanes.filter (fun L => decide (met L = .miss))
    let absent := lanes.filterMap (fun L => match met L with | .absent k => some ((⟨L, at' L, n⟩ : Acc), k) | _ => none)
    (bad ≠ 0 → exec i s = .next (s.raiseAt id b p.pos bad (fun L => ⟨cALIGN, false, L, BitVec.ofNat 64 (at' L)⟩))) ∧
    (bad = 0 → lost ≠ 0 → exec i s = .next ((s.forget (.slot id b)).raiseAt id b p.pos lost (fun L => ⟨cXLAT, false, L, BitVec.ofNat 64 (at' L)⟩))) ∧
    (bad = 0 → lost = 0 → missing ≠ [] →
      exec i s = .next (missing.foldl (fun s L => s.ask (.slot id b) a.caches a.vf (s.pasidOf a.vf a.ctx) (pageOf (at' L)) false) s)) ∧
    (bad = 0 → lost = 0 → missing = [] → absent ≠ [] → exec i s = .next (s.park id b (s.pasidOf a.vf a.ctx) absent)) ∧
    (bad = 0 → ∀ loc : Nat → Loc, (∀ L ∈ lanes, ∃ w, met L = .ok (loc L) w) →
      ((∃ L ∈ lanes, s.heldLoc (loc L) = true) → exec i s = .next s) ∧
      ((∀ L ∈ lanes, s.heldLoc (loc L) = false) → (∃ L ∈ lanes, sound s (lanes.map (fun L => (loc L, n))) (loc L) = false) →
        exec i s = .next ((s.forget (.slot id b)).memint id b p
          ((lanes.filter (fun L => !(sound s (lanes.map (fun L => (loc L, n))) (loc L)))).map (fun L => ((⟨L, at' L, n⟩ : Acc), loc L))))))

/-- ALIGN of a group-memory access, with its logical address (R152, R162). -/
def groupAlign (i : Instr) (o : MOps) (n : Nat) (va : State → Agent → Nat → Nat) (pre : State → Agent → Mask → Prop) : Prop :=
  ∀ s id b a p, s.running = some (id, b, a, p) → a.active p o.g ≠ 0 → pre s a (a.active p o.g) →
    let bad := maskOf (fun L => (a.active p o.g).getLsbD L && decide (va s a L % n ≠ 0))
    bad ≠ 0 → exec i s = .next (s.raiseAt id b p.pos bad (fun L => ⟨cALIGN, false, L, BitVec.ofNat 64 (va s a L)⟩))

/-! Rings (R171 to R174). -/

def slotsInUse (r : Ring) : Nat := (r.rsv + 2 ^ 32 - r.dne) % 2 ^ 32
def slotsFilled (r : Ring) : Nat := (r.pst + 2 ^ 32 - r.tkn) % 2 ^ 32
/-- The agent may operate on the ring: none of its tasks has to become irrevocable first, and the ring is open and its owner's. -/
def ringOpen (s : State) (a : Agent) (p : Path) (o : MOps) (r : Ring) : Prop :=
  allDirect s a p.mask ∧ s.ring? a.cluster (o.c.toNat % 64) = some r ∧ r.owner = a.ringOwner
/-- Sequence number j places after a counter. -/
def seqFrom (start j : Nat) : Nat := if j = 0 then start else (start + j) % 2 ^ 32
/-- q is the first sequence number from a counter, among n, whose slot lies at the address and which is not marked. -/
def firstSlot (r : Ring) (start n : Nat) (marks : List Nat) (addr q : Nat) : Prop :=
  ∃ k, k < n ∧ q = (start + k) % 2 ^ 32 ∧ r.slotAddr q = addr ∧ q ∉ marks ∧
    ∀ j, j < k → ¬(r.slotAddr ((start + j) % 2 ^ 32) = addr ∧ (start + j) % 2 ^ 32 ∉ marks)
/-- c is how far a counter advances over marks: all of those places are marked, and the next is not (R172). -/
def prefixOf (start : Nat) (marks : List Nat) (c : Nat) : Prop :=
  c ≤ 256 ∧ (∀ j, j < c → seqFrom start j ∈ marks) ∧ seqFrom start c ∉ marks
def marksLeft (start : Nat) (marks : List Nat) (c : Nat) : List Nat := marks.filter (fun x => !((List.range c).any (fun j => x == seqFrom start j)))

/-! Barriers (R167 to R169). -/

/-- Lanes of a warp arrive at a barrier of a group: the generation completes when every lane that has not exited has arrived, and otherwise stays open with the arrivals; nothing else of the group differs (R168). -/
def arrival (g : Group) (k w : Nat) (new : Mask) (G : Group) : Prop :=
  let x := g.bar k
  let lanes := mapPut 0 x.arrived w (mapGetD x.arrived w 0 ||| new)
  G = { g with barriers := G.barriers } ∧ (∀ j, j ≠ k → G.bar j = g.bar j)
    ∧ (if countLanes lanes ≥ 1 ∧ countLanes lanes = g.expected then G.bar k = ⟨x.gen + 1, []⟩ else G.bar k = ⟨x.gen, lanes⟩)
/-- The agent with its slot waiting. -/
def waiting (a : Agent) (b : Bool) (w : Wait) : Agent := a.setSlot b { a.slot b with wait := w }

/-! Engine and matrix commands (R176 to R186, R219 to R241). -/

/-- The command that an engine instruction puts at the tail of its engine's queue, of an operation with some lanes. -/
def engineCommand (s : State) (id : Nat) (b : Bool) (o : MOps) (a : Agent) (p : Path) (lanes : Mask) (op : EngOp) : EngCmd :=
  { id := s.nextId, agent := id, opId := s.nextId, slotB := b, flag := p.flagOf o.fs, vf := a.vf, ctx := a.ctx
    prio := ((s.launchOf a).map (fun l => l.prio)).getD 0, quad := s.muQuad a
    acq := o.mod.getLsbD 5, rel := o.mod.getLsbD 4, scope := o.mod.toNat / 64, op := op, lanes := lanes, stamp := s.nextEv, paid := 1
    i := 0, j := 0, n := 0, last := none, keyA := none, keyB := none, slot := none, done := 0, bad := 0, finished := false, fail := none, handed := false, told := false, begun := false
    seq := s.nextId, out := false }
/-- An operation that is not ready until its command signals, and may record a trap. -/
def commandOp (s : State) (b : Bool) (flag : Option Nat) (vdst : List (Nat × Nat)) : Outstanding := ⟨s.nextId, b, flag, vdst, [], [], 0, false, true⟩
/-- The instruction queues a command: its operation counts against the flag, and the command stands at the tail of the engine's queue (R176). -/
def queues (i : Instr) (o : MOps) (s : State) (id : Nat) (b : Bool) (a : Agent) (p : Path) (se : Bool) (lanes : Mask) (vdst : List (Nat × Nat)) (op : EngOp) : Prop :=
  becomes i s ({ s with nextId := s.nextId + 1 }.setEngQ a.cluster se (s.engQ a.cluster se ++ [engineCommand s id b o a p lanes op])) id b
    ((a.account s i).startOp (commandOp s b (p.flagOf o.fs) vdst)) p
/-- The matrix command of an instruction, with what it captures (R176, R219). -/
def matrixCommand (s : State) (id : Nat) (b : Bool) (o : MOps) (a : Agent) (p : Path) (acq rel : Bool) (scope : Nat) (op : MuOp) : MuCmd :=
  { id := s.nextId, agent := id, opId := s.nextId, slotB := b, flag := p.flagOf o.fs, acq := acq, rel := rel, scope := scope
    fz := a.fz, sbase := a.sbase, sshift := a.sshift, sfmt := a.sfmt, op := op, slot := none, started := false, fail := none, parentCmd := none, seq := s.nextId
    lanes := p.mask, stamp := s.nextEv, out := false }
/-- A matrix instruction queues its command at its quadrant's unit, a fragment's by way of the Saddle network (R53, R219). -/
def queuesMu (i : Instr) (o : MOps) (s : State) (id : Nat) (b : Bool) (a : Agent) (p : Path) (acq rel : Bool) (scope : Nat) (op : MuOp) : Prop :=
  let c := matrixCommand s id b o a p acq rel scope op
  let t : State := { s with nextId := s.nextId + 1 }
  let k := muKey a.cluster (s.muQuad a) a.vf a.ctx
  becomes i s (if a.isFrag then t.sendUp a (.matrix (s.muQuad a) a.vf a.ctx c false) else t.setMu k { s.mu k with queue := (s.mu k).queue ++ [c] }) id b
    ((a.account s i).startOp (commandOp s b (p.flagOf o.fs) [])) p
/-- The row of R227's or R238's table that a matrix block's modifiers name. -/
def mmaRow (x64 : Bool) (md : Nat) : Option MuFmt := if x64 then x64Fmt (md / 8) (decide (field md 1 2 = 1)) else mmaFmt (md / 8)
/-- A scale format that is enabled is one of the two that scale, with the shift of 32 elements (R59, R227). -/
def scaleLegal (c : MuCtx) (en lo sh : Nat) : Prop :=
  c.sfmt.getLsbD en = true → (field c.sfmt.toNat lo 5 = 0x16 ∨ field c.sfmt.toNat lo 5 = 0x17) ∧ field c.sshift.toNat sh 5 = 5
/-- The fields of an MMA or MMA.X64 block that R226, R227 and R238 accept, for a row of the formats. -/
def mmaLegal (c : MuCtx) (x64 : Bool) (md w0 w1 w2 : Nat) (t : MuFmt) : Prop :=
  let mode := field md 1 2
  let K := field w2 0 13
  field w0 24 2 = 0 ∧ w1.testBit 7 = false ∧ field w2 13 3 = 0 ∧ (w0.testBit 26 = true → field w0 0 20 < 64 ∧ field w1 16 16 % 16 = 0) ∧
  mode ≠ 3 ∧ (x64 = true → mode ≠ 2 ∧ md % 2 = 0) ∧ (x64 = false → md % 2 = 1 → t.acc = I32) ∧
  (x64 = false → mode = 1 → t.seven = true ∧ (c.cls = false → w1.testBit 15 = false ∧ K % (2 * t.kc) = 0)) ∧
  1 ≤ field w1 0 7 ∧ field w1 0 7 ≤ 64 ∧ 1 ≤ field w1 8 7 ∧ field w1 8 7 ≤ 64 ∧ 1 ≤ K ∧ K ≤ t.kmax ∧
  (w1.testBit 15 = true → t.sparse = true ∧ K % 4 = 0) ∧ (t.acc = FP64 → field w0 28 4 % 2 = 0) ∧ (t.scales = true → scaleLegal c 16 0 0)
/-- The command of such a block; seven products where the mode or, by default, the format and the class give them (R227). -/
def mmaOf (c : MuCtx) (x64 : Bool) (md w0 w1 w2 w3 : Nat) (t : MuFmt) : MuOp :=
  let mode := field md 1 2
  .mma x64 (x64 && decide (mode = 1))
    (decide (x64 = false ∧ c.cls = false ∧ (mode = 1 ∨ (mode = 0 ∧ t.seven = true ∧ w1.testBit 15 = false ∧ field w2 0 13 % (2 * t.kc) = 0))))
    (decide (md % 2 = 1)) (md / 8) (field w0 28 4) (w0.testBit 27) (w0.testBit 26) (field w0 20 4) (field w0 0 20) (field w1 16 16)
    (w1.testBit 15) (field w1 8 7) (field w1 0 7) (field w2 0 13) (field w3 20 12) (field w3 0 20)
/-- The bytes that a block's rows take in a ring's slot (R226). -/
def mmaNeed (x64 : Bool) (md w1 w2 : Nat) : Nat :=
  (field w1 0 7 - 1) * field w1 16 16 + rowBytes (md / 8) (x64 && decide (field md 1 2 = 1)) (field w2 0 13)
/-- The fields of a WB.LD block that R232 accepts, for a row of the formats. -/
def wbLdLegal (c : MuCtx) (gm sp : Bool) (w : Nat → Nat) (t : MuFmt) : Prop :=
  let f := field (w 3) 27 5
  let pr := (w 3).testBit 26
  let K := field (w 3) 0 13
  field (w 3) 20 6 = 0 ∧ field (w 3) 13 3 = 0 ∧ (sp = false → w 4 + 2 ^ 32 * w 5 = 0 ∧ w 7 = 0) ∧ (pr = true → f = FP32) ∧
  1 ≤ K ∧ K ≤ (if pr then 8 else t.kmax) ∧ (sp = true → fmtWidth f ≤ 16 ∧ pr = false ∧ K % 4 = 0) ∧
  field (w 3) 16 4 + ceilDiv (64 * rowBytes f pr (if sp then K / 2 else K)) 8192 ≤ 16 ∧
  (gm = true → w 0 + 2 ^ 32 * w 1 < 2 ^ 20 ∧ w 4 + 2 ^ 32 * w 5 < 2 ^ 20) ∧ (t.scales = true → scaleLegal c 17 8 8)
/-- Word k of a command block in scalar registers from A up (R84). -/
def block (a : Agent) (r : BitVec 8) (k : Nat) : Nat := (a.s (r.toNat + k)).toNat

/-! Control flow (R72, R188 to R202). -/

/-- A transfer's target is a multiple of 4 within the code's 2^27 bytes (R72, R189). -/
def goodTarget (s : State) (a : Agent) (t : DWord) : Prop := t.toNat % 4 = 0 ∧ (t - s.codeBase a).toNat < 2 ^ 27
/-- The instruction answers S with its agent now c, whose paths then settle: arrived paths end, completed records resume, PATH entries take free slots (R190 to R192). -/
def settles (i : Instr) (s S : State) (id : Nat) (c : Agent) : Prop := exec i s = .next (S.settle id c)
/-- The path of a slot stands as given after the instruction, unless it arrives there at its join record. -/
def stands (i : Instr) (s S : State) (id : Nat) (c : Agent) (b : Bool) (q : Path) : Prop :=
  ∃ a', exec i s = .next (S.setAgent id a') ∧ c.onlyMoved a' ∧ (q.mask ≠ 0 → c.arrives q = false → (a'.slot b).path = some q)
/-- The agent counted as having issued (R215, R265). -/
def issuedAgent (s : State) (a : Agent) : Agent := { a with insn := a.insn + 1, wdc := 0, bankWait := a.bankWait + Config.bankGap s.fresh }

/-- The stack of a divergent branch with reconvergence position r, of whose sides k arrive at once: its record, the path's own one where that names r, else a new JOIN entry, and the PEND that is left (R194). -/
def branchRecord (a : Agent) (p : Path) (r : DWord) (k j : Nat) (st : List Entry) : Prop :=
  (∃ i e, p.jix = .own i ∧ a.stack[i]? = some e ∧ (e.kind = .join ∨ e.kind = .call) ∧ e.pos.hdr = r ∧ j = i
    ∧ st = a.stack.set i { e with pend := e.pend + 1 - k }) ∨
  ((∀ i e, p.jix = .own i → a.stack[i]? = some e → (e.kind = .join ∨ e.kind = .call) → e.pos.hdr ≠ r) ∧ j = a.stack.length
    ∧ st = a.stack ++ [⟨.join, ⟨r, 0⟩, p.mask, 2 - k, p.jix, false, .none⟩])

/-! Traps (R18, R58, R210 to R213). -/

/-- TCAUSE: the cause, the lane, whether a fragment trapped, and whether an engine's trap was taken (R58). -/
def tcause (cause lane : Nat) (frag eng : Bool) : Word :=
  BitVec.ofNat 32 (cause + 65536 * lane + (if frag then 4194304 else 0) + (if eng then 8388608 else 0))
/-- The trap registers are written, and the staging set is written back: a row takes the errors that its dirty copy carries, and nothing is staged (R58, R66, R210, R409). -/
def trapWritten (c : Agent) (pos : Pos) (tc : Word) (addr : DWord) : Agent :=
  { c with tpc := pos.hdr &&& ~~~(3 : DWord), tix := BitVec.ofNat 32 pos.ix, tcause := tc, taddr := addr
           staging := false, bad := c.rowsBack (fun _ => true), stgDirty := [], badStg := [], stgPar := [] }
/-- The trap is taken in a slot of an agent: the trap registers are written, the other slot and the stack's entries stop, and the path continues at the handler with its mask and join record, its slot behind the others (R58, R210, R247). -/
def entersHandler (c : Agent) (b : Bool) (pos : Pos) (t : TrapInfo) (h : DWord) (tail : Nat) (a' : Agent) : Prop :=
  a' = { trapWritten c pos (tcause t.cause t.lane c.isFrag t.eng) t.addr with
                handler := some ⟨b⟩, stack := c.stack.map (fun e => { e with held := true }), slotA := a'.slotA, slotB := a'.slotB }
    ∧ a'.slot (!b) = { c.slot (!b) with stopped := true }
    ∧ a'.slot b = { c.slot b with wait := .none, rank := tail, turn := false, path := (c.slot b).path.map (fun p => { p with pos := ⟨h, 0⟩, phase := .header }) }
/-- An agent of a warp or a fragment ended by a trap: no path is left (R210, R211). -/
def ended (c a' : Agent) : Prop :=
  a' = { c with slotA := a'.slotA, slotB := a'.slotB, stack := [], handler := none, faulted := true } ∧ a'.slotA.path = none ∧ a'.slotB.path = none

/-- A launch one of whose groups has ended with a fault: it is counted once for a group, and the first recorded fault stays (R344). -/
def launchFaulted (l : Launch) (again : Bool) (cause : Nat) (ident : Word) (addr : DWord) : Launch :=
  { l with fault := true, nfault := if again then l.nfault else min (l.nfault + 1) (2 ^ 32 - 1), first := some (l.first.getD (cause, ident, addr)) }
/-- The state after a grid warp has ended with a fault status (R210, R344). -/
def warpEnded (s : State) (id : Nat) (a' : Agent) (g : Nat) (gr : Group) (k : Nat) (l : Launch) : State :=
  { s with agents := mapSet s.agents id a', groups := mapSet s.groups g { gr with faulted := true }, launches := mapSet s.launches k l }

/-! Tasks (R203 to R208, R293 to R307). -/

/-- The entries that lanes of a wave add to their tasks' buffers: the records after them (R305). -/
def buffered (s S : State) (a : Agent) (m : Mask) (e : Nat → BufEntry) : Prop :=
  S = { s with recs := S.recs, nextId := S.nextId } ∧ ∀ k, S.rec? k = (s.rec? k).map (fun r => ((lanesOf m).filter (fun L => a.recKey L == some k)).foldl (fun r L => r.push (e L)) r)
/-- The eight words of a lane's argument record (R204). -/
def arguments (a : Agent) (o : MOps) (L : Nat) : List Word := (List.range 8).map (fun k => a.v (o.c.toNat + k) L)
/-- The launch's task-entry table has the entry (R204). -/
def entryIn (s : State) (a : Agent) (e : Nat) : Prop := ∃ l, mapGet? s.launches a.launch = some l ∧ l.hasTet = true ∧ e < l.tet.length
/-- Records of the agent's cluster are taken for the lanes of a set, one each, free before; other records are as they were. -/
def recordsTaken (s S : State) (a : Agent) (m : Mask) (f : Nat → Nat) (r : Nat → TaskRec) : Prop :=
  (∀ L ∈ lanesOf m, f L < 4096 ∧ s.recFree (4096 * a.cluster + f L) = true ∧ S.rec? (4096 * a.cluster + f L) = some (r L))
    ∧ (∀ L ∈ lanesOf m, ∀ M ∈ lanesOf m, f L = f M → L = M)
    ∧ (∀ k, (∀ L ∈ lanesOf m, k ≠ 4096 * a.cluster + f L) → S.rec? k = s.rec? k)
/-- Distinct active lanes run distinct tasks, each with its record. -/
def ownRecords (s : State) (a : Agent) (m : Mask) : Prop :=
  (∀ L ∈ lanesOf m, ∃ k r, a.recKey L = some k ∧ s.rec? k = some r) ∧ ∀ L ∈ lanesOf m, ∀ M ∈ lanesOf m, a.recKey L = a.recKey M → L = M
/-- The lanes of a wave spawned or counted so far: the state after those of a list. -/
def spawnsDone (s : State) (id : Nat) (a : Agent) (o : MOps) (spec : Bool) (e : Nat) (loc : Nat → Loc) (ls : List Nat) : State :=
  ls.foldl (fun s L => (s.spawnLane id a o spec e L (loc L) (valA s a o (.bits 2) L)).1) s
def depsDone (s : State) (id : Nat) (a : Agent) (o : MOps) (isAdd : Bool) (loc : Nat → Loc) (ls : List Nat) : State :=
  ls.foldl (fun s L => if isAdd then (s.depAdd (a.party id L) (loc L) (valC a o 1 L)).1 else (s.depDec (a.party id L) (loc L) (globAddr s a o L) a.launch (a.cluster / 16)).1) s
def depOf (s : State) (id : Nat) (a : Agent) (o : MOps) (isAdd : Bool) (loc : Nat → Loc) (L : Nat) : State × Nat × Bool :=
  if isAdd then s.depAdd (a.party id L) (loc L) (valC a o 1 L) else s.depDec (a.party id L) (loc L) (globAddr s a o L) a.launch (a.cluster / 16)

end Sys2Proof.Claims
end

