-- ==== Sys2Proof/Certificates/Slice0/DeviceTerms.lean ====
section
/-! DEFINITION. The terms of the statements about device events: operations that complete, messages taken, purses charged, granules brought. -/

namespace Sys2Proof.Claims
open Sys2Proof.Machine

/-! Agents (R43, R52, R158). -/

/-- The last value that an operation writes to a register of a lane, or to a scalar register; what it held before where there is none. -/
def written (x : Outstanding) (lane : Option Nat) (r : Nat) (old : Word) : Word :=
  ((x.writes.filter (fun w => decide (w.lane = lane ∧ w.reg = r))).getLast?.map (fun w => w.val)).getD old
/-- An operation of an agent has completed: its destinations hold what it writes, its flags have reached FPC, its flag is signalled, and it is outstanding no more (R43, R52). -/
def delivered (a : Agent) (x : Outstanding) (a' : Agent) : Prop :=
  a' = { a with vregs := a'.vregs, sregs := a'.sregs, fpc := a.fpc ||| x.fflags.zeroExtend 32, flags := a'.flags, bad := a'.bad, badStg := a'.badStg, stgPar := a'.stgPar, ops := a.ops.filter (fun y => y.id != x.id) }
    ∧ (∀ f, a'.flag f = if x.flag = some f then a.flag f - 1 else a.flag f)
    ∧ (∀ r, a'.s r = written x none r (a.s r))
    ∧ ∀ r L, L < 64 → a'.v r L = if r < a.nregs then written x (some L) r (a.v r L) else 0
/-- An operation writes lanes of a warp alone. -/
def lanesWritten (x : Outstanding) : Prop := ∀ w ∈ x.writes, ∀ L, w.lane = some L → L < 64

/-! Messages of a Saddle network (R250). -/

/-- The first message of a kind on the Saddle networks may be delivered, behind no other of its own ports, and T is the state once it has been taken. -/
def delivers (s : State) (kind : SaddleMsg → Prop) (m : SaddleMsg) (T : State) : Prop :=
  kind m ∧ ∃ c l₁ y l₂, mapGet? s.saddle c = some (l₁ ++ y :: l₂) ∧ y.msg = m ∧ y.free l₁ = true ∧ (∀ z ∈ l₁, ¬ kind z.msg)
    ∧ (∀ x ∈ s.saddle, x.1 ≠ c → ∀ z ∈ x.2, ¬ kind z.msg) ∧ T = { s with saddle := mapPut [] s.saddle c (l₁ ++ l₂) }
/-- No message of the kind is on its way. -/
def noneSent (s : State) (kind : SaddleMsg → Prop) : Prop := ∀ x ∈ s.saddle, ∀ z ∈ x.2, ¬ kind z.msg
/-- What a path of an agent waits for, in a slot or pushed. -/
def aWait (a : Agent) (w : Wait) : Prop := w = a.slotA.wait ∨ w = a.slotB.wait ∨ ∃ e ∈ a.stack, w = e.wait
/-- A path waits at BAR for a generation that has completed, with this mask. -/
def barPath (a : Agent) (b gen : Nat) (m : Mask) : Prop :=
  ∃ n, n ≤ gen ∧ ((∃ k p, (a.slot k).wait = .bar b n ∧ (a.slot k).path = some p ∧ p.mask = m) ∨ ∃ e ∈ a.stack, e.wait = .bar b n ∧ e.mask = m)
/-- Granules come to a fragment from its parent: those that are absent are clean then, with the parent's registers in the fragment's lanes, and no fill brings back what a halt has spilt of them (R251, R252, R256, R407). -/
def brought (x a : Agent) (gs : List Nat) (x' : Agent) : Prop :=
  let came (g : Nat) : Bool := decide (g ∈ gs ∧ x.granule g = .absent)
  x' = { x with vregs := x'.vregs, bad := x'.bad, badStg := x'.badStg, stgPar := x'.stgPar, granules := x'.granules
                unfilled := x.unfilled.filter (fun g => !came g), saved := x.saved.filter (fun g => !came g) }
    ∧ (∀ g, x'.granule g = if g ∈ gs ∧ x.granule g = .absent then .clean else x.granule g)
    ∧ ∀ r L, L < 64 → x'.v r L = if x.live.getLsbD L = true ∧ r / 8 ∈ gs ∧ x.granule (r / 8) = .absent ∧ r < x.nregs then a.v r L else x.v r L
/-- Lanes of a warp have left a group: they are out of E and of open generations, and one completes exactly when the arrivals left are at least 1 and equal E (R168). -/
def exited (g : Group) (w : Nat) (m : Mask) (G : Group) : Prop :=
  G = { g with live := G.live, barriers := G.barriers }
    ∧ (∀ v, mapGetD G.live v 0 = if v = w then mapGetD g.live v 0 &&& ~~~m else mapGetD g.live v 0)
    ∧ ∀ k, k < 16 →
        let left := mapPut 0 (g.bar k).arrived w (mapGetD (g.bar k).arrived w 0 &&& ~~~m)
        G.bar k = if 1 ≤ countLanes left ∧ countLanes left = countLanes G.live then ⟨(g.bar k).gen + 1, []⟩ else ⟨(g.bar k).gen, left⟩

/-! Purses (R319, R325). -/

/-- A quadrant's purse has paid a price for a VF, and nothing else differs. -/
def charged (s S : State) (cluster quad vf price : Nat) : Prop :=
  S = { s with purses := S.purses, chiplets := S.chiplets }
    ∧ (∀ k, mapGetD S.purses k Purse.empty = if k = 8 * cluster + quad then { s.purse cluster quad with tokens := (s.purse cluster quad).tokens - price } else mapGetD s.purses k Purse.empty)
    ∧ ∀ k, S.chiplet k = if k = cluster / 16 then { s.chiplet k with spend := mapAdd (s.chiplet k).spend vf price, lapSpend := mapAdd (s.chiplet k).lapSpend vf price } else s.chiplet k

/-! Matrix units (R218 to R222). -/

/-- The head of the queue that a matrix unit serves, with the rest of it. -/
def muHead (s : State) (cluster quad k : Nat) (c : MuCmd) (rest : List MuCmd) : Prop := s.muPick cluster quad = some k ∧ (s.mu k).queue = c :: rest
/-- The command takes no slot of a ring. -/
def noRing (op : MuOp) : Prop := match op with | .mma _ _ _ _ _ _ _ asrc _ _ _ _ _ _ _ _ _ => asrc = false | _ => True
/-- The head command can start: what it uses has been filled, and no halted context keeps it. -/
def muReady (s : State) (cluster quad k : Nat) (c : MuCmd) : Prop :=
  c.started = false ∧ (∀ u ∈ c.units (s.mu k), u ∉ (s.mu k).unfilled) ∧ s.groupFilled c.agent = true ∧ s.unitsClear cluster quad k (c.units (s.mu k)) = true
    ∧ c.reads = [] ∧ s.pageHeld (.mu k c.id) = false
/-- The sum of a list of integers. -/
def total (l : List Int) : Int := l.foldl (· + ·) 0

/-! Launches (R337 to R348). -/

/-- A launch as a record and its snapshots make it (R339 to R342): of a queue's next record, whose kernel is k, refused or not. -/
def acceptedLaunch (r : QRef) (q : Queue) (rcd : Nat) (k : Kernel) (refused : Bool) : Launch :=
  { vf := r.vf, ctx := r.ctx, q := r.q, n := q.accepted, arg := BitVec.ofNat 64 (field rcd 64 64), ngroups := field rcd 128 32, ser := rcd.testBit 160
    prio := q.prio, kern := k, drn := 1, tsh := 0, tet := [], hasTet := false, placed := 0, retired := 0, cursor := 0, passed := [], refused := refused, fault := false
    taskFail := false, taskErr := false, lost := false, first := none, nfault := 0, done := false, tareas := [], tgran := [], tspilt := [], tunfilled := [] }
/-- The queue of a context with other values. -/
def withQueue (s : State) (r : QRef) (c : Ctx) (q : Queue) : State :=
  s.setVf r.vf { s.vf r.vf with ctxs := mapSet (s.vf r.vf).ctxs r.ctx { c with queues := mapSet c.queues r.q q } }

/-! Management mailboxes (R368, R369). -/

/-- The argument words that a request uses (R337, R369 to R373, R387 to R392). -/
def wordsOf (code : Nat) : Nat :=
  if code ∈ [0x03, 0x04, 0x05, 0x43, 0x44, 0x47, 0x49, 0x4A, 0x4D, 0x4E] then 2 else if code ∈ [0x45, 0x46, 0x48] then 3 else if code = 0x4C then 4 else 1
/-- A request waits in a function's mailbox, with its argument words as they were at GO. -/
def asked (s : State) (f : Fn) (code : Nat) (d : Nat → Nat) : Prop :=
  s.present f = true ∧ (s.box f).busy = true ∧ (s.box f).pend = none ∧ (s.box f).reqCode = code ∧ ∀ k, (s.box f).arg k = d k
/-- The same, and every word that the request does not use is zero. -/
def requested (s : State) (f : Fn) (code : Nat) (d : Nat → Nat) : Prop := asked s f code d ∧ ∀ x ∈ (s.box f).args, wordsOf code ≤ x.1 → x.2 = 0
/-- The request is finished with a result over the state T: GO and BUSY are clear, and MSI-X vector 0 is raised (R368). -/
def repliesWith (i : Instr) (s T : State) (f : Fn) (result : Nat) (data : NMap DWord) : Prop :=
  ∃ S, exec i s = .next S ∧ S = { T with pfBox := S.pfBox, vfBoxes := S.vfBoxes, sent := T.sent ++ [.msix f 0] }
    ∧ S.box f = { T.box f with cmd := (T.box f).cmd &&& 0x7FFFFFFF, busy := false, result := result, data := data, pend := none } ∧ ∀ g, g ≠ f → S.box g = T.box g
def replies (i : Instr) (s T : State) (f : Fn) (result : Nat) : Prop := repliesWith i s T f result (T.box f).data
/-- DONE, with a value in D0. -/
def repliesValue (i : Instr) (s T : State) (f : Fn) (x : Nat) : Prop := repliesWith i s T f 0 (mapPut 0 (T.box f).data 0 (BitVec.ofNat 64 x))
/-- The request is taken and not yet finished: BUSY stays 1. -/
def held (i : Instr) (s T : State) (f : Fn) (p : Pending) : Prop :=
  ∃ S, exec i s = .next S ∧ S = { T with pfBox := S.pfBox, vfBoxes := S.vfBoxes }
    ∧ S.box f = { T.box f with cmd := (T.box f).cmd &&& 0x7FFFFFFF, pend := some p } ∧ ∀ g, g ≠ f → S.box g = T.box g
/-- Numbers of a list added up. -/
def sumOf (l : List Nat) : Nat := l.foldl (fun x y => x + y) 0
/-- Memory, counters and owners of extents are in canonical form. -/
def tidy (s : State) : Prop := Memory.wf s.mem = true ∧ mapWf s.counters = true ∧ mapWf s.extents = true
/-- Extents read zeros and have no write-back or poison (R384, R387); other bytes stay. -/
def emptied (s T : State) (es : List Nat) : Prop :=
  (∀ x, memGet T.mem x = if extentOf x ∈ es then 0 else memGet s.mem x)
    ∧ (∀ g, g ∈ T.dirty ↔ g ∈ s.dirty ∧ g.1 / 8192 ∉ es) ∧ (∀ g, g ∈ T.whole ↔ g ∈ s.whole ∧ g / 8192 ∉ es) ∧ ∀ g, g ∈ T.poison ↔ g ∈ s.poison ∧ g / 8192 ∉ es
/-- Their counters are reset: minors 0, and each MAJOR one more (R384, R387). -/
def recounted (s T : State) (es : List Nat) : Prop :=
  ∀ k, mapGetD T.counters k 0 = if k / 65 / 128 ∈ es then (if k % 65 = 64 then mapGetD s.counters k 0 + 1 else 0) else mapGetD s.counters k 0
/-- The extents a request names: n from first, all of the device's. -/
def extentsNamed (first n : Nat) (es : List Nat) : Prop := first + n ≤ 141824 ∧ es = (List.range n).map (fun i => first + i)
/-- Extents pass to an owner, or to none. -/
def passed (s T : State) (es : List Nat) (o : Option ExtOwner) : Prop := ∀ e, mapGet? T.extents e = if e ∈ es then o else mapGet? s.extents e

/-! Pre-emption (R395 to R408). -/

/-- A context with other values. -/
def withCtx (s : State) (vf ctx : Nat) (c : Ctx) : State := s.setVf vf { s.vf vf with ctxs := mapSet (s.vf vf).ctxs ctx c }
def ofCtx (vf ctx : Nat) (a : Agent) : Prop := a.vf = vf ∧ a.ctx = ctx
/-- A word and a pair of words at a place of a list of bytes. -/
def wordIn (bs : List Byte) (at' : Nat) : Word := BitVec.ofNat 32 (ofBytes ((bs.drop at').take 4))
def dwordIn (bs : List Byte) (at' : Nat) : DWord := BitVec.ofNat 64 (ofBytes ((bs.drop at').take 8))
/-- A slot once its agent is halted: a sleep has ended (R216). -/
def calmSlot (x y : Slot) : Prop := match x.wait with | .sleep _ => y = { x with wait := .none } | _ => y = x
/-- A slot once its agent is placed again: it re-enters its clause, and an instruction parked on pages executes again (R359, R408). -/
def againSlot (x : Slot) : Slot :=
  let y : Slot := { x with path := x.path.map (fun p => { p with phase := .header }) }
  match x.wait with | .page _ _ _ => { y with wait := .none } | _ => y
/-- An agent is placed again, a fragment is told of the barriers that have completed meanwhile, and the context runs once none of its agents is halted (R395, R408). -/
def placedAgain (s S : State) (vf ctx id : Nat) (c : Ctx) (a : Agent) : Prop :=
  ∃ st, S = withCtx { s with agents := S.agents, waits := S.waits, fails := S.fails, saddle := S.saddle } vf ctx { c with st := st } ∧ (a.isFrag = false → S.saddle = s.saddle)
    ∧ S.agent? id = some { a with halted := false, spilt := false, tickhi := none, slotA := againSlot a.slotA, slotB := againSlot a.slotB } ∧ (∀ k, k ≠ id → S.agent? k = s.agent? k)
    ∧ (st = .run ∨ st = c.st) ∧ ((∀ x ∈ S.agents, ofCtx vf ctx x.2 → x.2.halted = false) ↔ st = .run)
/-- The fields of a control record (R404) that lie at fixed places. -/
def recordFields (a : Agent) (bs : List Byte) : Prop :=
  (∀ k, k < 128 → a.s k = wordIn bs (4 * k)) ∧ a.fpc = wordIn bs 0x270 ∧ a.xth = wordIn bs 0x274 ∧ a.tix = wordIn bs 0x278 ∧ a.tcause = wordIn bs 0x27C
    ∧ a.tpc = dwordIn bs 0x280 ∧ a.taddr = dwordIn bs 0x288 ∧ a.sbase = dwordIn bs 0x290 ∧ a.sshift = wordIn bs 0x298 ∧ a.sfmt = wordIn bs 0x29C ∧ a.stgMap = wordIn bs 0x2A0
    ∧ (a.core.isWide = true → ∀ i L, 0 < i → i < 8 → L < a.width → L < 64 → (a.p i).getLsbD L = (bs.getD (0x200 + L) 0).getLsbD i)
/-- The 16 bytes at a place of a list, as a number. -/
def entryAt (bs : List Byte) (at' : Nat) : Nat := ofBytes ((bs.drop at').take 16)
/-- A header, a low field, a mask and a join record as an entry's 16 bytes give them (R189). -/
def placeIs (base : DWord) (w : Nat) (hdr : DWord) (low : Nat) (mask : Mask) (j : Jix) : Prop :=
  hdr = base + BitVec.ofNat 64 (4 * field w 71 25) ∧ low = field w 64 7 ∧ mask = BitVec.ofNat 64 (field w 0 64)
    ∧ (j = .none ↔ field w 112 16 = 0xFFFF) ∧ ∀ i, j = .own i ∨ j = .parent i → i = field w 112 16
/-- A path from SLOTA or SLOTB, and an entry from a stack image (R189, R404). -/
def pathIs (base : DWord) (w : Nat) (x : Option Path) : Prop :=
  if field w 96 2 = 3 then x = none else ∃ p, x = some p ∧ placeIs base w p.pos.hdr p.pos.ix p.mask p.jix ∧ p.phase = .header
def entryIs (base : DWord) (w : Nat) (e : Entry) : Prop :=
  (e.kind = match field w 96 2 with | 0 => .path | 1 => .join | 2 => .call | _ => .retired)
    ∧ placeIs base w e.pos.hdr (if e.kind = .path then e.pos.ix else e.pend) e.mask e.jix ∧ (if e.kind = .path then e.pend = 0 else e.pos.ix = 0)
/-- An agent as its control record and its stack image restore it (R404, R406). -/
def restored (a : Agent) (base : DWord) (bs stack : List Byte) (x : Agent) : Prop :=
  let f := wordIn bs 0x26C
  x = { a with sregs := x.sregs, preds := x.preds, flags := x.flags, slotA := x.slotA, slotB := x.slotB, stack := x.stack, handler := x.handler, fpc := x.fpc, xth := x.xth, tix := x.tix
               tcause := x.tcause, tpc := x.tpc, taddr := x.taddr, sbase := x.sbase, sshift := x.sshift, sfmt := x.sfmt, stgMap := x.stgMap
               stgBase := (bs.getD 0x2A4 0).toNat, wdc := (dwordIn bs 0x2A8).toNat }
    ∧ recordFields x bs ∧ (∀ k, k < 12 → x.flag k = (bs.getD (0x260 + k) 0).toNat % 64)
    ∧ pathIs base (entryAt bs 0x240) x.slotA.path ∧ pathIs base (entryAt bs 0x250) x.slotB.path
    ∧ x.stack.length = f.toNat / 65536 ∧ (∀ (i : Nat) e, x.stack[i]? = some e → entryIs base (entryAt stack (16 * i)) e)
    ∧ (x.handler.isSome = f.getLsbD 3) ∧ ∀ h, x.handler = some h → h.slotB = f.getLsbD 2 ∨ (a.handler = some h ∧ a.handlerSlot h = f.getLsbD 2)
/-- The control record of an agent on a wide core (R404): also the bit 0 of each PRED byte, both slots, the flag counters, the stack's depth, and handler mode. -/
def recordOf (a : Agent) (base : DWord) (bs : List Byte) : Prop :=
  bs.length = 2048 ∧ recordFields a bs ∧ (∀ L, L < 64 → (bs.getD (0x200 + L) 0).getLsbD 0 = true) ∧ (∀ f, f < 12 → a.flag f < 64 → (bs.getD (0x260 + f) 0).toNat = a.flag f)
    ∧ (bs.drop 0x240).take 16 = a.slotA.bytes base ∧ (bs.drop 0x250).take 16 = a.slotB.bytes base
    ∧ (a.stack.length < 65536 → a.slotA.wait = .none → a.slotB.wait = .none →
        wordIn bs 0x26C = BitVec.ofNat 32 (65536 * a.stack.length + match a.handler with | some h => if a.handlerSlot h then 12 else 8 | none => 0))
    ∧ (a.stgBase < 256 → (bs.getD 0x2A4 0).toNat = a.stgBase) ∧ (a.wdc < 2 ^ 64 → (dwordIn bs 0x2A8).toNat = a.wdc)
/-- Where the record of a cluster lies in the save area (R403). -/
def clusterRecord (s : State) (vf ctx cluster : Nat) : Nat := (s.saveRecord vf ctx cluster).toNat

/-- The bytes of a tile's columns, one after another (R218, R232). -/
def columnBytes (f : Fmt) (pr sp : Bool) (k : Nat) (rows : List Nat) : List Byte := rows.flatMap (fun r => bytesOf r (rowBytes f pr (storedK sp k)))

/-! Migration (R423 to R427). -/

/-- MIGCTL has started an operation on a VF. -/
def migAsked (s : State) (op v : Nat) : Prop :=
  s.up = true ∧ s.mig.busy = true ∧ (s.mig.ctl.extractLsb' 0 4).toNat = op ∧ (s.mig.ctl.extractLsb' 8 6).toNat = v
/-- The operation is finished with a result and a count over the state T: GO and BUSY are clear. -/
def migReplies (i : Instr) (s T : State) (result cnt : Nat) : Prop :=
  exec i s = .next { T with mig := { T.mig with busy := false, ctl := T.mig.ctl &&& 0x7FFFFFFF, result := result, cnt := BitVec.ofNat 64 cnt } }
/-- A stopped VF takes doorbells again, and its halted contexts resume. -/
def vfResumes (s T : State) (v : Nat) : Prop :=
  (T.vf v).stopped = false ∧ (∀ n c, s.ctx? v n = some c → c.st = .halted → ∃ st, (st = .run ∨ st = .resuming) ∧ T.ctx? v n = some { c with st := st })
    ∧ T.mem = s.mem ∧ T.hostMem = s.hostMem
    ∧ ((∀ r ∈ s.recs, r.2.st ≠ .page) → ∀ k, (mapGet? T.launches k).map (fun l => { l with tunfilled := [] }) = (mapGet? s.launches k).map (fun l => { l with tunfilled := [] }))

/-! Translation and the host's ports (R349 to R361, R371, R388, R391). -/

/-- A request that an answer for a page may answer: it is of the chiplet that the answer is for, and not poisoned, or the discarded completion is still to come. -/
def answersTo (vf pasid page : Nat) (ans : AtsAnswer) (r : AtsReq) : Prop :=
  r.vf = vf ∧ r.pasid = pasid ∧ r.page = page ∧ r.queued = false ∧ (r.poison = [] ∨ r.stale = true) ∧ r.chiplet = match ans with | .granted c _ _ _ _ _ => c | .failed c => c
/-- A range of addresses of a VF, of one PASID or of all, meets the addresses from base on. -/
def meetsRange (vf : Nat) (pasid : Option Nat) (base size : Nat) (v q b n : Nat) : Prop := v = vf ∧ (∀ p, pasid = some p → q = p) ∧ b < base + size ∧ base < b + n
/-- A parked slot that goes on: its instruction executes again (R358). -/
def unparked (x : Slot) : Slot :=
  match x.wait with | .page _ _ _ => { x with wait := .none, path := x.path.map (fun p => { p with phase := .header }) } | _ => x
/-- A page of an event waits on a group (R354). -/
def waitsOn (w : PageWait) (g : PageGroup) (p : WaitPage) : Prop := p ∈ w.pages ∧ p.group = some g.name
/-- A slot of an agent holds the path that is parked under a name. -/
def parkedIn (s : State) (n id : Nat) (b : Bool) : Prop := ∃ a q va, s.agent? id = some a ∧ (a.slot b).wait = .page n q va
/-- No two slots hold paths parked under one name. -/
def parksDistinct (s : State) : Prop := mapWf s.agents = true ∧ ∀ n i j b c, parkedIn s n i b → parkedIn s n j c → i = j ∧ b = c
/-- Only parked paths, engines and matrix units wait on the groups: no task does. -/
def noTaskWaits (s : State) (gs : List PageGroup) : Prop := ∀ w ∈ s.waits, ∀ g ∈ gs, ∀ p, waitsOn w g p → (∀ k, w.who ≠ .task k) ∧ ∀ id b, w.who ≠ .slot id b
/-- The paths that wait on the groups, and that no other group keeps, go on; other slots stay (R356, R358). -/
def slotsGoOn (s S : State) (gs : List PageGroup) : Prop :=
  (∀ id, s.agent? id = none → S.agent? id = none) ∧ ∀ id a, s.agent? id = some a → ∃ x, S.agent? id = some x ∧ x = { a with slotA := x.slotA, slotB := x.slotB }
    ∧ ∀ b, let called : Prop := ∃ w ∈ s.waits, ∃ n, w.who = .park n ∧ parkedIn s n id b ∧ ∃ g ∈ gs, ∃ p, waitsOn w g p
           let kept : Prop := ∃ w ∈ s.waits, ∃ n, w.who = .park n ∧ parkedIn s n id b ∧ ∃ p ∈ w.pages, ∃ m, p.group = some m ∧ ∀ g ∈ gs, g.name ≠ m
      (called → ¬ kept → x.slot b = unparked (a.slot b)) ∧ (¬ called ∨ kept → x.slot b = a.slot b)
/-- A waiter under its own name, or, for a path that has gone on, as its slot. -/
def goesBy (s : State) (w v : Waiter) : Prop := v = w ∨ ∃ n id b, w = .park n ∧ v = .slot id b ∧ parkedIn s n id b
/-- Groups fail: the events that wait on them fail on their pages (R355, R357). -/
def groupsFail (s S : State) (gs : List PageGroup) : Prop :=
  (∀ w ∈ s.waits, ∀ g ∈ gs, ∀ p, waitsOn w g p → ∃ f ∈ S.fails, goesBy s w.who f.1 ∧ f.2 = (w.pasid, p.page))
    ∧ (∀ f ∈ S.fails, (∃ y ∈ s.fails, goesBy s y.1 f.1 ∧ f.2 = y.2) ∨ ∃ w ∈ s.waits, ∃ g ∈ gs, ∃ p, waitsOn w g p ∧ goesBy s w.who f.1 ∧ f.2 = (w.pasid, p.page))
    ∧ slotsGoOn s S gs
/-- Every byte of a range of device addresses belongs to an extent with an owner. -/
def ownedRange (s : State) (d n : Nat) : Prop := 0 < n ∧ d + n ≤ 277 * 2 ^ 30 ∧ ∀ y, d ≤ y → y < d + n → mapGet? s.extents (y / 2 ^ 21) ≠ none
/-- No granule of the range is poisoned (R386). -/
def soundRange (s : State) (d n : Nat) : Prop := ∀ y, d ≤ y → y < d + n → y / 256 ∉ s.poison
/-- The L2 share of the VF whose extent holds the address is not changing (R378). -/
def shareSettled (s : State) (d : Nat) : Prop := ∀ v, s.homeOf d = some v → (s.vf v).newShare = none
/-- Of the state, only bytes of device memory, lines to write back and which are written whole, pages marked for a move, and the events recorded differ. -/
def onlyDeviceBytes (s S : State) : Prop :=
  S = { s with mem := S.mem, dirty := S.dirty, whole := S.whole, vfs := S.vfs, events := S.events } ∧ ∀ v, S.vf v = { s.vf v with dirty := (S.vf v).dirty }
/-- The first address of a range at which an access meets poison that it does not clear (R386). -/
def struckFirst (s : State) (d n : Nat) (clears : Nat → Prop) (x : Nat) : Prop :=
  d ≤ x ∧ x < d + n ∧ x / 256 ∈ s.poison ∧ ¬ clears (x / 256) ∧ ∀ y, d ≤ y → y < x → y / 256 ∉ s.poison ∨ clears (y / 256)
/-- The device address of byte o of a window (R388). -/
def windowByte (w : Window) (o : Nat) : Nat := 2 ^ 21 * (w.extents.getD (o / 2 ^ 21) 0) + o % 2 ^ 21
/-- An event of a VF whose queue has dropped none: its entry is written and MSI-X vector 1 raised, or it is dropped and counted while the entry is not consumed; a VF without a queue sees nothing (R371). -/
def eventPosted (s S : State) (v kind info : Nat) : Prop :=
  ((s.vf v).evq = none → S = s) ∧
  (∀ q, (s.vf v).evq = some q → q.dropped = 0 →
    let at' := q.addr + 16 * (q.seq % 2 ^ q.loge)
    (memRead s.hostMem (at' + 4) 4 = [0, 0, 0, 0] → S = State.emit { s with hostMem := S.hostMem, events := S.events, vfs := mapPut Vf.off s.vfs v { s.vf v with evq := some { q with seq := q.seq + 1 } } } (.msix (.vf v) 1)
      ∧ ofBytes (memRead S.hostMem at' 16) = kind + 2 ^ 32 * ((q.seq + 1) % 2 ^ 32) + 2 ^ 64 * info ∧ ∀ y, y < at' ∨ at' + 16 ≤ y → memGet S.hostMem y = memGet s.hostMem y) ∧
    (memRead s.hostMem (at' + 4) 4 ≠ [0, 0, 0, 0] → S = s.setVf v { s.vf v with evq := some { q with dropped := 1 } }))

/-! The task basins (R293 to R305). -/

/-- A record of the basins now holds this; the others are as before. -/
def recNow (s : State) (k : Nat) (r : TaskRec) : NMap TaskRec := mapSet s.recs k r
def noDisp : Dispatcher := ⟨[], [], 0, 0, false⟩
/-- The wide core that a basin chooses for a VF's record (R298). -/
def deckOf (s : State) (cluster vf core : Nat) : Prop :=
  let owns (w : Nat) : Prop := field (s.part cluster vf).qmask (4 * w) 4 ≠ 0
  let held (w : Nat) : Nat := ((s.disp cluster w).deque vf).length
  (core = 0 ∨ core = 1) ∧ (owns 0 → owns 1 → (core = 1 ↔ held 1 < held 0)) ∧ (owns 0 → ¬ owns 1 → core = 0) ∧ (¬ owns 0 → owns 1 → core = 1)
/-- The dispatchers with a record at the head of a deque. -/
def pushedHead (s : State) (cluster core vf r : Nat) : NMap Dispatcher :=
  let d := s.disp cluster core
  mapPut noDisp s.disps (2 * cluster + core) { d with deques := mapPut [] d.deques vf (r :: mapGetD d.deques vf []) }
/-- The launch that a packet names here: its own, or the accepted launch of the identity that a peer's packet carries (R291, R296). -/
def packetLaunch (s : State) (p : Packet) (q : Nat) : Prop :=
  (p.peer = none ∧ q = p.launch) ∨ ∃ x l, p.peer = some x ∧ s.launches.find? (fun l => s.identOf l.1 == x.2) = some l ∧ q = l.1
/-- A packet of a kind has arrived at a basin; the launch of a new task is known there. -/
def arrivedAt (s : State) (cluster : Nat) (isNew : Bool) (y : Packet) : Prop :=
  y.place = 1 ∧ y.isNew = isNew ∧ field y.dst.toNat 12 7 = cluster ∧ (isNew = true → ∃ q, packetLaunch s y q)
/-- The first packet of a kind that has arrived at a basin, between what stands before and after it, and its launch; a peer's release names none (R296). -/
def arrivedFirst (s : State) (cluster : Nat) (isNew : Bool) (l₁ : List Packet) (p : Packet) (l₂ : List Packet) (q : Nat) : Prop :=
  s.packets = l₁ ++ p :: l₂ ∧ arrivedAt s cluster isNew p ∧ (∀ y ∈ l₁, ¬ arrivedAt s cluster isNew y) ∧ (packetLaunch s p q ∨ (q = p.launch ∧ ∀ x, ¬ packetLaunch s p x))
/-- The journal holds the number of a packet: it has come before (R422). -/
def seenBefore (s : State) (p : Packet) : Prop := p.num ≠ none ∧ ∃ x ∈ s.journal, ∃ c r, x.2 = .packet c r p.num
/-- The packet is consumed: its slot is free and its credit returns, over its Pass link when it came from a peer (R297). -/
def consumed (s : State) (cluster : Nat) (l : List Packet) (p : Packet) : State :=
  let t : State := { s with packets := l, credits := mapPut 0 s.credits (32 * cluster + p.src) (mapGetD s.credits (32 * cluster + p.src) 0 - 1) }
  if 16 ≤ p.src then t.emit (.creditBack (p.src - 16) cluster) else t
/-- A packet's acknowledgement: once no packet of the operation is left, the operation is ready to complete. -/
def ackDone (s : State) (ack : Option (Nat × Nat × Nat)) (S : State) : Prop :=
  (ack = none → S = s) ∧ ∀ ag op lane, ack = some (ag, op, lane) →
    let more : Prop := ∃ p ∈ s.packets, ∃ x, p.ack = some (ag, op, x)
    (more ∨ s.agent? ag = none → S = s)
    ∧ ∀ a, ¬ more → s.agent? ag = some a → S = s.setAgent ag { a with ops := a.ops.map (fun x => if x.id == op then { x with ready := true, mayTrap := false } else x) }
/-- The sender of a packet that has been accepted learns of it: by its operation here, or by a message where it is a peer that asked for one (R208, R298). -/
def answered (T : State) (p : Packet) (S : State) : Prop :=
  (p.peer = none → ackDone T p.ack S) ∧ ∀ x, p.peer = some x → S = if p.ackid = 0xFFFF then T else T.emit (.packetAck x.1 p.ackid true)
/-- A launch with TASKERR in its fault status (R295, R298). -/
def launchErr (l : Launch) (ident : Word) (addr : DWord) : Launch := { l with taskErr := true, first := some (l.first.getD (cTASKERR, ident, addr)) }
/-- A record that is free again, or held back while its handle is attached (R295). -/
def freedRec (r : TaskRec) : TaskRec :=
  { r with st := if r.attached then .held else .free, buffer := [], lines := [], pages := [], spec := false, aborts := 0, ended := false }

/-! Licences, clocks and links (R314 to R326, R392, R412 to R414, R427). -/

/-- A chiplet has other values, and nothing else differs. -/
def chipletNow (s : State) (c : Nat) (x : Chiplet) : State := { s with chiplets := mapPut Chiplet.base s.chiplets c x }
/-- A flit of the lap has not passed every stop. -/
def lapping (c : Chiplet) : Prop := ∃ x ∈ c.flits, x.2.stop < 32
/-- The shortfalls of a lap that ends (R325). -/
def shortfalls (c : Chiplet) : NMap Nat :=
  if c.lap = 0 then c.need else (c.floor.map (fun x => (x.1, (x.2 + 7) / 8 - mapGetD c.lapSpend x.1 0))).filter (fun x => x.2 != 0)
/-- The clock that a chiplet's votes call for: a raise begins at once, a fall is held (R412, R413). -/
def clockVoted (c x : Chiplet) : Prop :=
  let t := if c.hot then 0 else (c.votes.map (fun v => v.2)).foldl max 0
  (c.level < t → x = { c with raising := some t, hold := false }) ∧ (t < c.level → x = { c with raising := none, hold := !c.hot })
    ∧ (t = c.level → x = { c with raising := none, hold := false })
/-- The chiplet's clock is at a level; INJ of every VF with quadrants there is rewritten for it, floor(500 W / f) of its share, and STEP where slope control is not disabled: s V tau^2 / 64 with tau = 256 / f (R317, R325, R413). -/
def clockAt (s S : State) (chiplet : Nat) (x : Chiplet) : Prop :=
  S = { s with chiplets := S.chiplets } ∧ S.chiplet chiplet = { x with injNew := (S.chiplet chiplet).injNew, stepNew := (S.chiplet chiplet).stepNew }
    ∧ (S.chiplet chiplet).stepNew = (if x.stepNew.getD x.step = 0 then x.stepNew else some (min (2 ^ 24 - 1) (Config.slopeVolts chiplet x.level * 5120 ^ 2 / ((12 + x.level) ^ 2 * 6400))))
    ∧ ∀ v, v < 64 → s.quadsOn chiplet v ≠ 0 → ∃ i, mapGet? (S.chiplet chiplet).injNew v = some i ∧ i.en = true
        ∧ i.inj = min 65535 (10 * (s.vf v).allot * s.quadsOn chiplet v / (s.quadsOf v * (12 + x.level)))

/-! Power, faults and firmware (R415 to R422, R428). -/

/-- The header and the length of an image are right (R417). -/
def goodImage (im : List Byte) : Prop :=
  let body := ofBytes ((im.drop 8).take 4)
  112 ≤ im.length ∧ ofBytes (im.take 4) = 0x4B593446 ∧ body % 4096 = 0 ∧ im.length = body + 96 ∧ ofBytes ((im.drop 12).take 4) = 0
/-- The signature after an image's body is that of the body's digest (R417). -/
def signedImage (im : List Byte) : Prop := Config.verifies (sha384 (im.take (im.length - 96))) (im.drop (im.length - 96)) = true
/-- The firmware after a reset (R417, R418): the recovery block at its reset values; an image in flash that is right, verifies and is not below the minimum version runs, and raises it; otherwise the boot ROM is in recovery. -/
def booted (f g : Firmware) : Prop :=
  let svn := ofBytes ((f.flash.drop 4).take 4)
  let good : Prop := goodImage f.flash ∧ signedImage f.flash ∧ f.minSvn ≤ svn
  let x : Firmware := { f with rcvGo := false, rcvResult := 0, rcvAddr := 0, rcvLen := 0 }
  (good → g = { x with recovery := false, minSvn := svn }) ∧ (¬ good → g = { x with recovery := true })
/-- The row of an HBM stack at a temperature in tenths of a degree, from the row that it was in: rows 1 to 3 above 85, 95 and 105 degrees, left only 3 degrees below (R415). -/
def stackRow (was t r : Nat) : Prop := r ≤ 3 ∧ ∀ k, 1 ≤ k → k ≤ 3 → (k ≤ r ↔ 750 + 100 * k < t ∨ (k ≤ was ∧ 750 + 100 * k < t + 30))
/-- The parts that fail with a part. -/
def failsWith (p : Part) (c : Nat) : Prop := match p with | .cluster n => c = n | .chiplet n => c / 16 = n | .link _ => False
/-- A part is fenced. -/
def fencedIn (S : State) (p : Part) : Prop :=
  match p with | .cluster n => n ∈ S.fencedClusters | .chiplet n => (S.chiplet n).fenced = true | .link n => n ∈ S.fencedLinks
/-- What power brings up or takes away: the part as after reset, but for the fuses, the flash, what lies outside it, and the model's own counters. -/
def freshPart (s : State) (on : Bool) (fw : Firmware) : State :=
  { State.reset with powered := on, fw := fw, hostMem := s.hostMem, devNum := s.devNum, bar2 := s.bar2, fresh := s.fresh, keys := s.keys, nextId := s.nextId, sent := s.sent, agenda := s.agenda }

/-! Steps (R71 to R79, R97, R246). -/

/-- The next step is the turn of a PC slot whose path can go on: t is the state as that turn finds it, a the agent and p the path. -/
def slotTurnAt (s t : State) (id : Nat) (b : Bool) (rest : List Turn) (a : Agent) (p : Path) : Prop :=
  s.agenda = .slot id b :: rest ∧ t = { s.tick with agenda := rest } ∧ t.agent? id = some a ∧ (a.slot b).path = some p ∧ (a.slot b).stopped = false ∧ a.halted = false
    ∧ t.ctxRuns a.vf a.ctx = true ∧ (a.isFrag = true → a.begun = true ∧ t.placeClear a = true) ∧ (a.slot b).wait = .none ∧ a.ends b = none ∧ a.atJoin b = false
/-- The parcel at an address of an agent's code: translated with Exe, not held back, and sound (R71, R351, R386). -/
def codeAt (t : State) (id : Nat) (b : Bool) (a : Agent) (va : DWord) (w : Word) : Prop :=
  ∃ l win, t.xlate (.slot id b) a.caches a.vf (t.pasidOf a.vf a.ctx) va.toNat needX = .ok l win ∧ t.heldLoc l = false ∧ t.sound l 4 = true
    ∧ w = BitVec.ofNat 32 (ofBytes (t.load l 4))
/-- The parcels of the instruction at an address, by its kind; those it lacks are zero (R71). -/
def parcelsAt (t : State) (id : Nat) (b : Bool) (a : Agent) (pc : DWord) (w : Nat → Word) : Prop :=
  codeAt t id b a pc (w 0) ∧ (2 ≤ lengthOf (w 0) → codeAt t id b a (pc + 4) (w 1)) ∧ (lengthOf (w 0) < 2 → w 1 = 0)
    ∧ (lengthOf (w 0) = 3 → codeAt t id b a (pc + 8) (w 2)) ∧ (lengthOf (w 0) < 3 → w 2 = 0)
/-- What the decoder gives is an instruction with every field as its entry asks (R97). -/
def decodesTo (w : Nat → Word) (i : Instr) : Prop := decodeBody (w 0) (w 1) (w 2) = some i ∧ i.wf = true

/-- A counter has risen in a counter block or a node whose counters begin at a key, child 64 being MAJOR: by 1, or, from 127, MAJOR rises and it and every minor that was not 0 become 1 (R384, R385). -/
def counted (m m' : NMap Nat) (k i : Nat) : Prop :=
  let was (c : Nat) : Nat := mapGetD m (k + c) 0
  let now (c : Nat) : Nat := mapGetD m' (k + c) 0
  (was i < 127 → ∀ c, c ≤ 64 → now c = if c = i then was i + 1 else was c)
    ∧ (127 ≤ was i → now 64 = was 64 + 1 ∧ ∀ c, c < 64 → now c = if was c = 0 then 0 else 1)
/-- The first counter of a node of a counter tree: the model's key (R385). -/
def nodeAt (tree level i : Nat) : Nat := 65 * (2 ^ 20 * (8 * tree + level) + i)
/-- The next step is a deed on a device that is up: t is the state that it finds. -/
def deedAt (s t : State) (d : Deed) : Prop := ∃ rest, s.agenda = .deed d :: rest ∧ t = { s.tick with agenda := rest }

/-- An M form's fields without guard, hint, flag set, scalar D or C, or literal: what most worked encodings show (R83). -/
def plainOps (mod d : BitVec 8) (a b : Src) (c : BitVec 8) : MOps := ⟨⟨0, false⟩, 0, false, mod, d, false, a, b, c, false, none⟩

end Sys2Proof.Claims
end

