-- ==== Sys2Proof/Certificates/Slice0/RoundTerms.lean ====
section
/-! DEFINITION. The terms of the statement about rounding and conversion: exact magnitudes as rational numbers, and what the rules say of a rounded result (R29, R33 to R40, R120 to R125, R138 to R140). -/

namespace Sys2Proof.Claims
open Sys2Proof.Machine

/-- 2^k. -/
def pow2 (k : Int) : Rat := if 0 ≤ k then ((2 ^ k.toNat : Nat) : Rat) else 1 / ((2 ^ (-k).toNat : Nat) : Rat)

/-- The magnitude of a finite value, and its signed value. -/
def magOf : Val → Rat
  | .fin _ m e => (m : Rat) * pow2 e
  | _ => 0
def ratOf (v : Val) : Rat := if v.neg then -magOf v else magOf v

/-- A number: a zero of either sign or a finite non-zero value. -/
def number : Val → Prop
  | .zero _ => True
  | .fin _ m _ => 0 < m
  | _ => False
/-- A finite non-zero value. -/
def nonZero (v : Val) : Prop := number v ∧ ratOf v ≠ 0

/-- How a rational number compares with an exact positive magnitude: a rational itself, a square root, or the inverse of a square root. -/
def exactly (x q : Rat) : Ordering := if q < x then .lt else if q = x then .eq else .gt
def rootOf (x q : Rat) : Ordering := if q < 0 then .lt else exactly x (q * q)
def rootInverse (x q : Rat) : Ordering := if q < 0 then .lt else exactly 1 (q * q * x)

/-- n units of u are a magnitude rounded in mode m, for a value of this sign (R33). -/
def roundsAt (m : RMode) (neg : Bool) (c : Rat → Ordering) (u : Rat) (n : Nat) : Prop :=
  let down := c ((n : Rat) * u) ≠ .gt ∧ c (((n : Rat) + 1) * u) = .gt
  let up := c (((n : Rat) - 1) * u) = .lt ∧ c ((n : Rat) * u) ≠ .lt
  match m with
  | .rn => c (((n : Rat) - 1 / 2) * u) ≠ .gt ∧ c (((n : Rat) + 1 / 2) * u) ≠ .lt
      ∧ (c (((n : Rat) - 1 / 2) * u) = .eq ∨ c (((n : Rat) + 1 / 2) * u) = .eq → n % 2 = 0)
  | .rz => down
  | .ru => if neg then down else up
  | .rd => if neg then up else down
  | .ro => c ((n : Rat) * u) = .eq ∨ (c (((n : Rat) - 1) * u) = .lt ∧ c (((n : Rat) + 1) * u) = .gt ∧ n % 2 = 1)

/-- A code of a format that holds this sign and magnitude (R20). -/
def holds (f : Fmt) (neg : Bool) (y : Rat) (c : Nat) : Prop :=
  if y = 0 then c = signBit f neg
  else c < 2 ^ fmtWidth f ∧ magOf (decodeVal f c) = y ∧ ∃ n e, decodeVal f c = .fin neg n e

/-- The largest finite magnitude of a format (R20). -/
def largest (b : BinFmt) : Rat := (b.maxM : Rat) * pow2 (b.emax - b.frac)

/-- The table of overflow results (R34), with the modifiers of R37. -/
def overflowed (f : Fmt) (b : BinFmt) (m : RMode) (ovf : Ovf) (neg : Bool) (r : Res) : Prop :=
  let away := m = .rn ∨ (m = .ru ∧ neg = false) ∨ (m = .rd ∧ neg = true)
  (b.hasInf = true → away → ovf.sat = false → decodeVal f r.1 = .inf neg ∧ r.2 = fOF ||| fNX) ∧
  (b.hasInf = true → away → ovf.sat = true → holds f neg (largest b) r.1 ∧ r.2 = fOF ||| fNX ||| fSAT) ∧
  (b.hasInf = true → ¬away → holds f neg (largest b) r.1 ∧ r.2 = fOF ||| fNX) ∧
  (b.hasInf = false → f = E4M3 → ovf.nan = true → away → r = (0x7F, fOF ||| fNX)) ∧
  (b.hasInf = false → ¬(f = E4M3 ∧ ovf.nan = true ∧ away) → holds f neg (largest b) r.1 ∧ r.2 = fOF ||| fNX ||| fSAT)

/-- The result of `round_to` of an exact magnitude and a sign, with its flags (R34, R35): x' is the exact value rounded to the full significand with no lower end of the exponents, and y the delivered one. -/
def roundedTo (f : Fmt) (b : BinFmt) (m : RMode) (fz : Bool) (ovf : Ovf) (neg : Bool) (c : Rat → Ordering) (r : Res) : Prop :=
  ∀ (k : Int) (x' y : Nat), c (pow2 k) ≠ .gt → c (pow2 (k + 1)) = .gt →
    let u := pow2 (k - b.frac)
    let v := pow2 ((if k < 1 - (b.bias : Int) then 1 - (b.bias : Int) else k) - b.frac)
    let tiny := (x' : Rat) * u < pow2 (1 - b.bias)
    roundsAt m neg c u x' → roundsAt m neg c v y →
    if largest b < (x' : Rat) * u then overflowed f b m ovf neg r
    else if tiny ∧ fz = true ∧ b.flush = true then r = (signBit f neg, fUF ||| fNX)
    else holds f neg ((y : Rat) * v) r.1 ∧ r.2 = if c ((y : Rat) * v) = .eq then 0 else if tiny then fUF ||| fNX else fNX

/-- `round_to` of a rational number that is not zero. -/
def rounded (f : Fmt) (b : BinFmt) (m : RMode) (fz : Bool) (ovf : Ovf) (x : Rat) (r : Res) : Prop :=
  x ≠ 0 → roundedTo f b m fz ovf (decide (x < 0)) (exactly (if x < 0 then -x else x)) r

/-- No overflow modifier. -/
def plain : Ovf := ⟨false, false⟩

/-- Addition, multiplication, FMA and division in a format: one rounding of the exact result of numbers; exact zeros; infinities, NaNs and invalid operations as IEEE 754-2019 gives them (R21, R22, R41, R120). -/
def arithmetic (f : Fmt) (b : BinFmt) (m : RMode) (fz : Bool) : Prop :=
  (∀ A B C, number A → number B → number C →
    rounded f b m fz plain (ratOf A + ratOf B) (fpAdd f b m fz A B) ∧
    rounded f b m fz plain (ratOf A * ratOf B) (fpMul f b m fz A B) ∧
    rounded f b m fz plain (ratOf A * ratOf B + ratOf C) (fpFma f b m fz A B C) ∧
    (ratOf B ≠ 0 → rounded f b m fz plain (ratOf A / ratOf B) (divVal f b m fz A B)) ∧
    (ratOf A + ratOf B = 0 → fpAdd f b m fz A B = (signBit f (if isZeroV A ∧ A.neg = B.neg then A.neg else decide (m = .rd)), 0)) ∧
    (ratOf A * ratOf B = 0 → fpMul f b m fz A B = (signBit f (A.neg != B.neg), 0)) ∧
    (ratOf A * ratOf B + ratOf C = 0 →
      fpFma f b m fz A B C = (signBit f (if isZeroV C ∧ C.neg = (A.neg != B.neg) then C.neg else decide (m = .rd)), 0)) ∧
    (ratOf A = 0 → ratOf B ≠ 0 → divVal f b m fz A B = (signBit f (A.neg != B.neg), 0)) ∧
    (ratOf A ≠ 0 → ratOf B = 0 → divVal f b m fz A B = (signBit f (A.neg != B.neg) + infCode b, fDZ)) ∧
    (ratOf A = 0 → ratOf B = 0 → divVal f b m fz A B = (defaultNaN f, fNV))) ∧
  (b.hasInf = true → ∀ s t A, number A →
    let inf (s : Bool) := signBit f s + infCode b
    fpAdd f b m fz (.inf s) A = (inf s, 0) ∧ fpAdd f b m fz A (.inf s) = (inf s, 0) ∧
    fpAdd f b m fz (.inf s) (.inf t) = (if s = t then (inf s, 0) else (defaultNaN f, fNV)) ∧
    fpMul f b m fz (.inf s) A = (if isZeroV A then (defaultNaN f, fNV) else (inf (s != A.neg), 0)) ∧
    fpMul f b m fz A (.inf s) = (if isZeroV A then (defaultNaN f, fNV) else (inf (s != A.neg), 0)) ∧
    fpMul f b m fz (.inf s) (.inf t) = (inf (s != t), 0) ∧
    divVal f b m fz (.inf s) A = (inf (s != A.neg), 0) ∧ divVal f b m fz A (.inf s) = (signBit f (s != A.neg), 0) ∧
    divVal f b m fz (.inf s) (.inf t) = (defaultNaN f, fNV)) ∧
  (b.hasInf = true → ∀ s A B, nonZero A → number B →
    fpFma f b m fz (.inf s) A B = (signBit f (s != A.neg) + infCode b, 0) ∧ fpFma f b m fz A (.inf s) B = (signBit f (s != A.neg) + infCode b, 0) ∧
    fpFma f b m fz B A (.inf s) = (signBit f s + infCode b, 0) ∧
    fpFma f b m fz (.inf s) A (.inf (s == A.neg)) = (defaultNaN f, fNV)) ∧
  (∀ A B C, isZeroV A → isInfV B → fpFma f b m fz A B C = (defaultNaN f, fNV) ∧ fpFma f b m fz B A C = (defaultNaN f, fNV)) ∧
  (∀ A B C, isNaN A ∨ isNaN B ∨ (isNaN C ∧ number A ∧ number B) →
    fpFma f b m fz A B C = (defaultNaN f, if isSNaN A ∨ isSNaN B ∨ isSNaN C then fNV else 0)) ∧
  (∀ A B, isNaN A ∨ isNaN B →
    let r : Res := (defaultNaN f, if isSNaN A ∨ isSNaN B then fNV else 0)
    fpAdd f b m fz A B = r ∧ fpMul f b m fz A B = r ∧ divVal f b m fz A B = r)

/-- FRC, RNDI, SCALB, GETEXP, GETMAN, MIN and MAX of numbers that the type holds (R120, R121, R123). -/
def valueParts (f : Fmt) (b : BinFmt) (m : RMode) (fz : Bool) : Prop :=
  (∀ c, let A := readVal f fz c
    nonZero A →
    (∀ n : Nat, (n : Rat) ≤ magOf A → magOf A < (n : Rat) + 1 → holds f A.neg (magOf A - (n : Rat)) (fpFrc f A).1 ∧ (fpFrc f A).2 = 0) ∧
    (∀ n : Nat, roundsAt m A.neg (exactly (magOf A)) 1 n → holds f A.neg (n : Rat) (fpRndi f m A).1 ∧ (fpRndi f m A).2 = 0) ∧
    (∀ k : Int, rounded f b m fz plain (ratOf A * pow2 k) (fpScalb f b m fz A k)) ∧
    (∀ k : Int, pow2 k ≤ magOf A → magOf A < pow2 (k + 1) →
      ratOf (decodeVal f (fpGetexp f b A).1) = (k : Rat) ∧ (fpGetexp f b A).2 = 0 ∧
      holds f A.neg (magOf A / pow2 k) (fpGetman f A).1 ∧ (fpGetman f A).2 = 0)) ∧
  (∀ c d, let A := readVal f fz c
    let B := readVal f fz d
    number A → number B → (ratOf A ≠ ratOf B →
      holds f (if ratOf A < ratOf B then A else B).neg (magOf (if ratOf A < ratOf B then A else B)) (fpMinMax f false A B).1 ∧
      holds f (if ratOf A < ratOf B then B else A).neg (magOf (if ratOf A < ratOf B then B else A)) (fpMinMax f true A B).1 ∧
      (fpMinMax f false A B).2 = 0 ∧ (fpMinMax f true A B).2 = 0)) ∧
  (∀ s t, fpMinMax f false (.zero s) (.zero t) = (signBit f (s || t), 0) ∧ fpMinMax f true (.zero s) (.zero t) = (signBit f (s && t), 0)) ∧
  (∀ c x q, let A := readVal f fz c
    nonZero A → holds f A.neg (magOf A) (fpMinMax f x A (.nan q)).1 ∧ (fpMinMax f x A (.nan q)).2 = (if q then fNV else 0) ∧
    fpMinMax f x (.nan q) A = fpMinMax f x A (.nan q)) ∧
  (∀ c x s, let A := readVal f fz c
    nonZero A → if x = s then holds f A.neg (magOf A) (fpMinMax f x (.inf s) A).1 else (fpMinMax f x (.inf s) A).1 = signBit f s + infCode b) ∧
  (∀ x q r, fpMinMax f x (.nan q) (.nan r) = (defaultNaN f, if q || r then fNV else 0))

/-- RCP, SQRT and RSQ in a rounding, with the other exact results of R139 and the table of R140 (R138 to R140). A result g is correct when it is the rounding of the exact value as `ok` says. -/
def specialValues (f : Fmt) (b : BinFmt) (fz : Bool) (ok : Bool → (Rat → Ordering) → Res → Prop) (g : SFn → Nat → Res) : Prop :=
  ∀ c, let A := readVal f fz c
    (nonZero A → ok A.neg (exactly (1 / magOf A)) (g .rcp c)) ∧
    (nonZero A → A.neg = false → ok false (rootOf (magOf A)) (g .sqrt c)) ∧
    (nonZero A → A.neg = true → g .sqrt c = (defaultNaN f, fNV)) ∧
    (isZeroV A → g .rcp c = (signBit f A.neg + infCode b, fDZ) ∧ g .sqrt c = (signBit f A.neg, 0)) ∧
    (isInfV A → g .rcp c = (signBit f A.neg, 0) ∧ g .sqrt c = (if A.neg then (defaultNaN f, fNV) else (infCode b, 0))) ∧
    (isNaN A → g .rcp c = (defaultNaN f, if isSNaN A then fNV else 0) ∧ g .sqrt c = (defaultNaN f, if isSNaN A then fNV else 0))

/-- The special functions that only the types below FP64 have: RSQ, and the arguments at which the value of another function is exact (R139, R140). -/
def specialPoints (f : Fmt) (b : BinFmt) (fz : Bool) (ok : Bool → (Rat → Ordering) → Res → Prop) (g : SFn → Nat → Res) : Prop :=
  ∀ c, let A := readVal f fz c
    let one := b.bias * 2 ^ b.frac
    (nonZero A → A.neg = false → ok false (rootInverse (magOf A)) (g .rsq c)) ∧
    (nonZero A → A.neg = true → g .rsq c = (defaultNaN f, fNV) ∧ g .lg2 c = (defaultNaN f, fNV)) ∧
    (∀ k : Int, nonZero A → ratOf A = (k : Rat) →
      ok false (exactly (pow2 k)) (g .ex2 c) ∧ g .sinPi c = (signBit f A.neg, 0) ∧
      g .cosPi c = (signBit f (decide (k % 2 = 1)) + one, 0)) ∧
    (∀ k : Int, nonZero A → ratOf A = (k : Rat) + 1 / 2 →
      g .sinPi c = (signBit f (decide (k % 2 = 1)) + one, 0) ∧ g .cosPi c = (0, 0)) ∧
    (∀ k : Int, A.neg = false → nonZero A → magOf A = pow2 k →
      holds f (decide (k < 0)) (if k < 0 then -(k : Rat) else (k : Rat)) (g .lg2 c).1 ∧ (g .lg2 c).2 = 0) ∧
    (isZeroV A → g .ex2 c = (one, 0) ∧ g .lg2 c = (signBit f true + infCode b, fDZ) ∧ g .rsq c = (signBit f A.neg + infCode b, fDZ) ∧
      (∀ fn ∈ [SFn.sinPi, .tanh, .erf], g fn c = (signBit f A.neg, 0)) ∧ g .cosPi c = (one, 0) ∧ g .sigm c = (one - 2 ^ b.frac, 0)) ∧
    (isInfV A →
      g .ex2 c = (if A.neg then 0 else infCode b, 0) ∧ g .lg2 c = (if A.neg then (defaultNaN f, fNV) else (infCode b, 0)) ∧
      g .rsq c = (if A.neg then (defaultNaN f, fNV) else (0, 0)) ∧ g .sinPi c = (defaultNaN f, fNV) ∧ g .cosPi c = (defaultNaN f, fNV) ∧
      g .tanh c = (signBit f A.neg + one, 0) ∧ g .erf c = (signBit f A.neg + one, 0) ∧ g .sigm c = (if A.neg then 0 else one, 0)) ∧
    (isNaN A → ∀ fn ∈ [SFn.ex2, .lg2, .rsq, .sinPi, .cosPi, .tanh, .sigm, .erf], g fn c = (defaultNaN f, if isSNaN A then fNV else 0))

/-- A faithful result: one of the two values that bracket the exact value, or the exact value itself (R139). -/
def faithful (f : Fmt) (b : BinFmt) (fz : Bool) (neg : Bool) (c : Rat → Ordering) (r : Res) : Prop :=
  roundedTo f b .rz fz plain neg c r ∨ roundedTo f b (if neg then .rd else .ru) fz plain neg c r

/-- The distance between two magnitudes. -/
def distance (x y : Rat) : Rat := if x ≤ y then y - x else x - y
/-- The magnitude of a D8 code's low seven bits, with +0 (R26). -/
def d8Value (c : Nat) : Rat := magOf (decodeVal D8 c)

/-- Conversion of a finite non-zero value into D8: the nearest defined magnitude, an even code where two are equally near; overflow beyond 10^20 (R29). -/
def toD8Result (ovf : Ovf) (neg : Bool) (x : Rat) (r : Res) : Prop :=
  let s := if neg then 128 else 0
  if (10 ^ 20 : Nat) < x then r = (if ovf.nan then (0x80, fOF ||| fNX) else (s + 3, fOF ||| fNX ||| fSAT))
  else ∃ c < 128, r.1 = (if c = 0 then 0 else s + c) ∧
    (∀ d < 128, distance x (d8Value c) ≤ distance x (d8Value d) ∧ (d ≠ c → distance x (d8Value c) = distance x (d8Value d) → d % 2 = 0 → c % 2 = 0)) ∧
    r.2 = (if d8Value c = x then 0 else if x < d8Value 1 then fUF ||| fNX else fNX)

/-- Conversion of a finite non-zero magnitude into E8M0 (R40). -/
def toE8M0Result (m : RMode) (x : Rat) (r : Res) : Prop :=
  ∀ k : Int, pow2 k ≤ x → x < pow2 (k + 1) → ∀ n : Int,
    (n = if m = .rz ∨ m = .rd then k else if m = .ru then (if x = pow2 k then k else k + 1)
      else if x < 3 / 2 * pow2 k then k else if 3 / 2 * pow2 k < x then k + 1 else if (k + 127) % 2 = 0 then k else k + 1) →
    (-127 ≤ n → n ≤ 127 → r = ((n + 127).toNat, if pow2 n = x then 0 else fNX)) ∧
    (n < -127 → r = (0, fSAT ||| fNX)) ∧ (127 < n → r = (0xFE, fSAT ||| fNX))

/-- Conversion of a finite non-zero value to an integer format (R38, R39): from a floating-point format or D8, B1 or E8M0 rounded and clamped; from an integer format exact, wrapped or, under `.sat`, clamped. -/
def toIntegerResult (dt : Fmt) (fromInt : Bool) (m : RMode) (sat : Bool) (v : Val) (r : Res) : Prop :=
  ∀ n : Nat, roundsAt m v.neg (exactly (magOf v)) 1 n →
    let i : Int := if v.neg then -(n : Int) else n
    let nx : FFlags := if magOf v = (n : Rat) then 0 else fNX
    let lo : Int := if fmtSigned dt then -((2 ^ (fmtWidth dt - 1) : Nat) : Int) else 0
    let hi : Int := if fmtSigned dt then ((2 ^ (fmtWidth dt - 1) : Nat) : Int) - 1 else ((2 ^ fmtWidth dt : Nat) : Int) - 1
    if lo ≤ i ∧ i ≤ hi then r = (wrapNat i (fmtWidth dt), nx)
    else if fromInt = true ∧ sat = false then r = (wrapNat i (fmtWidth dt), 0)
    else r = (wrapNat (if i < lo then lo else hi) (fmtWidth dt), if fromInt then fSAT else fSAT ||| fNX)

/-- The table of special sources (R36), with the modifiers of R37. -/
def specialSource (dt : Fmt) (ovf : Ovf) (v : Val) (r : Res) : Prop :=
  let nv (s : Bool) : FFlags := if s then fNV else 0
  (∀ s, v = .nan s →
    (dt ∈ [FP64, FP32, BF16, FP16, E5M2, E4M3, D8] → r = (defaultNaN dt, nv s)) ∧
    (dt ∈ [E3M2, E2M3, E2M1, B1] ∨ fmtInt dt = true → r = (0, fNV)) ∧ (dt = E8M0 → r = (0xFF, fNV)) ∧ (dt = UE4M3 → r = (0x7F, fNV))) ∧
  (∀ n, v = .inf n →
    (dt ∈ [FP64, FP32, BF16, FP16, E5M2] → ∀ b, binFmt dt = some b →
      if ovf.sat then holds dt n (largest b) r.1 ∧ r.2 = fSAT else decodeVal dt r.1 = .inf n ∧ r.2 = 0) ∧
    (dt ∈ [E4M3, E3M2, E2M3, E2M1] → ∀ b, binFmt dt = some b →
      if dt = E4M3 ∧ ovf.nan = true then r = (0x7F, fNV) else holds dt n (largest b) r.1 ∧ r.2 = fSAT) ∧
    (dt = D8 → r = if ovf.nan then (0x80, fNV) else (if n then 0x83 else 0x03, fSAT)) ∧
    (fmtInt dt = true → r = (wrapNat (if n then (if fmtSigned dt then -((2 ^ (fmtWidth dt - 1) : Nat) : Int) else 0)
      else if fmtSigned dt then ((2 ^ (fmtWidth dt - 1) : Nat) : Int) - 1 else ((2 ^ fmtWidth dt : Nat) : Int) - 1) (fmtWidth dt), fSAT)) ∧
    (dt = B1 → r = (n.toNat, 0)) ∧ (dt = E8M0 → r = (0xFF, fNV)) ∧ (dt = UE4M3 → r = (0x7E, fSAT)))

/-- A conversion of a code of one format into another (R36 to R40). -/
def converted (dt st : Fmt) (m : RMode) (fz : Bool) (ovf : Ovf) (c : Nat) (r : Res) : Prop :=
  let v := readVal st fz c
  (nonZero v → ∀ b, binFmt dt = some b → rounded dt b m fz ovf (ratOf v) r) ∧
  (nonZero v → dt = D8 → m = .rn → toD8Result ovf v.neg (magOf v) r) ∧
  (nonZero v → fmtInt dt = true → m ≠ .ro → toIntegerResult dt (fmtInt st) (if fmtInt st then .rz else m) ovf.sat v r) ∧
  (nonZero v → dt = B1 → r = (v.neg.toNat, 0)) ∧
  (nonZero v → dt = E8M0 → m ≠ .ro → toE8M0Result m (magOf v) r) ∧
  (nonZero v → dt = UE4M3 → ∀ b, binFmt E4M3 = some b → rounded E4M3 b m fz ovf (magOf v) r) ∧
  (isZeroV v → r = (match binFmt dt with
    | some _ => (signBit dt v.neg, 0)
    | none => if dt = E8M0 then (0, fNX) else (0, 0))) ∧
  specialSource dt ovf v r

end Sys2Proof.Claims
end

