-- ==== Sys2Proof/Certificates/Slice0/Obligations.lean ====
section
/-! DEFINITION. The statements for the provers. -/

open Sys2Proof Sys2Proof.Machine Sys2Proof.Claims

/-- Integer arithmetic delivers the exact result of R116 in every active lane, wrapped or clamped, and raises no flag but SAT; division by zero gives all ones, and its remainder A; LEA shifts by 0 to 7 and adds to a pair (R117). Logic, shift and bit-field instructions deliver every bit of D as R118 and R119 give it, counts as numbers, and raise no flag. -/
def Obligations.IntegerAndLogicInstructionsDeliverExactResults : Prop :=
  ∀ o : MOps,
    integerResult (.addInt o) o (fun A B _ => A + B) ∧
    integerResult (.subInt o) o (fun A B _ => A - B) ∧
    integerResult (.mulInt o) o (fun A B _ => A * B) ∧
    integerResult (.mulhi o) o (fun A B _ => A * B / (2 ^ fmtWidth (tyOf o) : Nat)) ∧
    integerResult (.mad o) o (fun A B C => A * B + C) ∧
    integerResult (.madhi o) o (fun A B C => A * B / (2 ^ fmtWidth (tyOf o) : Nat) + C) ∧
    integerResult (.divInt o) o (fun A B _ =>
      if B = 0 then (if fmtSigned (tyOf o) then -1 else (2 ^ fmtWidth (tyOf o) : Nat) - 1) else A.tdiv B) ∧
    integerResult (.rem o) o (fun A B _ => if B = 0 then A else A - B * A.tdiv B) ∧
    integerResult (.minInt o) o (fun A B _ => if A ≤ B then A else B) ∧
    integerResult (.maxInt o) o (fun A B _ => if A ≤ B then B else A) ∧
    integerResult (.absInt o) o (fun A _ _ => if A < 0 then -A else A) ∧
    integerResult (.negInt o) o (fun A _ _ => -A) ∧
    integerResult (.sad o) o (fun A B C => (if A < B then B - A else A - B) + C) ∧
    exactResult (.dp4 o) o (fun s a L => intC a o L
      + element (tyOf o) 8 (opA s a o L) 0 * element (tyOf o) 8 (opB s a o L) 0 + element (tyOf o) 8 (opA s a o L) 1 * element (tyOf o) 8 (opB s a o L) 1
      + element (tyOf o) 8 (opA s a o L) 2 * element (tyOf o) 8 (opB s a o L) 2 + element (tyOf o) 8 (opA s a o L) 3 * element (tyOf o) 8 (opB s a o L) 3) ∧
    exactResult (.dp2 o) o (fun s a L => intC a o L
      + element (tyOf o) 16 (opA s a o L) 0 * element (tyOf o) 16 (opB s a o L) 0 + element (tyOf o) 16 (opA s a o L) 1 * element (tyOf o) 16 (opB s a o L) 1) ∧
    exactResult (.lea o) o (fun s a L => (valA s a o (.bits 2) L : Int)
      + (if tyOf o = I64 then sextNat (wordB s a o L) 32 else (wordB s a o L : Int)) * (2 ^ o.c.toNat : Nat)) ∧
    ((Instr.lea o).wf = true → o.c.toNat < 8 ∧ o.kc = false ∧ ∃ r, (o.a = .vec r ∨ o.a = .scal r) ∧ r.toNat % 2 = 0) ∧
    bitResult (.andB o) o (fun s a L j => (opA s a o L).testBit j && (opB s a o L).testBit j) ∧
    bitResult (.orB o) o (fun s a L j => (opA s a o L).testBit j || (opB s a o L).testBit j) ∧
    bitResult (.xor o) o (fun s a L j => (opA s a o L).testBit j != (opB s a o L).testBit j) ∧
    bitResult (.notB o) o (fun s a L j => !(opA s a o L).testBit j) ∧
    bitResult (.andn o) o (fun s a L j => (opA s a o L).testBit j && !(opB s a o L).testBit j) ∧
    bitResult (.bitf o) o (fun s a L j => o.c.toNat.testBit
      (4 * ((opA s a o L).testBit j).toNat + 2 * ((opB s a o L).testBit j).toNat + ((a.vN o.d.toNat L (tyRegs o)).testBit j).toNat)) ∧
    bitResult (.shl o) o (fun s a L j => leftBit (opA s a o L) (wordB s a o L) j) ∧
    bitResult (.shr o) o (fun s a L j => rightBit (tyOf o) (opA s a o L) (wordB s a o L) j) ∧
    bitResult (.shf o) o (fun s a L j => (srcValue s a (.bits 1) L o.b * 2 ^ 32 + wordA s a o L).testBit
      (j + (match o.lit with | some w => w.toNat | none => wordC a o L) % 64)) ∧
    bitResult (.rot o) o (fun s a L j =>
      (opA s a o L).testBit ((j + fmtWidth (tyOf o) - wordB s a o L % fmtWidth (tyOf o)) % fmtWidth (tyOf o))) ∧
    bitResult (.brev o) o (fun s a L j => (opA s a o L).testBit (fmtWidth (tyOf o) - 1 - j)) ∧
    bitResult (.bfe o) o (fun s a L j => extractBit (tyOf o) (opA s a o L) (wordB s a o L) j) ∧
    bitResult (.bfi o) o (fun s a L j => insertBit (opA s a o L) (opB s a o L) (wordC a o L) j) ∧
    bitResult (.prmb o) o (fun s a L j => permuteBit (wordA s a o L) (wordB s a o L) (wordC a o L) j) ∧
    copyResult (.popc o) o 1 (fun s a L => ((List.range (fmtWidth (tyOf o))).filter (fun j => (opA s a o L).testBit j)).length) ∧
    copyResult (.clz o) o 1 (fun s a L => if opA s a o L = 0 then fmtWidth (tyOf o) else fmtWidth (tyOf o) - 1 - Nat.log2 (opA s a o L))

/-- Rounding and conversion, in the rules' own terms and for every format, mode, setting of FZ and operand: the exact result of an addition, product, FMA, division, DOT2, scaling, RCP, SQRT or RSQ is rounded once, to the nearest value with ties to even or in the directed mode; overflow, tiny results, FZ and the flags are judged on the exact value; zeros, infinities and NaNs are as stated; every conversion delivers the rounded, nearest, clamped or wrapped value and its flags (R29, R34 to R40, R41, R120, R121, R123, R125, R139, R140). The other values of the special functions that are not rational or a root stand in O5 (log 12). -/
def Obligations.RoundingAndConversionFollowTheRules : Prop :=
  (∀ f ∈ [FP64, FP32, BF16, FP16], ∀ b, binFmt f = some b → ∀ m fz, arithmetic f b m fz) ∧
  (∀ f ∈ [FP64, FP32], ∀ b, binFmt f = some b → ∀ m fz, valueParts f b m fz) ∧
  (∀ b, binFmt FP32 = some b → ∀ m fz A B C D E, number A → number B → number C → number D → number E →
    rounded FP32 b m fz plain (ratOf A * ratOf B + ratOf C * ratOf D + ratOf E) (fpDot2 m fz A B C D E)) ∧
  (∀ f ∈ [BF16, FP16], ∀ b, binFmt f = some b → ∀ fz,
    specialValues f b fz (roundedTo f b .rn fz plain) (fun fn c => specialCode fn f fz c) ∧
    specialPoints f b fz (roundedTo f b .rn fz plain) (fun fn c => specialCode fn f fz c)) ∧
  (∀ b, binFmt FP32 = some b → ∀ fz,
    specialValues FP32 b fz (faithful FP32 b fz) (fun fn c => specialCode fn FP32 fz c) ∧
    specialPoints FP32 b fz (faithful FP32 b fz) (fun fn c => specialCode fn FP32 fz c) ∧
    (∀ fn c d, readVal FP32 fz c = readVal FP32 fz d → specialCode fn FP32 fz c = specialCode fn FP32 fz d)) ∧
  (∀ b, binFmt FP64 = some b → ∀ m fz, specialValues FP64 b fz (roundedTo FP64 b m fz plain) (fun fn c => specialF64 fn m fz c)) ∧
  (∀ dt st m fz ovf c, converted dt st m fz ovf c (convertCode dt st m fz ovf c))

/-- FP32 and FP64 arithmetic: the functions of R120 to R123 in every active lane, rounded once in the selected mode, with the flags they raise. -/
def Obligations.FloatingPointInstructionsDeliverTheirFunctions : Prop :=
  ∀ o : MOps,
    fpResult (.addFp o) o (fun m z A B _ => fpAdd (tyOf o) (binOf (tyOf o)) m z A B) ∧
    fpResult (.subFp o) o (fun m z A B _ => fpAdd (tyOf o) (binOf (tyOf o)) m z A B.negate) ∧
    fpResult (.mulFp o) o (fun m z A B _ => fpMul (tyOf o) (binOf (tyOf o)) m z A B) ∧
    fpResult (.fmaFp o) o (fun m z A B C => fpFma (tyOf o) (binOf (tyOf o)) m z A B C) ∧
    fpResult (.divFp o) o (fun m z A B _ => divVal (tyOf o) (binOf (tyOf o)) m z A B) ∧
    fpResult (.minFp o) o (fun _ _ A B _ => fpMinMax (tyOf o) false A B) ∧
    fpResult (.maxFp o) o (fun _ _ A B _ => fpMinMax (tyOf o) true A B) ∧
    fpResult (.clampFp o) o (fun _ _ A B C => fpClamp (tyOf o) A B C) ∧
    fpResult (.frc o) o (fun _ _ A _ _ => fpFrc (tyOf o) A) ∧
    fpResult (.rndi o) o (fun m _ A _ _ => fpRndi (tyOf o) m A) ∧
    fpResult (.getexp o) o (fun _ _ A _ _ => fpGetexp (tyOf o) (binOf (tyOf o)) A) ∧
    fpResult (.getman o) o (fun _ _ A _ _ => fpGetman (tyOf o) A) ∧
    vectorResult (.scalb o) o (tyRegs o) (fun s a _ L =>
      fpScalb (tyOf o) (binOf (tyOf o)) (rmOf a o) a.fz (fpA s a o L) (sextNat (wordB s a o L) 32)) ∧
    copyResult (.absFp o) o (tyRegs o) (fun s a L => valA s a o (.fp (tyOf o)) L % 2 ^ (fmtWidth (tyOf o) - 1)) ∧
    copyResult (.negFp o) o (tyRegs o) (fun s a L => valA s a o (.fp (tyOf o)) L ^^^ 2 ^ (fmtWidth (tyOf o) - 1))

/-- Packed FP16 and BF16: each element follows the matching FP32 and FP64 entry, independently (R124); DOT2 adds two exact products to C and rounds once (R125). -/
def Obligations.PackedInstructionsWorkElementByElement : Prop :=
  ∀ o : MOps,
    packedResult (.addPacked o) o (fun m z A B _ => fpAdd (tyOf o) (binOf (tyOf o)) m z A B) ∧
    packedResult (.subPacked o) o (fun m z A B _ => fpAdd (tyOf o) (binOf (tyOf o)) m z A B.negate) ∧
    packedResult (.mulPacked o) o (fun m z A B _ => fpMul (tyOf o) (binOf (tyOf o)) m z A B) ∧
    packedResult (.fmaPacked o) o (fun m z A B C => fpFma (tyOf o) (binOf (tyOf o)) m z A B C) ∧
    packedResult (.minPacked o) o (fun _ _ A B _ => fpMinMax (tyOf o) false A B) ∧
    packedResult (.maxPacked o) o (fun _ _ A B _ => fpMinMax (tyOf o) true A B) ∧
    packedResult (.clampPacked o) o (fun _ _ A B C => fpClamp (tyOf o) A B C) ∧
    copyResult (.absPacked o) o 1 (fun s a L => valA s a o (.pk (tyOf o)) L % 2 ^ 15 + 2 ^ 16 * (valA s a o (.pk (tyOf o)) L / 2 ^ 16 % 2 ^ 15)) ∧
    copyResult (.negPacked o) o 1 (fun s a L => valA s a o (.pk (tyOf o)) L ^^^ 0x80008000) ∧
    vectorResult (.dot2 o) o 1 (fun s a _ L =>
      fpDot2 (rmOf a o) a.fz (pkA s a o L 0) (pkB s a o L 0) (pkA s a o L 1) (pkB s a o L 1) (readVal FP32 a.fz (wordC a o L)))

/-- The special functions: their FP32 and packed 16-bit forms, and RCP and SQRT in FP64 (R138 to R140). The values that R139 leaves between two neighbours are free (log 12). -/
def Obligations.SpecialFunctionsDeliverTheirValues : Prop :=
  ∀ o : MOps,
    specialResult (.ex2 o) o .ex2 ∧ specialResult (.lg2 o) o .lg2 ∧ specialResult (.rcp o) o .rcp ∧ specialResult (.rsq o) o .rsq ∧
    specialResult (.sqrt o) o .sqrt ∧ specialResult (.sinPi o) o .sinPi ∧ specialResult (.cosPi o) o .cosPi ∧
    specialResult (.tanh o) o .tanh ∧ specialResult (.sigm o) o .sigm ∧ specialResult (.erf o) o .erf

/-- Conversions: CVT writes the conversion of A's element 0; PACK replaces one element of D and keeps the rest; UNPACK converts one element; between a 6-bit format and itself they move 16 elements between the byte form and the dense form (R130 to R133). -/
def Obligations.ConversionsDeliverTheirElements : Prop :=
  ∀ o : MOps,
    conversionResult (.cvt o) o (tyRegs o) (fun s a L => convertCode (tyOf o) (stOf o) (rmOf a o) a.fz (ovfOf o) (cvtSrc s a o L)) ∧
    (isDense o = false → conversionResult (.pack o) o 1 (fun s a L =>
      if wordB s a o L < 32 / elemBits (tyOf o) then
        let r := convertCode (tyOf o) (stOf o) (rmOf a o) a.fz (ovfOf o) (cvtSrc s a o L)
        (putBits (a.v o.d.toNat L).toNat (elemBits (tyOf o) * wordB s a o L) (elemBits (tyOf o)) r.1, r.2)
      else ((a.v o.d.toNat L).toNat, 0))) ∧
    (isDense o = false → conversionResult (.unpack o) o (tyRegs o) (fun s a L =>
      if wordB s a o L < 32 / elemBits (stOf o) then
        convertCode (tyOf o) (stOf o) (rmOf a o) a.fz (ovfOf o)
          (srcValue s a (.bits 1) L o.a / 2 ^ (elemBits (stOf o) * wordB s a o L) % 2 ^ fmtWidth (stOf o))
      else (0, 0))) ∧
    (isDense o = true → copyResult (.pack o) o 4 (fun s a L => bitsN 128 (denseBit (srcValue s a (.bits 4) L o.a)))) ∧
    (isDense o = true → copyResult (.unpack o) o 4 (fun s a L => bitsN 128 (byteBit (srcValue s a (.bits 4) L o.a))))

/-- SEL, MOV and PRD copy bits and raise no flag; SETP, PLOP, CLASS and FIRST write one predicate of each active lane; PWR sets p1 to p7 where B has a 1 (R126 to R129, R147). -/
def Obligations.SelectMoveAndPredicateInstructionsWriteTheirValues : Prop :=
  (∀ o : MOps,
     copyResult (.sel o) o (tyRegs o) (fun s a L =>
       if (a.p (o.c.toNat % 8)).getLsbD L != o.c.getLsbD 3 then opA s a o L else opB s a o L) ∧
     copyResult (.mov o) o (tyRegs o) (fun s a L => match o.lit with | some w => litValue (intTy o) w | none => opA s a o L) ∧
     copyResult (.prd o) o 1 (fun _ a L => bitsN 8 (fun k => (a.p k).getLsbD L))) ∧
  (∀ o : MOps,
     predicateResult (.setp o) o (fun s a _ L =>
       if tyOf o = FP32 ∨ tyOf o = FP64 then ccFp (modLow o) (fpA s a o L) (fpB s a o L)
       else (ccInt (modLow o) (intA s a o L) (intB s a o L), 0)) ∧
     predicateResult (.plop o) o (fun _ a _ L =>
       (o.mod.getLsbD (4 * ((a.p (o.a.field.toNat % 8)).getLsbD L).toNat + 2 * ((a.p (o.b.field.toNat % 8)).getLsbD L).toNat
         + ((a.p (o.c.toNat % 8)).getLsbD L).toNat), 0)) ∧
     predicateResult (.class o) o (fun s a _ L => (classBits (tyOf o) (valA s a o (.fp (tyOf o)) L) &&& (wordB s a o L % 1024) != 0, 0)) ∧
     predicateResult (.first o) o (fun _ _ m L => ((if o.mod.getLsbD 0 then (lanesOf m).getLast? else (lanesOf m).head?) == some L, 0))) ∧
  (∀ (o : MOps) s id b a p, s.running = some (id, b, a, p) → a.active p o.g ≠ 0 →
     ∃ a', exec (.pwr o) s = .next (s.setAgent id a') ∧ (a.account s (.pwr o)).counted s a' ∧ (a.account s (.pwr o)).movedPast b p (.pwr o) a'
       ∧ (∀ k L, L < 64 → (a'.p k).getLsbD L =
           if 1 ≤ k ∧ k ≤ 7 ∧ (a.active p o.g).getLsbD L = true ∧ (wordB s a o L).testBit k = true then (wordA s a o L).testBit k else (a.p k).getLsbD L)
       ∧ a'.vregs = a.vregs ∧ a'.sregs = a.sregs ∧ a'.fpc = a.fpc)

/-- The scalar group computes once for the warp, from lane-independent operands, into sD (R148, R149). -/
def Obligations.ScalarInstructionsWriteOneResult : Prop :=
  ∀ o : MOps,
    scalarInteger (.sadd o) o (fun A B => A + B) ∧
    scalarInteger (.ssub o) o (fun A B => A - B) ∧
    scalarInteger (.smul o) o (fun A B => A * B) ∧
    scalarInteger (.smin o) o (fun A B => if A ≤ B then A else B) ∧
    scalarInteger (.smax o) o (fun A B => if A ≤ B then B else A) ∧
    scalarBits (.sand o) o (fun s a j => (opA s a o 0).testBit j && (opB s a o 0).testBit j) ∧
    scalarBits (.sor o) o (fun s a j => (opA s a o 0).testBit j || (opB s a o 0).testBit j) ∧
    scalarBits (.sxor o) o (fun s a j => (opA s a o 0).testBit j != (opB s a o 0).testBit j) ∧
    scalarBits (.sshl o) o (fun s a j => leftBit (opA s a o 0) (wordB s a o 0) j) ∧
    scalarBits (.sshr o) o (fun s a j => rightBit (tyOf o) (opA s a o 0) (wordB s a o 0) j) ∧
    scalarCopy (.smov o) o (tyRegs o) (fun s a _ => match o.lit with | some w => litValue (intTy o) w | none => opA s a o 0) ∧
    scalarCopy (.scmp o) o 1 (fun s a _ => if ccInt (o.c.toNat % 8) (intA s a o 0) (intB s a o 0) then 1 else 0) ∧
    scalarCopy (.ssel o) o (tyRegs o) (fun s a _ => if wordC a o 0 ≠ 0 then opA s a o 0 else opB s a o 0) ∧
    scalarCopy (.spopc o) o 1 (fun s a _ => ((List.range (fmtWidth (tyOf o))).filter (fun j => (opA s a o 0).testBit j)).length) ∧
    scalarCopy (.rdlane o) o (tyRegs o) (fun s a p =>
      if wordB s a o 0 < a.width ∧ wordB s a o 0 < 64 ∧ p.mask.getLsbD (wordB s a o 0) = true then opA s a o (wordB s a o 0) else 0)

/-- Cross-lane instructions: each active lane's result from the values that the active lanes held before it, and no other lane's (R141 to R147). -/
def Obligations.CrossLaneInstructionsReadActiveLanes : Prop :=
  ∀ o : MOps,
    vectorResult (.xlane o) o (if o.mod.getLsbD 2 then 2 else 1) (fun s a m L =>
      let n := if o.mod.getLsbD 2 then 2 else 1
      let j : Int := laneNumber (o.mod.toNat % 4) L (wordB s a o L)
      (if 0 ≤ j ∧ j < a.width ∧ j < 64 ∧ m.getLsbD j.toNat = true then valA s a o (.bits n) j.toNat
        else if o.mod.getLsbD 3 then 0 else valA s a o (.bits n) L, 0)) ∧
    vectorResult (.spread o) o (if o.mod.getLsbD 0 then 2 else 1) (fun s a m _ =>
      (valA s a o (.bits (if o.mod.getLsbD 0 then 2 else 1)) (((if o.mod.getLsbD 1 then (lanesOf m).getLast? else (lanesOf m).head?)).getD 0), 0)) ∧
    (o.mod.toNat = 0 → predicateResult (.pcomb o) o (fun _ a m _ => (holding a o m == m, 0))) ∧
    (o.mod.toNat = 1 → predicateResult (.pcomb o) o (fun _ a m _ => (holding a o m != 0, 0))) ∧
    (o.mod.toNat = 2 → predicateResult (.pcomb o) o (fun _ a m _ => (holding a o m == 0 || holding a o m == m, 0))) ∧
    (o.mod.toNat = 3 → vectorResult (.pcomb o) o 2 (fun _ a m _ => ((holding a o m).toNat, 0))) ∧
    (o.mod.toNat = 4 → vectorResult (.pcomb o) o 1 (fun _ a m _ => ((lanesOf (holding a o m)).length, 0))) ∧
    (o.mod.toNat % 4 = 0 → vectorResult (.eqset o) o 2 (fun s a m L => ((laneClass s a o m L).toNat, 0))) ∧
    (o.mod.toNat % 4 = 1 → predicateResult (.eqset o) o (fun s a m L => (laneClass s a o m L == m, 0))) ∧
    (o.mod.toNat % 4 = 2 → predicateResult (.eqset o) o (fun s a m L => ((lanesOf (laneClass s a o m L)).head? == some L, 0))) ∧
    vectorResult (.scan o) o (tyRegs o) (fun s a m L =>
      redCombine a o (((lanesOf (contributing a o m)).filter (fun k => decide (k < L) || (decide (k = L) && !redExcl o))).map (redVal s a o))) ∧
    (o.kd = false → vectorResult (.red o) o (tyRegs o) (fun s a m _ => redCombine a o ((lanesOf (contributing a o m)).map (redVal s a o)))) ∧
    (o.kd = true → scalarResult (.red o) o (tyRegs o) (fun s a p => redCombine a o ((lanesOf (contributing a o p.mask)).map (redVal s a o))))

/-- Every short arithmetic, logic and move instruction has the result of its M form with the operands that R93 states: type, sources, and I4 as -8 to 7 or 0 to 15. -/
def Obligations.ShortInstructionsFollowTheirMForm : Prop :=
  ∀ o : SOps,
    integerResult (.addI32SImm o) (mForm o 0x90 false (.vec o.a) (.imm (o.i4.signExtend 8))) (fun A B _ => A + B) ∧
    integerResult (.addI32S o) (mForm o 0x90 false (.vec o.d) (.vec o.a)) (fun A B _ => A + B) ∧
    integerResult (.subI32S o) (mForm o 0x90 false (.vec o.d) (.vec o.a)) (fun A B _ => A - B) ∧
    bitResult (.shlB32S o) (mForm o 0x98 false (.vec o.a) (.imm (o.i4.zeroExtend 8))) (fun _ a L j => leftBit (a.v o.a.toNat L).toNat o.i4.toNat j) ∧
    bitResult (.shrN32S o) (mForm o 0x98 false (.vec o.a) (.imm (o.i4.zeroExtend 8))) (fun _ a L j => rightBit N32 (a.v o.a.toNat L).toNat o.i4.toNat j) ∧
    bitResult (.shrI32S o) (mForm o 0x90 false (.vec o.a) (.imm (o.i4.zeroExtend 8))) (fun _ a L j => rightBit I32 (a.v o.a.toNat L).toNat o.i4.toNat j) ∧
    bitResult (.andB32S o) (mForm o 0x98 false (.vec o.d) (.vec o.a)) (fun _ a L j => (a.v o.d.toNat L).getLsbD j && (a.v o.a.toNat L).getLsbD j) ∧
    bitResult (.orB32S o) (mForm o 0x98 false (.vec o.d) (.vec o.a)) (fun _ a L j => (a.v o.d.toNat L).getLsbD j || (a.v o.a.toNat L).getLsbD j) ∧
    bitResult (.xorB32S o) (mForm o 0x98 false (.vec o.d) (.vec o.a)) (fun _ a L j => (a.v o.d.toNat L).getLsbD j != (a.v o.a.toNat L).getLsbD j) ∧
    fpResult (.addF32S o) (mForm o 0x08 false (.vec o.d) (.vec o.a)) (fun _ z A B _ => fpAdd FP32 (binOf FP32) .rn z A B) ∧
    fpResult (.mulF32S o) (mForm o 0x08 false (.vec o.d) (.vec o.a)) (fun _ z A B _ => fpMul FP32 (binOf FP32) .rn z A B) ∧
    copyResult (.movSVector o) (mForm o 0x98 false (.vec o.a) (.vec 0)) 1 (fun _ a L => (a.v o.a.toNat L).toNat) ∧
    copyResult (.movSScalar o) (mForm o 0x98 false (.scal o.a) (.vec 0)) 1 (fun _ a _ => (a.s o.a.toNat).toNat) ∧
    copyResult (.movSImm o) (mForm o 0x98 false (.imm (o.i4.signExtend 8)) (.vec 0)) 1 (fun _ _ _ => (o.i4.signExtend 32).toNat) ∧
    copyResult (.movSSpecial o) (mForm o 0x98 false (.spec o.a) (.vec 0)) 1 (fun s a L => specialValue s a L o.a.toNat) ∧
    scalarInteger (.saddI32SImm o) (mForm o 0x90 true (.scal o.a) (.imm (o.i4.signExtend 8))) (fun A B => A + B) ∧
    scalarCopy (.smovS o) (mForm o 0x98 true (.scal o.a) (.vec 0)) 1 (fun _ a _ => (a.s o.a.toNat).toNat) ∧
    scalarCopy (.smovSImm o) (mForm o 0x98 true (.imm (o.i4.signExtend 8)) (.vec 0)) 1 (fun _ _ _ => (o.i4.signExtend 32).toNat) ∧
    scalarCopy (.smovSSpecial o) (mForm o 0x98 true (.spec o.a) (.vec 0)) 1 (fun s a _ => specialValue s a 0 o.a.toNat)

/-- An instruction with no active lane issues, and writes no register, predicate or memory, raises no flag and starts nothing; the same of a warp instruction under !p0. What an encoding alone shows to be wrong, a literal target that is no multiple of 4 or a CALL that does not end its clause, traps even so, as the statements about them say (R82, R86); the same of their short forms (R93). -/
def Obligations.NoActiveLaneChangesNothing : Prop :=
  (∀ i ∈ perLane, ∀ (o : MOps) s id b a p, s.running = some (id, b, a, p) → a.active p o.g = 0 → nothingElse (i o) s id b a p) ∧
  (∀ i ∈ oncePerWarp, ∀ (o : MOps) s id b a p, s.running = some (id, b, a, p) → o.g.neg = true → nothingElse (i o) s id b a p) ∧
  (∀ i ∈ [Instr.bar, .barArv], ∀ (o : MOps) s id b a p, s.running = some (id, b, a, p) → a.active p o.g = 0 → nothingElse (i o) s id b a p) ∧
  (∀ (o : MOps) s id b a p, s.running = some (id, b, a, p) → a.active p o.g = 0 →
     ((litTarget p o).toNat % 4 = 0 → nothingElse (.bra o) s id b a p) ∧ (p.last = true → (litTarget p o).toNat % 4 = 0 → nothingElse (.call o) s id b a p) ∧
     (p.last = true → nothingElse (.callR o) s id b a p)) ∧
  (∀ (o : MOps) s id b a p, s.running = some (id, b, a, p) → o.g.neg = true → (litTarget p o).toNat % 4 = 0 → nothingElse (.jmp o) s id b a p) ∧
  (∀ i ∈ shortPerLane, ∀ (o : SOps) s id b a p, s.running = some (id, b, a, p) → a.active p o.g = 0 → nothingElse (i o) s id b a p) ∧
  (∀ i ∈ shortOncePerWarp, ∀ (o : SOps) s id b a p, s.running = some (id, b, a, p) → o.g.neg = true → nothingElse (i o) s id b a p) ∧
  (∀ (o : MOps) s id b a p, s.running = some (id, b, a, p) → o.kd = false → a.active p o.g = 0 → nothingElse (.red o) s id b a p) ∧
  (∀ (o : MOps) s id b a p, s.running = some (id, b, a, p) → o.kd = true → o.g.neg = true → nothingElse (.red o) s id b a p)

/-- CVT.Q converts each lane's value times 2^n with n from the ring's maximum, read before the record is made; AMAX reads, records, advances, clears and scales. That AMAX.REC reads C under FZ before the maximum is the model's choice (log 33). A ring of another VF reads +0 and is counted. The scale's n is floor(log2(Fmax / rmax)), exact, held to -127 to 127, and 0 for a zero maximum (R134 to R136). -/
def Obligations.AmaxRingsAreReadBeforeTheyAreUpdated : Prop :=
  (∀ (o : MOps) s id b a p, s.running = some (id, b, a, p) →
    (a.active p o.g ≠ 0 → wordB s a o 0 ≤ 63 → ∀ t m, ringTop s a (wordB s a o 0) t →
      largestFinite ((lanesOf (a.active p o.g)).map (fun L => readVal (stOf o) a.fz (cvtSrc s a o L))) m →
      ∃ S, vectorIn (.cvtQ o) o s S id b a p 1 (fun L =>
          convertVal (dtOf o) (rmOf a o) a.fz (ovfOf o) (scaleVal (quantScale (dtOf o) t) (readVal (stOf o) a.fz (cvtSrc s a o L))))
        ∧ ringDone s a (wordB s a o 0) (match m with | some x => recordMax x | none => fun x => x) S) ∧
    (o.g.neg = false → wordA s a o 0 ≤ 63 → ∀ t, ringTop s a (wordA s a o 0) t →
      (∃ S, scalarIn (.amaxRd o) o s S id b a p 1 t ∧ ringDone s a (wordA s a o 0) (fun x => x) S) ∧
      (∃ S, scalarIn (.amaxScl o) o s S id b a p 1 (127 - quantScale (tyOf o) t).toNat ∧ ringDone s a (wordA s a o 0) (fun x => x) S)) ∧
    (a.active p o.g ≠ 0 → wordA s a o 0 ≤ 63 →
      (∀ m, largestFinite ((lanesOf (a.active p o.g)).map (fun L => readVal FP32 a.fz (wordC a o L))) m →
        ∃ S, becomes (.amaxRec o) s S id b (a.account s (.amaxRec o)) p ∧ ringDone s a (wordA s a o 0) (match m with | some x => recordMax x | none => fun x => x) S) ∧
      (∃ S, becomes (.amaxAdv o) s S id b (a.account s (.amaxAdv o)) p
        ∧ ringDone s a (wordA s a o 0) (fun x => { x with head := (x.head + 1) % 16, entries := x.entries.set ((x.head + 1) % 16) 0 }) S) ∧
      (∃ S, becomes (.amaxClr o) s S id b (a.account s (.amaxClr o)) p
        ∧ ringDone s a (wordA s a o 0) (fun x => { x with head := 0, entries := List.replicate 16 0 }) S)) ∧
    (a.active p o.g ≠ 0 → wordB s a o 0 > 63 → exec (.cvtQ o) s = .next (s.illop id b p (a.active p o.g)))) ∧
  (∀ dt fmax2, (dt, fmax2) ∈ [(E4M3, 896), (E5M2, 114688), (E3M2, 56), (E2M3, 15), (E2M1, 12), (0x0A, 254), (0x0C, 14)] →
    quantScale dt 0 = 0 ∧
    ∀ rmax m e, decodeVal FP32 rmax = .fin false m e → 0 < m →
      ∃ k : Int, quantScale dt rmax = max (-127) (min 127 k)
        ∧ 2 * m * 2 ^ (e + k).toNat ≤ fmax2 * 2 ^ (-(e + k)).toNat
        ∧ fmax2 * 2 ^ (-(e + k + 1)).toNat < 2 * m * 2 ^ (e + k + 1).toNat)

/-- Reads of one instruction, each by its own thread, are recorded and change nothing else. Where no event precedes them they return memory. Otherwise one write of each location serves them all; each read names the last write of each of its locations, or a write that the axioms allow with what it happens after, and the bytes are those that the named write wrote, or the initial ones. A lane never misses a write of its own that is the location's last. Which of the allowed writes is taken is free (R154, R270 to R272, R277; log 2). -/
def Obligations.ReadsReturnWhatTheMemoryRulesAllow : Prop :=
  ∀ (s : State) (l : List (Ev × List Spot)), (∀ y ∈ l, y.1.writes = []) →
    let v := s.sight l
    v.1 = { s with events := v.1.events } ∧
    (s.events = [] → v = (s, [])) ∧
    (s.events ≠ [] → recorded s v.1 ((l.filter (fun y => !y.2.isEmpty)).map (fun y => (y.1.party, y.1.acc, y.2, [])))) ∧
    (∀ new e old, v.1.events = new ++ e :: old → s.events.length ≤ old.length →
      (∀ r ∈ e.reads, r.2 = ((State.writersAt { s with events := old } r.1).head?).map (fun w => w.id)) ∨ mayRead old e = true) ∧
    (∀ z ∈ v.2, ∃ k, 0 < k ∧ z.2 = s.byteBack z.1 k ∧ ∀ new e old, v.1.events = new ++ e :: old → s.events.length ≤ old.length →
      ∀ r ∈ e.reads, r.1 = z.1 → r.2 = (s.writeBack z.1 k).map (fun w => w.id)) ∧
    (∀ y ∈ l, ∀ g L x w r, y.1.party.tid = .lane g L → x ∈ y.2 → s.writersAt x = w :: r → w.party.tid = .lane g L →
      w.id < s.nextEv → w.rank < s.nextEv → (∀ u ∈ r, u.id < s.nextEv ∧ coAt s.events x u.id < w.coKey x) → s.byteIn v.2 x = s.spotByte x)

/-- Global loads read each active lane's bytes at A + sext(B), little-endian, as the rules of memory allow, extend them, and will write D when the operation completes; SLD reads once for the agent, for its lowest lane; PRF starts an operation that writes nothing (R150, R151, R158 to R160). That a load reads its bytes at issue and writes its register at completion, and that a grid warp's SLD is the read of its lowest lane's thread, are the model's readings (log 2). -/
def Obligations.LoadsReadTheirBytes : Prop :=
  (∀ o : MOps,
     globalLoad (.ldB32 o) o 4 1 id ∧ globalLoad (.ldB64 o) o 8 2 id ∧ globalLoad (.ldB128 o) o 16 4 id ∧ globalLoad (.ldN8 o) o 1 1 id ∧
     globalLoad (.ldI8 o) o 1 1 (fun x => wrapNat (sextNat x 8) 32) ∧ globalLoad (.ldN16 o) o 2 1 id ∧
     globalLoad (.ldI16 o) o 2 1 (fun x => wrapNat (sextNat x 16) 32)) ∧
  (∀ (o : MOps) s id b a p, s.running = some (id, b, a, p) →
     (o.g.neg = false → ∀ l t, let n := if o.c.toNat % 2 = 1 then 2 else 1
       globAddr s a o (lowLane p.mask) % (4 * n) = 0 → reaches s id b a needR (globAddr s a o (lowLane p.mask)) l → s.sound l (4 * n) = true →
       (s.forget (.slot id b)).trackLines a ((lanesOf p.mask).map (fun L => (L, l.line))) = some t →
       let seen := t.sight [t.laneRead id a (lowLane p.mask) .glob (s.accAt (memAcc o false) l) (globAddr s a o (lowLane p.mask)) (l.spots (4 * n))]
       becomes (.sld o) s { seen.1 with nextId := s.nextId + 1 } id b ((a.account s (.sld o)).startOp (opOf s b (p.flagOf o.fs) [] [(o.d.toNat, n)]
         (scalWrites o.d.toNat n (ofBytes (t.readLane id a (lowLane p.mask) .glob (globAddr s a o (lowLane p.mask)) (t.loadIn seen.2 l (4 * n))))))) p
       ∧ t = { s with waits := t.waits, fails := t.fails, recs := t.recs }) ∧
     (a.active p o.g ≠ 0 →
       becomes (.prf o) s { s with nextId := s.nextId + 1 } id b ((a.account s (.prf o)).startOp (opOf s b (p.flagOf o.fs) [] [] [])) p))

/-- Global stores leave in every byte of memory what the highest lane that covers it stores, and every other byte as it was (R154, R159). -/
def Obligations.GlobalStoresWriteTheirBytesAndNoOthers : Prop :=
  ∀ o : MOps,
    globalStore (.stB8 o) o 1 1 ∧ globalStore (.stB16 o) o 2 1 ∧ globalStore (.stB32 o) o 4 1 ∧ globalStore (.stB64 o) o 8 2 ∧ globalStore (.stB128 o) o 16 4

/-- In a wave whose tasks are not irrevocable, stores and atomics without a result, to global and to group memory, leave memory as it was and add one entry a lane to the tasks' buffers (R157, R305). A returning atomic, a returning DEP.DEC or DEP.ADD, a SPAWN, a WIN.PUB, a ring or matrix instruction, and the instruction that would need a 33rd entry, first make their tasks irrevocable: it stays while a task is speculative or entries are still to be performed, among them a FORK that finds no free record; then it performs directly (R307, R312). -/
def Obligations.TasksBufferTheirWrites : Prop :=
  (∀ o : MOps,
    (∀ x ∈ [(Instr.stB8, 1, 1), (.stB16, 2, 1), (.stB32, 4, 1), (.stB64, 8, 2), (.stB128, 16, 4)],
      bufferedWrite (x.1 o) o needW x.2.1
        (fun s a L l => storeEntry .glob (s.accAt (memAcc o true) l) (globAddr s a o L) (bytesOf (valC a o x.2.2 L) x.2.1) l.block)
        (fun s ws l => s.writeSound ws (l, x.2.1) = true)) ∧
    (∀ x ∈ [(Instr.atomAddInt, AtomOp.addInt), (.atomAddFp, .addFp), (.atomMinI, .minI), (.atomMinN, .minN), (.atomMaxI, .maxI), (.atomMaxN, .maxN),
        (.atomAnd, .and), (.atomOr, .or), (.atomXor, .xor), (.atomXchg, .xchg), (.atomCas, .cas), (.atomInc, .inc), (.atomDec, .dec)],
      let entry (sp : Space) (va : Nat) (a : Agent) (L : Nat) (l : Loc) : BufEntry := .atom sp (atomAcc o) x.2 (atomW64 o) va
        (if x.2 = .cas then opndNext o a L else opndC o a L) (if x.2 = .cas then opndC o a L else 0) a.fz l
      (atomNr o = true → atomGm o = false →
        bufferedWrite (x.1 o) o needRW (atomBytes o) (fun s a L l => entry .glob (globAddr s a o L) a L l) (fun s _ l => s.sound l (atomBytes o) = true)) ∧
      (atomNr o = true → atomGm o = true →
        bufferedGroupWrite (x.1 o) o (atomBytes o) (fun s a L => (gmAddr s a o L, some (gmAddr s a o L))) (fun _ => True)
          (fun s a L => entry .gm (gmAddr s a o L) a L (.dev 0)) true) ∧
      (∀ s id b a p, irrevocableFirst (x.1 o) s id b a p (a.active p o.g)
        (if atomNr o then s.overflow a (a.active p o.g) (fun L => entry (if atomGm o then .gm else .glob) (if atomGm o then gmAddr s a o L else globAddr s a o L) a L (.dev 0))
          else s.softLanes a (a.active p o.g)) (fun _ => True))) ∧
    (let stored (s : State) (a : Agent) (L : Nat) (at' : Nat × Option Nat) : BufEntry :=
        storeEntry .gm (gmAcc o true) (at'.2.getD at'.1) (bytesOf (valC a o (gmRegCount o) L) (gmSize o)) (.dev 0)
     bufferedGroupWrite (.stGm o) o (gmSize o) (fun s a L => (gmAddr s a o L, some (gmAddr s a o L))) (fun _ => True)
        (fun s a L => stored s a L (gmAddr s a o L, some (gmAddr s a o L))) false ∧
     (∀ r v, o.a = .scal r → o.b = .vec v →
        bufferedGroupWrite (.stl o) o (gmSize o) (layAddr o) (fun a => layoutOk (layoutWord a r.toNat) (o.mod.toNat / 32) = true)
          (fun s a L => stored s a L (layAddr o s a L)) false))) ∧
  (∀ (o : MOps) s id b a p,
    let m := a.active p o.g
    let soft := s.softLanes a m
    let one (va : Nat) : BufEntry := storeEntry .glob (memAcc o true) va [0] (.dev 0)
    let gone (at' : Nat × Option Nat) : BufEntry := storeEntry .gm (gmAcc o true) (at'.2.getD at'.1) [0] (.dev 0)
    let entryOk (S : State) : Prop := entryIn S a (entryOf s a o) ∧ entryOf S a o = entryOf s a o
    (∀ i ∈ [Instr.stB8, .stB16, .stB32, .stB64, .stB128], irrevocableFirst (i o) s id b a p m (s.overflow a m (fun L => one (globAddr s a o L))) (fun _ => True)) ∧
    irrevocableFirst (.stGm o) s id b a p m (s.overflow a m (fun L => gone (gmAddr s a o L, some (gmAddr s a o L)))) (fun _ => True) ∧
    (∀ r v, o.a = .scal r → o.b = .vec v →
      irrevocableFirst (.stl o) s id b a p m (s.overflow a m (fun L => gone (layAddr o s a L))) (fun _ => layoutOk (layoutWord a r.toNat) (o.mod.toNat / 32) = true)) ∧
    irrevocableFirst (.spawn o) s id b a p m soft entryOk ∧ irrevocableFirst (.spawnSpec o) s id b a p m soft entryOk ∧
    irrevocableFirst (.fork o) s id b a p m (s.overflow a m (fun L => .fork (entryOf s a o) (argsOf a o L))) entryOk ∧
    irrevocableFirst (.renq o) s id b a p m (s.overflow a m (fun L => .renq (BitVec.ofNat 32 (wordA s a o L)) (entryOf s a o) (argsOf a o L)))
      (fun S => entryOk S ∧ ∀ L, wordA S a o L = wordA s a o L) ∧
    irrevocableFirst (.depDec o) s id b a p m (if o.mod.getLsbD 0 then s.overflow a m (fun L => .dep false (globAddr s a o L) 0 (.dev 0)) else soft)
      (fun S => S.hasTable a = true) ∧
    irrevocableFirst (.depAdd o) s id b a p m (if o.mod.getLsbD 0 then s.overflow a m (fun L => .dep true (globAddr s a o L) 0 (.dev 0)) else soft)
      (fun S => S.hasTable a = true) ∧
    (o.g.neg = false → ∀ i ∈ [Instr.winPub, .mma, .mmaX64, .wbLd, .accRd, .accWr, .accZero, .muFence, .ringOpen, .ringClose, .ringRsv, .ringPost, .ringTake, .ringDone, .ringQry],
      irrevocableFirst (i o) s id b a p p.mask (s.softLanes a p.mask) (fun _ => True))) ∧
  (∀ s id a m, s.agent? id = some a → a.isWave = true →
    (∀ L ∈ lanesOf m, ∀ k r, laneTask s id a L k r → r.spec = true → s.makeIrrev id m = (s, false)) ∧
    ((∀ L ∈ lanesOf m, ∃ k r, laneTask s id a L k r ∧ r.st = .running ∧ r.spec = false ∧ r.buffer = []) →
      ∃ S, s.makeIrrev id m = (S, true) ∧ S = { s with recs := S.recs, events := S.events }
        ∧ recorded s S ((lanesOf m).map (fun L => (a.party id L, Access.release 2, [], [])))
        ∧ ∀ k, S.rec? k = (s.rec? k).map (fun r => if k ∈ (lanesOf m).filterMap a.recKey then { r with st := .irrev } else r)) ∧
    (∀ L k r e args l, lanesOf m = [L] → laneTask s id a L k r → r.st = .running → r.spec = false → r.buffer = .fork e args :: l → s.freeCount (k / 4096) = 0 →
      s.makeIrrev id m = (s.modRec k (fun q => { q with st := .irrev }), false)))

/-- Group-memory loads, plain and through a layout word, write each lane's extended bytes at once, and a speculative task's waits; stores leave in every byte what the highest lane that covers it stores. Out of range reads 0, is discarded, and is counted. A layout word addresses sum c_i * S_i + BASE with its element size and PERM mapping, within 2^20 (R67, R151, R154, R161, R162, R309). -/
def Obligations.GroupMemoryAccessesReadAndWriteTheirBytes : Prop :=
  (∀ o : MOps,
     groupLoad (.ldGm o) o (fun s a L => (gmAddr s a o L, some (gmAddr s a o L))) (fun _ => True) ∧
     (∀ r v, o.a = .scal r → o.b = .vec v → groupLoad (.ldl o) o (layAddr o) (fun a => layoutOk (layoutWord a r.toNat) (o.mod.toNat / 32) = true))) ∧
  (∀ o : MOps,
     groupStore (.stGm o) o (fun s a L => (gmAddr s a o L, some (gmAddr s a o L))) (fun _ => True) ∧
     (∀ r v, o.a = .scal r → o.b = .vec v → groupStore (.stl o) o (layAddr o) (fun a => layoutOk (layoutWord a r.toNat) (o.mod.toNat / 32) = true))) ∧
  (∀ (o : MOps) s a L r v, o.a = .scal r → o.b = .vec v →
    let w := a.sN r.toNat 3
    let c (j : Nat) : Nat := (a.v (v.toNat + j / 2) L).toNat / 2 ^ (16 * (j % 2)) % 2 ^ 16
    let k := field w 0 20 + c 0 * 2 ^ field w 84 3 + c 1 * field w 20 20 + c 2 * field w 40 20 + c 3 * field w 60 20
    (layAddr o s a L).1 = k ∧ (2 ^ 20 ≤ k → (layAddr o s a L).2 = none) ∧
    (k < 2 ^ 20 → field w 80 4 ≤ 4 → ∃ q, (layAddr o s a L).2 = some q ∧ q < 2 ^ 20 ∧ ∀ j, q.testBit j =
      match field w 80 4 with
      | 1 => k.testBit j ^^ (decide (4 ≤ j ∧ j ≤ 6) && k.testBit (j + 3))
      | 2 => k.testBit j ^^ (decide (4 ≤ j ∧ j ≤ 6) && k.testBit (j + 4))
      | 3 => k.testBit j ^^ (decide (4 ≤ j ∧ j ≤ 6) && k.testBit (j + 5))
      | 4 => k.testBit j ^^ (decide (4 ≤ j ∧ j ≤ 7) && k.testBit (j + 4))
      | _ => k.testBit j))

/-- Atomics: each lane in turn reads its location, writes the new value that R163 and R164 give, and, unless NR, will write the old one to D; FENCE is a fence of each active lane in its program order, and nothing else. That the lanes of an atomic go in rising order is the model's choice (log 2). -/
def Obligations.AtomicsReadAndWriteInOneStep : Prop :=
  ∀ o : MOps,
    atomicDoes (.atomAddInt o) o (fun a L x => ((x + opndC o a L) % 2 ^ (8 * atomBytes o), 0)) ∧
    atomicDoes (.atomAddFp o) o (fun a L x => let f := if atomW64 o then FP64 else FP32
      fpAdd f (binOf f) .rn a.fz (readVal f a.fz x) (readVal f a.fz (opndC o a L))) ∧
    atomicDoes (.atomMinI o) o (fun a L x => (if signedAtom o (opndC o a L) < signedAtom o x then opndC o a L else x, 0)) ∧
    atomicDoes (.atomMinN o) o (fun a L x => (if opndC o a L < x then opndC o a L else x, 0)) ∧
    atomicDoes (.atomMaxI o) o (fun a L x => (if signedAtom o x < signedAtom o (opndC o a L) then opndC o a L else x, 0)) ∧
    atomicDoes (.atomMaxN o) o (fun a L x => (if x < opndC o a L then opndC o a L else x, 0)) ∧
    atomicDoes (.atomAnd o) o (fun a L x => (x &&& opndC o a L, 0)) ∧
    atomicDoes (.atomOr o) o (fun a L x => (x ||| opndC o a L, 0)) ∧
    atomicDoes (.atomXor o) o (fun a L x => (x ^^^ opndC o a L, 0)) ∧
    atomicDoes (.atomXchg o) o (fun a L _ => (opndC o a L, 0)) ∧
    atomicDoes (.atomCas o) o (fun a L x => (if x = opndC o a L then opndNext o a L else x, 0)) ∧
    atomicDoes (.atomInc o) o (fun a L x => (if x ≥ opndC o a L then 0 else x + 1, 0)) ∧
    atomicDoes (.atomDec o) o (fun a L x => (if x = 0 ∨ x > opndC o a L then opndC o a L else x - 1, 0)) ∧
    (∀ s id b a p, s.running = some (id, b, a, p) → becomes (.fence o) s (s.fenceLanes id a (a.active p o.g) (atomAcc o) [] []) id b a p)

/-- What accesses meet, in R156's order and before any lane performs: ALIGN, XLAT, a translation asked for, a page not present, MEMINT. -/
def Obligations.AccessesMeetTheirOutcomesInOrder : Prop :=
  ∀ o : MOps,
    (∀ x ∈ [(Instr.ldB32, 4), (.ldB64, 8), (.ldB128, 16), (.ldN8, 1), (.ldI8, 1), (.ldN16, 2), (.ldI16, 2)],
      accessOutcomes (x.1 o) o needR x.2 (fun s a L => globAddr s a o L) (fun _ _ _ => True) (fun s _ l => s.sound l x.2)) ∧
    (∀ x ∈ [(Instr.stB8, 1), (.stB16, 2), (.stB32, 4), (.stB64, 8), (.stB128, 16)],
      accessOutcomes (x.1 o) o needW x.2 (fun s a L => globAddr s a o L)
        (fun s a m => s.pendingLanes a m = 0 ∧ s.overflow a m (fun L => storeEntry .glob (memAcc o true) (globAddr s a o L) [0] (.dev 0)) = 0) (fun s ws l => s.writeSound ws (l, x.2))) ∧
    (∀ i ∈ [Instr.atomAddInt, .atomAddFp, .atomMinI, .atomMinN, .atomMaxI, .atomMaxN, .atomAnd, .atomOr, .atomXor, .atomXchg, .atomCas, .atomInc, .atomDec],
      (atomGm o = false → accessOutcomes (i o) o needRW (atomBytes o) (fun s a L => globAddr s a o L) (fun s a m => allDirect s a m) (fun s _ l => s.sound l (atomBytes o))) ∧
      (atomGm o = true → groupAlign (i o) o (atomBytes o) (fun s a L => gmAddr s a o L) (fun s a m => allDirect s a m))) ∧
    groupAlign (.ldGm o) o (gmSize o) (fun s a L => gmAddr s a o L) (fun _ _ _ => True) ∧
    groupAlign (.stGm o) o (gmSize o) (fun s a L => gmAddr s a o L) (fun s a m => allDirect s a m) ∧
    (∀ r v, o.a = .scal r → o.b = .vec v →
      groupAlign (.ldl o) o (gmSize o) (fun s a L => (layAddr o s a L).1) (fun _ a _ => layoutOk (layoutWord a r.toNat) (o.mod.toNat / 32) = true) ∧
      groupAlign (.stl o) o (gmSize o) (fun s a L => (layAddr o s a L).1) (fun s a m => layoutOk (layoutWord a r.toNat) (o.mod.toNat / 32) = true ∧ allDirect s a m))

/-- RSV, TAKE, POST, DONE and QRY on an open ring of the agent's owner: slots in order, waits while none is free or filled, counters over the marked prefix; RSV and TAKE are acquire fences at `.grp` after the DONE and the POST of their slot, POST and DONE release fences. CLOSE of a ring with no slot in use closes it, and paths that wait at it wait no more for its descriptor's address (R171, R172, R174, R270, R282). -/
def Obligations.RingOperationsFollowTheirCounters : Prop :=
  ∀ (o : MOps) s id b a p r, s.running = some (id, b, a, p) → o.g.neg = false → Claims.ringOpen s a p o r →
    let put (acc : Access) (gives takes : List Link) (x : Ring) : State := (s.fenceLanes id a p.mask acc gives takes).setRing a.cluster (o.c.toNat % 64) x
    let addr := wordA s a o 0
    (slotsInUse r < r.nslot → becomes (.ringRsv o) s (put (.acquire 1) [] [.done r.serial ((r.rsv + 2 ^ 32 - r.nslot) % 2 ^ 32)] { r with rsv := (r.rsv + 1) % 2 ^ 32 }) id b
      (((waiting a b .none).account s (.ringRsv o)).setSN o.d.toNat 1 (r.base + r.rsv % r.nslot * r.slotb)) p) ∧
    (r.nslot ≤ slotsInUse r → exec (.ringRsv o) s = .next (s.setAgent id (waiting a b (.ring (o.c.toNat % 64) r.serial r.desc)))) ∧
    (0 < slotsFilled r → becomes (.ringTake o) s (put (.acquire 1) [] [.post r.serial r.tkn] { r with tkn := (r.tkn + 1) % 2 ^ 32 }) id b
      (((waiting a b .none).account s (.ringTake o)).setSN o.d.toNat 1 (r.base + r.tkn % r.nslot * r.slotb)) p) ∧
    (slotsFilled r = 0 → exec (.ringTake o) s = .next (s.setAgent id (waiting a b (.ring (o.c.toNat % 64) r.serial r.desc)))) ∧
    (∀ q c, firstSlot r r.pst ((r.rsv + 2 ^ 32 - r.pst) % 2 ^ 32) r.posted addr q → prefixOf r.pst (r.posted ++ [q]) c →
      becomes (.ringPost o) s (put (.release 1) [.post r.serial q] [] { r with pst := seqFrom r.pst c, posted := marksLeft r.pst (r.posted ++ [q]) c }) id b a p) ∧
    (∀ q c, firstSlot r r.dne ((r.tkn + 2 ^ 32 - r.dne) % 2 ^ 32) r.dones addr q → prefixOf r.dne (r.dones ++ [q]) c →
      becomes (.ringDone o) s (put (.release 1) [.done r.serial q] [] { r with dne := seqFrom r.dne c, dones := marksLeft r.dne (r.dones ++ [q]) c }) id b a p) ∧
    scalarIn (.ringQry o) o s s id b a p 1 (2 ^ 31 + 2 ^ 16 * r.nslot + 2 ^ 8 * (r.nslot - slotsInUse r) + slotsFilled r) ∧
    (slotsInUse r = 0 → let t : State := State.ringShut { s with rings := mapErase s.rings (64 * a.cluster + o.c.toNat % 64) } r.serial
      ∃ c, t.agent? id = some c ∧ becomes (.ringClose o) s t id b c p)

/-- BAR and BAR.ARV: the lanes that have not arrived arrive, by a release fence, the generation completes when all lanes that have not exited have, an acquire fence of those that wait, and the slot waits where it must; a fragment arrives by a message, and one whose arrival is on its way does not issue BAR.ARV (log 33). A wave, or an id above 15, raises ILLOP (R167 to R169, R257, R270, R282). -/
def Obligations.BarriersCountArrivals : Prop :=
  (∀ (o : MOps) s id b a p, s.running = some (id, b, a, p) → a.active p o.g ≠ 0 → (a.isWave = true ∨ 15 < wordA s a o 0) →
    exec (.bar o) s = .next (s.illop id b p (a.active p o.g)) ∧ exec (.barArv o) s = .next (s.illop id b p (a.active p o.g))) ∧
  (∀ (o : MOps) s id b a p g gr, s.running = some (id, b, a, p) → a.active p o.g ≠ 0 → a.group = some g → mapGet? s.groups g = some gr → a.isWave = false → wordA s a o 0 ≤ 15 →
    let k := wordA s a o 0
    let m := a.active p o.g
    let gen := (gr.bar k).gen
    let here := mapGetD (gr.bar k).arrived a.warp 0
    let old := m &&& here
    let arrive (t : State) (lanes : Mask) (n : Nat) : State := t.fenceLanes id a lanes (.release 1) [.bar g k n] []
    (a.isFrag = false →
      (∃ G, (if m &&& ~~~here = 0 then G = gr else arrival gr k a.warp (m &&& ~~~here) G) ∧
        let t := arrive s (m &&& ~~~here) gen
        if (G.bar k).gen > gen then becomes (.bar o) s ((t.fenceLanes id a m (.acquire 1) [] [.bar g k gen]).atBarrier g (fun _ => G)) id b a p
        else becomes (.bar o) s (t.atBarrier g (fun _ => G)) id b (waiting a b (.bar k gen)) p) ∧
      (∃ G, (if m &&& ~~~old = 0 then G = gr else arrival gr k a.warp (m &&& ~~~old) G) ∧
        let t := (arrive s (m &&& ~~~old) gen).atBarrier g (fun _ => G)
        if old = 0 then becomes (.barArv o) s t id b a p
        else if (G.bar k).gen ≤ gen then becomes (.barArv o) s t id b (waiting a b (.barArv k gen old)) p
        else ∃ H, arrival G k a.warp old H ∧ becomes (.barArv o) s ((arrive t old (G.bar k).gen).atBarrier g (fun _ => H)) id b a p)) ∧
    (a.isFrag = true →
      (m &&& s.barInFlight id a k ≠ 0 → exec (.bar o) s = .next s ∧ exec (.barArv o) s = .next s) ∧
      (m &&& s.barInFlight id a k = 0 →
        (m &&& ~~~here = 0 → becomes (.bar o) s s id b (waiting a b (.bar k gen)) p) ∧
        (m &&& ~~~here ≠ 0 →
          let t := s.fenceLanes id a (m &&& ~~~here) (.release 1) [] []
          becomes (.bar o) s { t.sendUp a (.barArrive id g a.warp k (m &&& ~~~here) (some s.nextId) t.nextEv) with nextId := s.nextId + 1 } id b
            (waiting a b (.barSent k s.nextId)) p) ∧
        let t := s.fenceLanes id a (m &&& ~~~old) (.release 1) [] []
        becomes (.barArv o) s (if m &&& ~~~old = 0 then s else t.sendUp a (.barArrive id g a.warp k (m &&& ~~~old) none t.nextEv)) id b
          (if old ≠ 0 then waiting a b (.barArv k gen old) else a) p)))

/-- OPEN reads the 16-byte descriptor, or a cached copy of it, and opens the ring with its counters 0 where the descriptor is legal; ALIGN, XLAT and MEMINT hold the descriptor's address (R175). RINGERR: an illegal descriptor; an operation on a ring that is not open, with address 0, or is another owner's, with the ring's descriptor; POST or DONE of no such slot; CLOSE with slots in use; OPEN of an open one. QRY of a ring that is not open reads 0. A record that a halted context of the VF keeps is no ring of the others, and OPEN waits until it has been claimed (R171, R174, R289, R311, R400, R401). The model's readings: RINGERR of an open id before ALIGN (log 33), the weak read (log 2), LANE 0 of RINGERR (log 23), whether a copy is kept and used (log 26). -/
def Obligations.RingsOpenOnTheirDescriptorsAndTrapErrors : Prop :=
  (∀ (o : MOps) s id b a p, s.running = some (id, b, a, p) → o.g.neg = false → allDirect s a p.mask → s.ring? a.cluster (o.c.toNat % 64) = none →
     let va := globAddr s a o (lowLane p.mask)
     let legal (w : Nat) : Prop := field w 48 8 ≠ 0 ∧ field w 32 16 ≠ 0 ∧ field w 32 16 % 16 = 0 ∧ field w 0 20 % 16 = 0
       ∧ field w 0 20 + field w 48 8 * field w 32 16 ≤ s.gmBytes a
     let ring (w : Nat) : Ring := ⟨a.ringOwner, a.vf, BitVec.ofNat 64 va, field w 0 20, field w 32 16, field w 48 8, 0, 0, 0, 0, [], [], s.nextId⟩
     let trap (t : State) (cause : Nat) : State := t.raiseAt id b p.pos (laneBit (lowLane p.mask)) (fun L => ⟨cause, false, L, BitVec.ofNat 64 va⟩)
     (va % 16 ≠ 0 → exec (.ringOpen o) s = .next (trap s cALIGN)) ∧
     (va % 16 = 0 → s.ringCache.find? (fun x => x.1 == a.vf && x.2.1 == s.pasidOf a.vf a.ctx && x.2.2.1 == va) = none →
       (meets s id b a needR va = .failed → exec (.ringOpen o) s = .next (trap (s.forget (.slot id b)) cXLAT)) ∧
       (meets s id b a needR va = .miss →
         exec (.ringOpen o) s = .next (s.ask (.slot id b) a.caches a.vf (s.pasidOf a.vf a.ctx) (pageOf va) false)) ∧
       (∀ k, meets s id b a needR va = .absent k → exec (.ringOpen o) s = .next (s.park id b (s.pasidOf a.vf a.ctx) [(⟨lowLane p.mask, va, 16⟩, k)])) ∧
       (∀ l, reaches s id b a needR va l → s.sound l 16 = false →
         exec (.ringOpen o) s = .next (trap ((s.forget (.slot id b)).reportPoison a.vf l) cMEMINT))) ∧
     (∀ l, va % 16 = 0 → s.ringCache.find? (fun x => x.1 == a.vf && x.2.1 == s.pasidOf a.vf a.ctx && x.2.2.1 == va) = none →
       reaches s id b a needR va l → s.sound l 16 = true →
       let seen := (s.forget (.slot id b)).sight [(Ev.of (a.party id (lowLane p.mask)) (s.accAt .weak l), l.spots 16)]
       let w := ofBytes (s.loadIn seen.2 l 16)
       ∃ c, (c = s.ringCache ∨ c = s.ringCache ++ [(a.vf, s.pasidOf a.vf a.ctx, va, [BitVec.ofNat 64 w, BitVec.ofNat 64 (w / 2 ^ 64)])]) ∧
         let t : State := { seen.1 with ringCache := c, fresh := s.fresh + 1 }
         (legal w → becomes (.ringOpen o) s { t.setRing a.cluster (o.c.toNat % 64) (ring w) with nextId := s.nextId + 1 } id b a p) ∧
         (¬ legal w → exec (.ringOpen o) s = .next (t.raise id b p.pos p.mask ⟨cRINGERR, false, 0, BitVec.ofNat 64 va⟩))) ∧
     (∀ x, va % 16 = 0 → s.ringCache.find? (fun x => x.1 == a.vf && x.2.1 == s.pasidOf a.vf a.ctx && x.2.2.1 == va) = some x →
       let w := ofBytes (x.2.2.2.flatMap (fun d => bytesOf d.toNat 8))
       (legal w → becomes (.ringOpen o) s { s.setRing a.cluster (o.c.toNat % 64) (ring w) with nextId := s.nextId + 1 } id b a p) ∧
       (¬ legal w → exec (.ringOpen o) s = .next (s.raise id b p.pos p.mask ⟨cRINGERR, false, 0, BitVec.ofNat 64 va⟩)))) ∧
  (∀ (o : MOps) s id b a p, s.running = some (id, b, a, p) → o.g.neg = false → allDirect s a p.mask →
     let err (x : DWord) : Host.Outcome State Fault Refusal := .next (s.raise id b p.pos p.mask ⟨cRINGERR, false, 0, x⟩)
     (s.ring? a.cluster (o.c.toNat % 64) = none →
       exec (.ringRsv o) s = err 0 ∧ exec (.ringTake o) s = err 0 ∧ exec (.ringPost o) s = err 0 ∧ exec (.ringDone o) s = err 0 ∧ exec (.ringClose o) s = err 0
         ∧ scalarIn (.ringQry o) o s s id b a p 1 0) ∧
     (∀ r, s.ring? a.cluster (o.c.toNat % 64) = some r → s.ringKept a.ringOwner r = true →
       exec (.ringOpen o) s = .next s ∧ exec (.ringRsv o) s = err 0 ∧ exec (.ringTake o) s = err 0 ∧ exec (.ringPost o) s = err 0 ∧ exec (.ringDone o) s = err 0
         ∧ exec (.ringClose o) s = err 0 ∧ scalarIn (.ringQry o) o s s id b a p 1 0) ∧
     (∀ r, s.ring? a.cluster (o.c.toNat % 64) = some r → s.ringKept a.ringOwner r = false →
       exec (.ringOpen o) s = err r.desc ∧
       (r.owner ≠ a.ringOwner → exec (.ringRsv o) s = err r.desc ∧ exec (.ringTake o) s = err r.desc ∧ exec (.ringPost o) s = err r.desc
         ∧ exec (.ringDone o) s = err r.desc ∧ exec (.ringClose o) s = err r.desc ∧ exec (.ringQry o) s = err r.desc) ∧
       (r.owner = a.ringOwner → slotsInUse r ≠ 0 → r.nslot ≠ 0 → exec (.ringClose o) s = err r.desc) ∧
       (r.owner = a.ringOwner → (∀ q, ¬ firstSlot r r.pst ((r.rsv + 2 ^ 32 - r.pst) % 2 ^ 32) r.posted (wordA s a o 0) q) → exec (.ringPost o) s = err r.desc) ∧
       (r.owner = a.ringOwner → (∀ q, ¬ firstSlot r r.dne ((r.tkn + 2 ^ 32 - r.dne) % 2 ^ 32) r.dones (wordA s a o 0) q) → exec (.ringDone o) s = err r.desc)))

/-- Engine instructions check their operands, raise ILLOP, ALIGN or RINGERR for what R179 to R184 name, and otherwise queue a command with the operands captured; GATH and SCAT queue one element for each active lane, at base + index * size. A CPY's follow-on block is checked as its MMA's would be, and captured with it (R176 to R184, R226, R227, R238). The order of AADR, BADR and the keys' destination for ALIGN, and of ALIGN and the two rings' RINGERR, is the model's (log 33); so is LANE 0 of RINGERR (log 23). -/
def Obligations.EngineInstructionsQueueTheirCommands : Prop :=
  (∀ (o : MOps) s id b a p r, s.running = some (id, b, a, p) → o.a = .scal r →
     let w := block a r
     let ringBad (k n : Nat) (e : DWord) : Prop := match s.ringSeen a.cluster k a.ringOwner with
       | none => e = 0
       | some x => (x.owner ≠ a.ringOwner ∨ x.slotb < n) ∧ e = x.desc
     let ringGood (k n : Nat) : Prop := ∃ x, s.ringSeen a.cluster k a.ringOwner = some x ∧ x.owner = a.ringOwner ∧ n ≤ x.slotb
     let err (x : DWord) : Host.Outcome State Fault Refusal := .next (s.raise id b p.pos p.mask ⟨cRINGERR, false, 0, x⟩)
     let illop : Host.Outcome State Fault Refusal := .next (s.illop id b p p.mask)
     let align (x : Nat) : Host.Outcome State Fault Refusal := .next (s.raiseAt id b p.pos p.mask (fun L => ⟨cALIGN, false, L, BitVec.ofNat 64 x⟩))
     (o.g.neg = false →
       let rowb := field (w 4) 0 24
       let rows := field (w 5) 0 16
       let src := w 0 + 2 ^ 32 * w 1
       let dst := w 2 + 2 ^ 32 * w 3
       let dsp := field (w 5) 20 4
       let ssp := field (w 5) 16 4
       let fields : Prop := field (w 4) 24 8 = 0 ∧ field (w 5) 30 2 = 0 ∧ rowb ≠ 0 ∧ rows ≠ 0 ∧ dsp ≤ 3 ∧ ssp ≤ 3 ∧ ssp ≠ 2 ∧ ¬(dsp = 3 ∧ ssp = 3)
         ∧ (ssp = 1 → src < 2 ^ 20) ∧ (dsp = 1 → dst < 2 ^ 20) ∧ (dsp = 2 → dst < 64)
       let space (n : Nat) : CpySpace := if n = 0 then .glob else if n = 1 then .gm else if n = 2 then .ring else .peer
       let copy (f : Option (MuCmd × Nat)) : Prop := queues (.cpy o) o s id b a p false p.mask []
         (.cpy src dst rowb rows (field (w 5) 24 6) (space dsp) (space ssp) (sextNat (w 6) 32) (sextNat (w 7) 32) f)
       (¬ fields → exec (.cpy o) s = illop) ∧
       (o.mod.getLsbD 3 = false →
         (fields → (dsp = 2 → ringGood dst rowb) → copy none) ∧ (∀ e, fields → dsp = 2 → ringBad dst rowb e → exec (.cpy o) s = err e)) ∧
       (o.mod.getLsbD 3 = true →
         let m (k : Nat) : Nat := (a.s (o.c.toNat + k)).toNat
         let x64 := (m 2).testBit 23
         let md := field (m 2) 24 8
         let q := field (m 2) 20 3
         let aadr := field (m 0) 0 20
         let legal (t : MuFmt) : Prop := mmaRow x64 md = some t ∧ mmaLegal a.muCtx x64 md (m 0) (m 1) (m 2) t
           ∧ s.ownsQuad a.cluster a.vf q = true ∧ (field (m 2) 18 2 = 0 → field (m 2) 16 2 = 0)
         let aligned : Prop := (m 0).testBit 26 = false → aadr % 16 = 0 ∧ field (m 1) 16 16 % 16 = 0
         let need := mmaNeed x64 md (m 1) (m 2)
         ((∀ t, ¬ legal t) → exec (.cpy o) s = illop) ∧
         (∀ t, fields → legal t →
           (¬ aligned → exec (.cpy o) s = align aadr) ∧
           (∀ e, aligned → dsp = 2 → ringBad dst rowb e → exec (.cpy o) s = err e) ∧
           (aligned → (dsp = 2 → ringGood dst rowb) →
             (∀ e, (m 0).testBit 26 = true → ringBad aadr need e → exec (.cpy o) s = err e) ∧
             (((m 0).testBit 26 = true → ringGood aadr need) →
               copy (some ({ matrixCommand s id b o a p ((m 2).testBit 19) ((m 2).testBit 18) (field (m 2) 16 2)
                 (mmaOf a.muCtx x64 md (m 0) (m 1) (m 2) (m 3) t) with parentCmd := some s.nextId }, q))))))) ∧
     (o.g.neg = false → ∀ merge : Bool,
       let i : Instr := if merge then .smerge o else .sisect o
       let aadr := w 0 + 2 ^ 32 * w 1
       let badr := w 2 + 2 ^ 32 * w 3
       let keys := (w 6).testBit 8
       let dedup := (w 6).testBit 7
       let noring := (w 6).testBit 6
       let gm := o.mod.getLsbD 3
       let dst := if keys then valC a o (if gm then 1 else 2) 0 else 0
       let fields : Prop := field (w 4) 24 8 = 0 ∧ field (w 5) 24 8 = 0 ∧ field (w 6) 9 23 = 0 ∧ (merge = false → dedup = false) ∧ (merge = true → keys = true) ∧ keys = o.kc
       let aligned : Prop := aadr % 4 = 0 ∧ badr % 4 = 0 ∧ dst % 4 = 0
       (fields → aligned → (noring = false → ringGood (field (w 6) 0 6) 8) → queues i o s id b a p true p.mask []
         (.walk merge aadr badr (field (w 4) 0 24) (field (w 5) 0 24) keys dedup noring (field (w 6) 0 6) (w 7) gm dst)) ∧
       (¬ fields → exec i s = illop) ∧
       (fields → aadr % 4 ≠ 0 → exec i s = align aadr) ∧
       (fields → aadr % 4 = 0 → badr % 4 ≠ 0 → exec i s = align badr) ∧
       (fields → aadr % 4 = 0 → badr % 4 = 0 → dst % 4 ≠ 0 → exec i s = align dst) ∧
       (∀ e, fields → aligned → noring = false → ringBad (field (w 6) 0 6) 8 e → exec i s = err e))) ∧
  (∀ (o : MOps) s id b a p v, s.running = some (id, b, a, p) → a.active p o.g ≠ 0 → o.b = .vec v →
     let m := a.active p o.g
     let gm := o.mod.getLsbD 3
     let log := o.mod.toNat % 4
     let idx (L : Nat) : Int := if o.mod.getLsbD 2 then ((a.v v.toNat L).toNat : Int) else (a.v v.toNat L).toInt
     let at' (L : Nat) : Nat := wrapNat ((valA s a o (.bits (if gm then 1 else 2)) L : Int) + idx L * (2 ^ log : Nat)) (if gm then 32 else 64)
     queues (.gath o) o s id b a p true m [(o.d.toNat, if log = 3 then 2 else 1)] (.gath gm log o.d.toNat ((lanesOf m).map (fun L => (L, at' L)))) ∧
     queues (.scat o) o s id b a p true m [] (.scat gm log s.nextId ((lanesOf m).map (fun L => (L, at' L, valC a o (if log = 3 then 2 else 1) L)))))

/-- WIN.PUB is a release fence of every lane of the warp, stores a pair in a window as one strong store after it, and leaves no line of the VF's windows to be written back; XLAT outside one, and ALIGN at an address that is no multiple of 8; CB.INVAL drops the VF's cached descriptors that it names (R186, R187, R270). -/
def Obligations.WindowPublishAndInvalidate : Prop :=
  ∀ (o : MOps) s id b a p, s.running = some (id, b, a, p) → o.g.neg = false →
    (∀ l, direct s a p.mask → globAddr s a o (lowLane p.mask) % 8 = 0 → reaches s id b a needW (globAddr s a o (lowLane p.mask)) l →
      (s.inWindow l = true → s.writeSound [(l, 8)] (l, 8) = true → ∃ S,
        becomes (.winPub o) s S id b ((a.account s (.winPub o)).startOp (opOf s b (p.flagOf o.fs) [] [] [])) p
          ∧ S = { s with mem := S.mem, hostMem := S.hostMem, dirty := S.dirty, whole := S.whole, counters := S.counters, nodes := S.nodes, verified := S.verified, broken := S.broken,
                         poison := S.poison, vfs := S.vfs, waits := S.waits, fails := S.fails, nextId := s.nextId + 1, events := S.events }
          ∧ (∀ v, S.vf v = { s.vf v with dirty := (S.vf v).dirty }) ∧ (s.broken = [] → S.poison = s.poison)
          ∧ recorded s S ((lanesOf ((s.agent? (a.rootId id)).getD a).started).map (fun L => (a.party id L, Access.release 3, [], []))
              ++ [(a.party id (lowLane p.mask), Access.at 3, [], (l.spots 8).zip (bytesOf (valC a o 2 0) 8))])
          ∧ (∀ g ∈ S.dirty, ∀ w x, mapGet? s.extents (g.1 / 8192) = some (.win w) → mapGet? s.windows w = some x → mapGet? x.members a.vf = none)
          ∧ ∀ x, S.peek x = (byteOver l (bytesOf (valC a o 2 0) 8) x).getD (s.peek x)) ∧
      (s.inWindow l = false → exec (.winPub o) s = .next ((s.forget (.slot id b)).raise id b p.pos (laneBit (lowLane p.mask))
        ⟨cXLAT, false, lowLane p.mask, BitVec.ofNat 64 (globAddr s a o (lowLane p.mask))⟩))) ∧
    (allDirect s a p.mask → globAddr s a o (lowLane p.mask) % 8 ≠ 0 → exec (.winPub o) s = .next (s.raiseAt id b p.pos (laneBit (lowLane p.mask))
      (fun L => ⟨cALIGN, false, L, BitVec.ofNat 64 (globAddr s a o (lowLane p.mask))⟩))) ∧
    (∃ c, becomes (.cbInval o) s { s with ringCache := c, nextId := s.nextId + 1 } id b ((a.account s (.cbInval o)).startOp (opOf s b (p.flagOf o.fs) [] [] [])) p
      ∧ ∀ x, x ∈ c ↔ x ∈ s.ringCache ∧ ¬(x.1 = a.vf ∧ (o.mod.toNat % 4 = 3 ∨ (o.mod.toNat % 4 = 1 ∧ x.2.1 = s.pasidOf a.vf a.ctx ∧ x.2.2.1 = globAddr s a o 0))))

/-- Matrix instructions check the fields of their blocks, raise ILLOP, ALIGN or RINGERR for those that R226, R227, R232 and R238 to R240 refuse, and otherwise queue their commands with the state they capture (R219, R241). LANE 0 of RINGERR is log 23's reading. -/
def Obligations.MatrixInstructionsQueueTheirCommands : Prop :=
  ∀ (o : MOps) s id b a p, s.running = some (id, b, a, p) → o.g.neg = false → allDirect s a p.mask →
    let w2 := blockWord a o 2
    let illop : Host.Outcome State Fault Refusal := .next (s.illop id b p p.mask)
    let align (x : Nat) : Host.Outcome State Fault Refusal := .next (s.raiseAt id b p.pos p.mask (fun L => ⟨cALIGN, false, L, BitVec.ofNat 64 x⟩))
    (∀ x64 : Bool,
      let i : Instr := if x64 then .mmaX64 o else .mma o
      let md := o.mod.toNat
      let w0 := blockWord a o 0
      let w1 := blockWord a o 1
      let aadr := field w0 0 20
      let legal (t : MuFmt) : Prop := mmaRow x64 md = some t ∧ mmaLegal a.muCtx x64 md w0 w1 w2 t ∧ field w2 20 12 = 0 ∧ (field w2 18 2 = 0 → field w2 16 2 = 0)
      let aligned : Prop := w0.testBit 26 = false → aadr % 16 = 0 ∧ field w1 16 16 % 16 = 0
      let good : Prop := w0.testBit 26 = true → ∃ x, s.ringSeen a.cluster aadr a.ringOwner = some x ∧ x.owner = a.ringOwner ∧ mmaNeed x64 md w1 w2 ≤ x.slotb
      ((∀ t, ¬ legal t) → exec i s = illop) ∧
      (∀ t, legal t →
        (¬ aligned → exec i s = align aadr) ∧
        (aligned → good → queuesMu i o s id b a p (w2.testBit 19) (w2.testBit 18) (field w2 16 2) (mmaOf a.muCtx x64 md w0 w1 w2 (blockWord a o 3) t)) ∧
        (aligned → w0.testBit 26 = true → ∀ e : DWord,
          (match s.ringSeen a.cluster aadr a.ringOwner with
            | none => e = 0
            | some x => (x.owner ≠ a.ringOwner ∨ x.slotb < mmaNeed x64 md w1 w2) ∧ e = x.desc) →
          exec i s = .next (s.raise id b p.pos p.mask ⟨cRINGERR, false, 0, e⟩)))) ∧
    (let w := blockWord a o
     let f := field (w 3) 27 5
     let badr := w 0 + 2 ^ 32 * w 1
     let legal (t : MuFmt) : Prop := mmaFmt f = some t ∧ wbLdLegal a.muCtx (o.mod.getLsbD 3) (o.mod.getLsbD 0) w t
     ((∀ t, ¬ legal t) → exec (.wbLd o) s = illop) ∧
     (∀ t, legal t →
        (badr % 16 ≠ 0 ∨ w 2 % 16 ≠ 0 → exec (.wbLd o) s = align badr) ∧
        (badr % 16 = 0 → w 2 % 16 = 0 → queuesMu (.wbLd o) o s id b a p (o.mod.getLsbD 5) (o.mod.getLsbD 4) (o.mod.toNat / 64)
          (.wbLd (o.mod.getLsbD 3) (o.mod.getLsbD 0) badr (w 2) f ((w 3).testBit 26) (field (w 3) 16 4) (field (w 3) 0 13) (w 4 + 2 ^ 32 * w 5)
            (field (w 6) 20 12) (field (w 6) 0 20) (w 7))))) ∧
    (∀ rd : Bool,
      let i : Instr := if rd then .accRd o else .accWr o
      let w64 := o.mod.getLsbD 3
      let c := wordC a o 0
      let addr := gmAddr s a o 0
      let fields : Prop := c % 2 ^ 16 = 0 ∧ (if w64 then 32 else 16) ≤ field c 16 12 ∧ (w64 = true → field c 28 4 % 2 = 0)
      (fields → addr % 16 = 0 → queuesMu i o s id b a p (o.mod.getLsbD 5) (o.mod.getLsbD 4) (o.mod.toNat / 64)
        (if rd then .accRd w64 (field c 28 4) addr (field c 16 12) else .accWr w64 (field c 28 4) addr (field c 16 12))) ∧
      (¬ fields → exec i s = illop) ∧ (fields → addr % 16 ≠ 0 → exec i s = align addr)) ∧
    (wordB s a o 0 < 2 ^ 16 → queuesMu (.accZero o) o s id b a p false false 0 (.accZero (wordB s a o 0))) ∧
    (2 ^ 16 ≤ wordB s a o 0 → exec (.accZero o) s = illop) ∧
    queuesMu (.muFence o) o s id b a p false false 0 .fence

/-- JMP, JMP.S and BRX move the path to their target, and a BRA that every lane takes does; a target that is not a multiple of 4 within the code raises ALIGN with the target in TADDR, a literal one that is no multiple of 4 whatever lanes are active (R72, R82, R94, R189, R194, R197). -/
def Obligations.JumpsMoveThePathToTheirTarget : Prop :=
  ∀ s id b a p, s.running = some (id, b, a, p) →
    let goes (i : Instr) (m : Mask) (t : DWord) : Prop :=
      (goodTarget s a t → stands i s s id (issuedAgent s a) b { p with pos := ⟨t, 0⟩, phase := .header }) ∧
      (¬ goodTarget s a t → exec i s = .next (s.raiseAt id b p.pos m (fun L => ⟨cALIGN, false, L, t⟩)))
    (∀ (o : MOps) w, o.lit = some w → (p.pc + w.signExtend 64).toNat % 4 ≠ 0 → ∀ x ∈ [(Instr.jmp o, p.mask), (.bra o, if a.active p o.g = 0 then p.mask else a.active p o.g)],
      exec x.1 s = .next (s.raiseAt id b p.pos x.2 (fun L => ⟨cALIGN, false, L, p.pc + w.signExtend 64⟩))) ∧
    (∀ (o : MOps) w, o.g.neg = false → o.lit = some w → goes (.jmp o) p.mask (p.pc + w.signExtend 64)) ∧
    (∀ off : BitVec 20, goes (.jmpS off) p.mask (p.pc + (off.signExtend 64 <<< 2))) ∧
    (∀ o : MOps, o.g.neg = false → goes (.brx o) p.mask (BitVec.ofNat 64 (valA s a o (.bits 2) 0))) ∧
    (∀ (o : MOps) w, o.lit = some w → a.active p o.g ≠ 0 → a.active p o.g = p.mask → goes (.bra o) p.mask (p.pc + w.signExtend 64))

/-- A divergent BRA opens or joins the record of its reconvergence position, and its sides go to the slots, arrive at once, or leave as a fragment; a stack without room raises DIVERGE first, with LANE 0 by the model's reading (log 23; R58, R306), and a target outside the code ALIGN before that (R72, R189, R217). A fragment begins with its parent's scalar and control registers, its own lanes' predicates and clear flags (R44, R53); a spilt path takes what its slot has met of its pages with it (R193 to R195, R355). -/
def Obligations.DivergentBranchesSplitThePath : Prop :=
  ∀ (o : MOps) s id b (a : Agent) (p : Path) (w : Word) j st, s.running = some (id, b, a, p) → o.lit = some w → a.active p o.g ≠ 0 → p.mask &&& ~~~(a.active p o.g) ≠ 0 →
    let t := a.active p o.g
    let n := p.mask &&& ~~~t
    let target := p.pc + w.signExtend 64
    let r := target + (((o.c ++ o.d : BitVec 16).signExtend 64) <<< 2)
    let next := { p with mask := n }.past (instrBytes (.bra o))
    let tArr := decide (target = r)
    let nArr := decide (next.phase = .header ∧ next.pos = ⟨r, 0⟩)
    let tp : Path := { p with pos := ⟨target, 0⟩, phase := .header, mask := t, jix := .own j }
    let np : Path := { next with jix := .own j }
    let other := a.slot (!b)
    let small := if tArr then n else if nArr then t else if popMask t ≤ popMask n then t else n
    let exports : Bool := !(tArr && nArr) && a.mayExport (o.mod.getLsbD 0) false (popMask small) && (s.exportPlace a (popMask small)).isSome
    let c : Agent := { issuedAgent s a with stack := st }
    let fresh (q : Path) : Slot := Slot.of (some q) .none false s.tail
    let smallIsT : Bool := !tArr && (nArr || decide (popMask t ≤ popMask n))
    (¬ goodTarget s a target → exec (.bra o) s = .next (s.raiseAt id b p.pos t (fun L => ⟨cALIGN, false, L, target⟩))) ∧
    (goodTarget s a target → branchRecord a p r (tArr.toNat + nArr.toNat) j st →
    (a.dsn < st.length + (if exports = false ∧ tArr = false ∧ nArr = false ∧ other.path ≠ none then 1 else 0) →
      exec (.bra o) s = .next (s.raise id b p.pos t ⟨cDIVERGE, false, 0, a.dsb + BitVec.ofNat 64 (16 * a.dsn)⟩)) ∧
    (exports = false → st.length ≤ a.dsn →
      (tArr = false → nArr = false → other.path = none → settles (.bra o) s s id ((c.setPath b (some np)).setSlot (!b) (fresh tp))) ∧
      (∀ q, tArr = false → nArr = false → other.path = some q → st.length + 1 ≤ a.dsn → settles (.bra o) s (s.keepPages id (!b) other.wait).1 id
        ((({ c with stack := st ++ [⟨.path, q.pos, q.mask, 0, q.jix, other.stopped, (s.keepPages id (!b) other.wait).2⟩], spills := a.spills + 1 } : Agent).setPath b (some np)).setSlot (!b) (fresh tp))) ∧
      (tArr = true → nArr = false → settles (.bra o) s s id (c.setPath b (some np))) ∧
      (tArr = false → nArr = true → settles (.bra o) s s id (c.setSlot b (fresh tp))) ∧
      (tArr = true → nArr = true → settles (.bra o) s s id (c.setPath b none))) ∧
    (∀ k ctxs, exports = true → st.length ≤ a.dsn → s.exportPlace a (popMask small) = some (k, ctxs) → ∃ f,
      let x : Agent := { (if smallIsT then (if nArr then c.setPath b none else c.setPath b (some np)) else (if tArr then c.setPath b none else c.setSlot b (fresh tp))) with exports := a.exports + 1 }
      exec (.bra o) s = .next { ((s.settle id x).setAgent s.nextId f).sendDown f (.start s.nextId) with nextId := s.nextId + 1 }
      ∧ f.kind = .frag id j r ∧ f.core = .narrow k ∧ f.units = ctxs ∧ f.live = small ∧ f.started = small ∧ f.stack = [] ∧ f.vregs = [] ∧ f.sregs = a.sregs ∧ f.flags = []
      ∧ f.fpc = a.fpc &&& 0xF00 ∧ f.xth = a.xth ∧ f.sbase = a.sbase ∧ f.sshift = a.sshift ∧ f.sfmt = a.sfmt ∧ f.slotB.path = none ∧ f.begun = false
      ∧ (mapWf a.preds → ∀ n, 1 ≤ n → n ≤ 7 → ∀ L, (f.p n).getLsbD L = ((a.p n).getLsbD L && small.getLsbD L))
      ∧ f.tpc = 0 ∧ f.tix = 0 ∧ f.tcause = 0 ∧ f.taddr = 0 ∧ f.handler = none
      ∧ f.slotA.path = some ⟨if smallIsT then ⟨target, 0⟩ else next.pos, small, .parent j, .header⟩))

/-- CALL pushes one record with its return position and PEND 1 and moves its lanes to the target; elsewhere than at a clause's end it raises ILLOP, for a bad target ALIGN, without room DIVERGE (R72, R76, R82, R189, R193, R198). ILLOP whatever lanes are active is log 7's deduction, LANE 0 of DIVERGE log 23's. -/
def Obligations.CallsPushTheirReturnPosition : Prop :=
  ∀ (o : MOps) s id b a p (far : Bool), s.running = some (id, b, a, p) →
    let i : Instr := if far then .callR o else .call o
    let target := if far then BitVec.ofNat 64 (valA s a o (.bits 2) 0) else p.pc + (o.lit.getD 0).signExtend 64
    let t := a.active p o.g
    let m := if t = 0 then p.mask else t
    (p.last = false → exec i s = .next (s.illop id b p m)) ∧
    (p.last = true → far = false → target.toNat % 4 ≠ 0 → exec i s = .next (s.raiseAt id b p.pos m (fun L => ⟨cALIGN, false, L, target⟩))) ∧
    (p.last = true → t ≠ 0 → ¬ goodTarget s a target → exec i s = .next (s.raiseAt id b p.pos t (fun L => ⟨cALIGN, false, L, target⟩))) ∧
    (p.last = true → t ≠ 0 → goodTarget s a target → a.dsn < a.stack.length + 1 →
      exec i s = .next (s.raise id b p.pos t ⟨cDIVERGE, false, 0, a.dsb + BitVec.ofNat 64 (16 * a.dsn)⟩)) ∧
    (p.last = true → t ≠ 0 → goodTarget s a target → a.stack.length + 1 ≤ a.dsn →
      let c : Agent := { issuedAgent s a with stack := a.stack ++ [⟨.call, (p.past (instrBytes i)).pos, p.mask, 1, p.jix, false, .none⟩] }
      settles i s s id (c.setSlot b { a.slot b with path := some ⟨⟨target, 0⟩, t, .own a.stack.length, .header⟩, rank := s.tail }))

/-- RET and JOIN send their lanes to the r of the path's record, its own or its parent's, and the rest goes on; an r outside the code raises ALIGN. RET outside a CALL record raises ILLOP, JOIN without a record is a NOP (R72, R189, R196, R199). A RET by every lane that pends resumes the caller at its return position (R191). -/
def Obligations.ReturnsAndJoinsLeaveThePath : Prop :=
  ∀ s id b a p, s.running = some (id, b, a, p) →
    let leaves (i : Instr) (m : Mask) (r : DWord) : Prop :=
      (goodTarget s a r →
        ((m ≠ p.mask ∨ ∀ k, p.jix ≠ .parent k) → settles i s s id ((issuedAgent s a).setPath b (some ({ p with mask := p.mask &&& ~~~m }.past (instrBytes i))))) ∧
        (∀ k, m = p.mask → p.jix = .parent k → settles i s s id ((issuedAgent s a).setPath b (some { p with pos := ⟨r, 0⟩, phase := .header })))) ∧
      (¬ goodTarget s a r → exec i s = .next (s.raiseAt id b p.pos m (fun L => ⟨cALIGN, false, L, r⟩)))
    (∀ (i : Instr) (g : Guard), (∃ o : MOps, g = o.g ∧ i = .ret o) ∨ (∃ o : SOps, g = o.g ∧ i = .retS o) → a.active p g ≠ 0 →
      ((∀ r, s.recordOf a p ≠ some (.call, r)) → exec i s = .next (s.illop id b p (a.active p g))) ∧
      (∀ r, s.recordOf a p = some (.call, r) → leaves i (a.active p g) r) ∧
      (∀ st e, a.active p g = p.mask → a.stack = st ++ [e] → e.kind = .call → e.pend = 1 → e.jix = .none → p.jix = .own st.length → goodTarget s a e.pos.hdr →
        (a.slot (!b)).path = none → e.mask &&& a.live ≠ 0 → (∀ f ∈ st, f.kind = .join ∨ f.kind = .call → f.pend ≠ 0) →
        ∃ a', exec i s = .next (s.setAgent id a') ∧ (issuedAgent s a).onlyMoved a' ∧ a'.slotA.path = some ⟨⟨e.pos.hdr, 0⟩, e.mask &&& a.live, .none, .header⟩)) ∧
    (∀ o : MOps, a.active p o.g ≠ 0 →
      (s.recordOf a p = none → nothingElse (.join o) s id b a p) ∧
      (∀ k r, s.recordOf a p = some (k, r) → leaves (.join o) (a.active p o.g) r))

/-- YIELD moves its slot behind every other one; REGION sets the staging descriptor on a wide core and nothing on a narrow one; SLEEP makes its slot wait; NOP does nothing; YIELD and NOP have no field but the guard (R63, R66, R80, R201, R202, R214, R216). -/
def Obligations.YieldRegionSleepAndNop : Prop :=
  (∀ o : MOps, (Instr.yield o).wf = true ∨ (Instr.nop o).wf = true → o = { plainOps 0 0 (.vec 0) (.vec 0) 0 with g := o.g }) ∧
  (∀ o : SOps, (Instr.yieldS o).wf = true ∨ (Instr.nopS o).wf = true → o = ⟨o.g, 0, 0, 0⟩) ∧
  ∀ s id b a p, s.running = some (id, b, a, p) →
    (∀ o : MOps, o.g.neg = false →
      becomes (.yield o) s s id b (a.setSlot b { a.slot b with rank := s.tail }) p ∧
      (∀ q, a.core = .narrow q → nothingElse (.region o) s id b a p) ∧
      (∀ w q x, a.core = .wide w q → o.lit = some x → ∃ c, becomes (.region o) s s id b c p
        ∧ c = { a with stgBase := o.a.field.toNat, stgMap := x, staging := true, bad := c.bad, stgDirty := c.stgDirty, badStg := c.badStg, stgPar := c.stgPar }
        ∧ (let stays (r : Nat) : Bool := a.staged.contains r && c.staged.contains r
           (∀ r, r ∈ c.stgDirty ↔ r ∈ a.stgDirty ∧ stays r = true) ∧
           (mapWf a.bad → mapWf a.badStg → mapWf a.stgPar → ∀ r,
             mapGetD c.bad r 0 = (if r ∈ a.stgDirty ∧ stays r = false then a.nearBad r else mapGetD a.bad r 0) ∧
             (stays r = true → mapGetD c.badStg r 0 = mapGetD a.badStg r 0 ∧ mapGetD c.stgPar r 0 = mapGetD a.stgPar r 0) ∧
             (stays r = false → mapGetD c.badStg r 0 = 0 ∧ mapGetD c.stgPar r 0 = (if r ∈ c.staged then mapGetD a.bad r 0 else 0))))) ∧
      (wordB s a o 0 = 0 → nothingElse (.sleep o) s id b a p) ∧
      (wordB s a o 0 ≠ 0 → becomes (.sleep o) s s id b (waiting a b (.sleep (32 * (if wordB s a o 0 ≤ 65535 then wordB s a o 0 else 65535)))) p)) ∧
    (∀ o : SOps, o.g.neg = false → becomes (.yieldS o) s s id b (a.setSlot b { a.slot b with rank := s.tail }) p) ∧
    (∀ o : MOps, nothingElse (.nop o) s id b a p) ∧ (∀ o : SOps, nothingElse (.nopS o) s id b a p)

/-- SYSRD and SYSWR read and write every control register of R55: reserved bits stay zero, a read-only register or one of handler mode outside it raises PRIV, a number without a register ILLOP; FST has a bit for each flag whose counter is not zero; PMCRD reads the counter of its selector as a pair, and raises ILLOP for another selector (R13, R55 to R59, R209, R215). LANE 0 of PRIV is the model's reading (log 23; R306). -/
def Obligations.ControlRegistersAndCountersAreReadAndWritten : Prop :=
  (∀ (o : MOps) s id b a p, s.running = some (id, b, a, p) → o.g.neg = false →
     let n := o.c.toNat
     let x := valB s a o (.bits 1) 0
     let y := BitVec.ofNat 64 (valB s a o (.bits 2) 0)
     let w := BitVec.ofNat 32 x
     let priv (i : Instr) : Prop := exec i s = .next (s.raise id b p.pos p.mask ⟨cPRIV, false, 0, 0⟩)
     let rd (k : Nat) (v : Nat) : Prop := becomes (.sysrd o) s s id b (a.setSN o.d.toNat k v) p
     let wr (c : Agent) : Prop := becomes (.syswr o) s s id b c p
     (n = 0 → rd 1 a.fpc.toNat ∧ wr { a with fpc := w &&& 0xF7F }) ∧
     (n = 1 → rd 1 a.xth.toNat ∧ priv (.syswr o)) ∧ (n = 2 → rd 1 a.fst.toNat ∧ priv (.syswr o)) ∧
     (8 ≤ n ∧ n ≤ 11 → a.handler = none → priv (.sysrd o) ∧ priv (.syswr o)) ∧
     (a.handler ≠ none →
       (n = 8 → rd 2 a.tpc.toNat ∧ wr { a with tpc := y &&& ~~~3 }) ∧ (n = 9 → rd 1 a.tix.toNat ∧ wr { a with tix := w &&& 31 }) ∧
       (n = 10 → rd 1 a.tcause.toNat ∧ wr { a with tcause := w &&& 0x00FF00FF }) ∧ (n = 11 → rd 2 a.taddr.toNat ∧ wr { a with taddr := y })) ∧
     (n = 16 → rd 2 a.sbase.toNat ∧ wr { a with sbase := y }) ∧ (n = 17 → rd 1 a.sshift.toNat ∧ wr { a with sshift := w &&& 0x1F1F }) ∧
     (n = 18 → rd 1 a.sfmt.toNat ∧ wr { a with sfmt := w &&& 0x31F1F }) ∧
     (n ∉ [0, 1, 2, 8, 9, 10, 11, 16, 17, 18] → exec (.sysrd o) s = .next (s.illop id b p p.mask) ∧ exec (.syswr o) s = .next (s.illop id b p p.mask))) ∧
  (∀ (a : Agent) i, i < 32 → a.fst.getLsbD i = (decide (i < 12) && decide (a.flag i ≠ 0))) ∧
  (∀ (o : MOps) s id b a p, s.running = some (id, b, a, p) → o.g.neg = false →
     (∀ n v, (n, v) ∈ [(0, a.cyc / 32), (1, a.insn), (2, a.opndSlow), (3, a.regOor), (4, mapGetD s.gmOor (64 * a.cluster + a.vf) 0),
         (5, mapGetD s.amaxLost (64 * a.cluster + a.vf) 0), (6, a.bankWait), (7, a.exports), (8, a.spills), (9, a.tokenWait / 32)] →
       o.c.toNat = n → becomes (.pmcrd o) s s id b (a.setSN o.d.toNat 2 v) p) ∧
     (9 < o.c.toNat → exec (.pmcrd o) s = .next (s.illop id b p p.mask)))

/-- TRAP and BKPT take their trap after themselves: TPC, TIX, TCAUSE and TADDR are recorded, the staging set is staged no more until TRET, the other slot stops, and the path goes on at the handler; without a handler the warp ends with a fault status. TRET leaves handler mode at TPC and TIX, and the slot that was stopped reads its header again (R81); outside handler mode it raises PRIV, on another path ILLOP (R58, R66, R210 to R213, R344). Which slot is the handler's is the model's reading of R213 (log 7), and LANE 0 of PRIV log 23's. -/
def Obligations.TrapsEnterTheHandlerAndReturn : Prop :=
  (∀ s id b a p, s.running = some (id, b, a, p) → a.isWave = false → a.handler = none →
     let takes (i : Instr) (m : Mask) (cause : Nat) (addr : DWord) : Prop :=
       let t : TrapInfo := ⟨cause, false, lowLane m, addr⟩
       let pos := (p.past (instrBytes i)).pos
       (s.handlerOf a ≠ 0 → ∃ a', exec i s = .next (s.setAgent id a') ∧ entersHandler (issuedAgent s a) b pos t (s.handlerOf a) s.tail a') ∧
       (∀ g gr l, s.handlerOf a = 0 → a.kind = .grid → s.fragsOf id = [] → a.group = some g → mapGet? s.groups g = some gr → mapGet? s.launches a.launch = some l →
         ∃ a', exec i s = .next (warpEnded s id a' g gr a.launch (launchFaulted l (gr.faulted || gr.lost) cause a.gid addr))
           ∧ ended (trapWritten (issuedAgent s a) pos (tcause cause (lowLane m) false false) addr) a')
     (∀ o : MOps, a.active p o.g ≠ 0 →
       (0 < wordB s a o 0 → wordB s a o 0 ≤ 11 → takes (.trap o) (a.active p o.g) (wordB s a o 0) (BitVec.ofNat 64 (valA s a o (.bits 2) 0))) ∧
       (wordB s a o 0 = 0 ∨ 11 < wordB s a o 0 → exec (.trap o) s = .next (s.illop id b p (a.active p o.g))) ∧
       takes (.bkpt o) (a.active p o.g) 7 0) ∧
     (∀ o : SOps, a.active p o.g ≠ 0 → takes (.bkptS o) (a.active p o.g) 7 0)) ∧
  (∀ (o : MOps) s id b a p, s.running = some (id, b, a, p) → o.g.neg = false →
     (a.handler = none → exec (.tret o) s = .next (s.raise id b p.pos p.mask ⟨cPRIV, false, 0, 0⟩)) ∧
     (∀ h, a.handler = some h → a.handlerSlot h ≠ b ∨ (∃ e ∈ a.stack, e.kind ≠ .retired ∧ e.held = false) → exec (.tret o) s = .next (s.illop id b p p.mask)) ∧
     (∀ h, a.handler = some h → a.handlerSlot h = b → (∀ e ∈ a.stack, e.kind = .retired ∨ e.held = true) →
       let on (x : Slot) : Slot := if x.stopped then { x with stopped := false, path := x.path.map (fun q => { q with phase := .header }) } else x
       let c : Agent := { issuedAgent s a with
         handler := none, staging := true, badStg := [], stgPar := a.bad.filter (fun x => a.named.contains x.1)
         stack := a.stack.map (fun e => { e with held := false }), slotA := on a.slotA, slotB := on a.slotB }
       settles (.tret o) s s id (c.setPath b (some { p with pos := ⟨a.tpc, a.tix.toNat⟩, phase := .header }))))

/-- A trap cause that an instruction meets, ILLOP among them, is taken at the instruction itself; in handler mode it ends the warp, with nothing recorded again (R18, R210, R211). TADDR is 0 for ILLOP by R18, and LANE is 0 by the model's reading that it belongs to no lane (log 23). -/
def Obligations.TrapCausesAreTakenAtTheInstruction : Prop :=
  ∀ (s : State) id b a pos m t, s.agent? id = some a → a.isWave = false →
    (a.handler = none → s.handlerOf a ≠ 0 → ∃ a', s.raise id b pos m t = s.setAgent id a' ∧ entersHandler a b pos t (s.handlerOf a) s.tail a') ∧
    (∀ g gr l, a.handler ≠ none → a.kind = .grid → s.fragsOf id = [] → a.group = some g → mapGet? s.groups g = some gr → mapGet? s.launches a.launch = some l →
      ∃ a', s.raise id b pos m t = warpEnded s id a' g gr a.launch (launchFaulted l (gr.faulted || gr.lost) t.cause a.gid t.addr)
        ∧ ended a a') ∧
    (∀ p : Path, s.illop id b p m = s.raise id b p.pos m ⟨1, false, 0, 0⟩)

/-- A clause starts once the flags that its WAIT names are clear and no recorded trap is due, at the instruction its path stands before; an index past LEN raises ILLOP; what follows comes after the commands of those flags, and a recorded trap is taken with TIX 0 (R18, R76, R77, R81, R178, R279); that it waits for every flag of the header is the model's deduction (log 7). -/
def Obligations.ClausesStartWhenTheirFlagsAreClear : Prop :=
  ∀ (h : ClauseHdr) s id b a p, s.running = some (id, b, a, p) → p.phase = .header →
    ((∃ i, i < 12 ∧ h.wait.getLsbD i = true ∧ a.flag i ≠ 0) → exec (.clause h) s = .next s) ∧
    ((∀ i, i < 12 → h.wait.getLsbD i = true → a.flag i = 0) → a.traps = [] →
      (p.pos.ix = 0 → exec (.clause h) s = .next ((s.joinCommands id a p.mask h.wait).setAgent id (a.setPath b (some { p with phase := .body (p.pos.hdr + 4) h })))) ∧
      (0 < p.pos.ix → h.len.toNat ≤ p.pos.ix → exec (.clause h) s = .next (s.illop id b p p.mask)) ∧
      (∀ pc, p.pos.ix < h.len.toNat → s.skipInstrs id b a p (p.pos.hdr + 4) p.pos.ix = .inl pc →
        exec (.clause h) s = .next ((s.joinCommands id a p.mask h.wait).setAgent id (a.setPath b (some { p with phase := .body pc h }))))) ∧
    (∀ t, (∀ i, i < 12 → h.wait.getLsbD i = true → a.flag i = 0) → a.handler = none → a.traps = [t] → (∀ f, t.flag = some f → h.wait.getLsbD f = true) →
      exec (.clause h) s = .next (({ s with agents := mapSet s.agents id { a with traps := [] } } : State).trapEntry id b ⟨p.pos.hdr, 0⟩ ⟨t.cause, true, t.lane, t.addr⟩))

/-- EXIT ends its lanes: they leave their path, every record's mask and the barrier count, and a generation completes exactly when the arrivals that are left are at least 1 and equal the lanes that have not exited; a warp's final EXIT waits for commands that may trap, and takes a recorded trap first (R168, R200). -/
def Obligations.ExitEndsItsLanes : Prop :=
  ∀ s id b a p, s.running = some (id, b, a, p) → a.isWave = false → ∀ (i : Instr) (g : Guard),
    (∃ o : MOps, g = o.g ∧ i = .exit o) ∨ (∃ o : SOps, g = o.g ∧ i = .exitS o) → a.active p g ≠ 0 →
    let m := a.active p g
    let last : Bool := a.isGrid && decide (m = a.live) && (a.slot (!b)).path.isNone && !(a.stack.any (fun e => e.kind == .path)) && (s.fragsOf id).isEmpty
    (last = true → (∃ x ∈ a.ops, x.mayTrap = true) → exec i s = .next s) ∧
    (∀ t, last = true → (∀ x ∈ a.ops, x.mayTrap = false) → a.traps = [t] →
      exec i s = .next (({ s with agents := mapSet s.agents id { a with traps := [] } } : State).trapEntry id b p.pos ⟨t.cause, true, t.lane, t.addr⟩)) ∧
    (a.kind = .grid → (last = false ∨ ((∀ x ∈ a.ops, x.mayTrap = false) ∧ a.traps = [])) → ∃ S a', exec i s = .next S ∧ S = { s with agents := S.agents, groups := S.groups, saddle := S.saddle }
      ∧ S.agent? id = some a' ∧ (∀ k, k ≠ id → S.agent? k = s.agent? k)
      ∧ a' = { issuedAgent s a with live := a.live &&& ~~~m, slotA := a'.slotA, slotB := a'.slotB, stack := a'.stack, handler := a'.handler }
      ∧ (∀ q, (a'.slotA.path = some q ∨ a'.slotB.path = some q) → q.mask &&& m = 0) ∧ (∀ e ∈ a'.stack, e.mask &&& m = 0)
      ∧ (∀ n gr, a.group = some n → mapGet? s.groups n = some gr → ∃ G, mapGet? S.groups n = some G ∧ exited gr a.warp m G)) ∧
    (∀ par j r n, a.kind = .frag par j r → a.group = some n → ∃ S, exec i s = .next S
      ∧ mapGetD S.saddle a.cluster [] = mapGetD s.saddle a.cluster [] ++ [⟨a.core.port, s.muQuad a, .fragExit id n a.warp m⟩] ∧ S.groups = s.groups
      ∧ (∀ x, par ≠ id → s.agent? par = some x → x.handler = none → S.agent? par = some (x.dropLanes m))
      ∧ ∃ a', (par ≠ id → S.agent? id = some a') ∧ a'.live = a.live &&& ~~~m ∧ a'.vregs = a.vregs ∧ a'.sregs = a.sregs)

/-- Settling moves paths and nothing else, leaves a path that stands, gives a free slot the topmost PATH entry, and goes on until nothing arrives, completes or can be restored (R190 to R192). -/
def Obligations.SettlingFollowsThePathRules : Prop :=
  ∀ (a : Agent) (rank fuel : Nat),
    a.onlyMoved (a.settle rank fuel) ∧
    (∀ b p, (a.slot b).path = some p → p.mask ≠ 0 → a.arrives p = false → (a.settle rank fuel).slot b = a.slot b) ∧
    (∀ (i : Nat) (e : Entry), a.slotA.path = none → a.ends true = none → (∀ f ∈ a.stack, f.kind = .join ∨ f.kind = .call → f.pend ≠ 0) → (∀ f ∈ a.stack, f.kind = .path → f.mask ≠ 0) →
      a.stack[i]? = some e → e.kind = .path → (∀ (j : Nat) (f : Entry), i < j → a.stack[j]? = some f → f.kind ≠ .path) →
      a.arrives ⟨e.pos, e.mask, e.jix, .header⟩ = false → ((a.settle rank (fuel + 1)).slotA).path = some ⟨e.pos, e.mask, e.jix, .header⟩) ∧
    (a.settle rank a.settleFuel).settle1 rank = none

/-- FORK takes a free record for each lane, READY with its entry and arguments, at the head of the issuing core's deque; it waits for records. RENQ sends a packet for each lane to the basin that A names; each is a release fence of its lane at `.dev`, which the task comes after. Both are deferred in a task that is not irrevocable, and raise TASKERR for an entry outside the table (R204, R205, R208, R270, R284, R296, R305). That the last lane's record stands first in the deque is the model's choice (log 2). -/
def Obligations.ForkAndRemoteEnqueueMakeTasks : Prop :=
  (∀ (o : MOps) s id b a p, s.running = some (id, b, a, p) → a.active p o.g ≠ 0 →
     let m := a.active p o.g
     let e := wordB s a o 0
     (¬ entryIn s a e → exec (.fork o) s = .next (s.raiseAt id b p.pos m (fun L => ⟨cTASKERR, false, L, 0⟩))) ∧
     (entryIn s a e → allDirect s a m →
       (s.freeCount a.cluster < popMask m → exec (.fork o) s = .next s) ∧
       (popMask m ≤ s.freeCount a.cluster → ∃ S f, becomes (.fork o) s S id b (a.account s (.fork o)) p
         ∧ S = { s with recs := S.recs, disps := S.disps, fresh := S.fresh, journal := S.journal, events := S.events }
         ∧ recorded s S ((lanesOf m).map (fun L => (a.party id L, Access.release 2, [], [])))
         ∧ recordsTaken s S a m f (fun L => newRec e (arguments a o L) a.launch a.wideCore .ready false false)
         ∧ (S.disp a.cluster a.wideCore).deque a.vf = (lanesOf m).reverse.map f ++ (s.disp a.cluster a.wideCore).deque a.vf)) ∧
     (entryIn s a e → a.isWave = true → s.softLanes a m = m → s.overflow a m (fun L => .fork e (arguments a o L)) = 0 →
       ∃ S, becomes (.fork o) s S id b (a.account s (.fork o)) p ∧ buffered s S a m (fun L => .fork e (arguments a o L)) ∧ S.nextId = s.nextId)) ∧
  (∀ (o : MOps) s id b a p, s.running = some (id, b, a, p) → a.active p o.g ≠ 0 →
     let m := a.active p o.g
     let e := wordB s a o 0
     let dst (L : Nat) : Word := BitVec.ofNat 32 (wordA s a o L)
     let ack := o.mod.getLsbD 0
     let c (ready : Bool) : Agent := (a.account s (.renq o)).startOp { (opOf s b (p.flagOf o.fs) [] [] []) with ready := ready, mayTrap := ack }
     (¬ entryIn s a e → exec (.renq o) s = .next (s.raiseAt id b p.pos m (fun L => ⟨cTASKERR, false, L, 0⟩))) ∧
     (entryIn s a e → allDirect s a m → becomes (.renq o) s { s.fenceLanes id a m (.release 2) [] [] with nextId := s.nextId + 1, packets := s.packets ++ (lanesOf m).zipIdx.map (fun x =>
         ⟨dst x.1 &&& 0xFF07F000, true, e, 0, a.launch, arguments a o x.1, a.cluster / 16, some (id, s.nextId, x.1), ack, 0, 0, 0xFFFF, none, [s.nextEv + x.2], none⟩) } id b (c false) p) ∧
     (entryIn s a e → a.isWave = true → s.softLanes a m = m → s.overflow a m (fun L => .renq (dst L) e (arguments a o L)) = 0 →
       ∃ S, becomes (.renq o) s S id b (c true) p ∧ buffered s S a m (fun L => .renq (dst L) e (arguments a o L)) ∧ S.nextId = s.nextId + 1))

/-- SPAWN makes each lane a WAITING or SPEC record whose handle goes to D and to the dependence word, releases it where the count is 0, and makes no task where the word already names one; the attach is one strong atomic with a release at `.dev` (R205, R270, R284). That the lanes attach in rising order is the model's choice (log 2), and the core of a SPEC record its reading of R298 (log 20). -/
def Obligations.SpawnAttachesItsTasks : Prop :=
  (∀ (o : MOps) s id b a p (spec : Bool) loc, s.running = some (id, b, a, p) → a.active p o.g ≠ 0 → direct s a (a.active p o.g) → entryIn s a (wordB s a o 0) →
    popMask (a.active p o.g) ≤ s.freeCount a.cluster →
    lanesReach s id b a (a.active p o.g) needRW 8 (fun L => valA s a o (.bits 2) L) loc → (∀ L ∈ lanesOf (a.active p o.g), s.sound (loc L) 8 = true) →
    let i : Instr := if spec then .spawnSpec o else .spawn o
    let m := a.active p o.g
    let before (L : Nat) : State := spawnsDone (s.forget (.slot id b)) id a o spec (wordB s a o 0) loc (lanesBelow m L)
    let one (L : Nat) : State × Word × Bool := (before L).spawnLane id a o spec (wordB s a o 0) L (loc L) (valA s a o (.bits 2) L)
    ((∀ L ∈ lanesOf m, (one L).2.2 = true) →
      ∃ S c, becomes i s S id b c p ∧ S = spawnsDone (s.forget (.slot id b)) id a o spec (wordB s a o 0) loc (lanesOf m)
        ∧ c = { a.account s i with vregs := c.vregs } ∧ ∀ r L, L < 64 → c.v r L = if r = o.d.toNat ∧ m.getLsbD L = true ∧ r < a.nregs then (one L).2.1 else a.v r L)) ∧
  (∀ (s : State) id a o (spec : Bool) e L l va r, s.freeRec a.cluster = some r → (a.isWave = true → ∀ x ∈ s.recs, ¬(x.2.st = .running ∧ x.2.spec = true)) →
    let w := ofBytes (s.load l 8)
    let h := BitVec.ofNat 32 (2 ^ 24 * s.devNum + 2 ^ 12 * a.cluster + r)
    let x := s.spawnLane id a o spec e L l va
    let said (t : Word) : Prop := recorded s x.1 [(a.party id L, s.accAt (.release 2) l, l.spots 8, ((l.add 4).spots 4).zip (bytesOf t.toNat 4))]
    (w / 2 ^ 32 % 2 ^ 32 = 2 ^ 32 - 1 → x.2 = (h, true)
      ∧ x.1.rec? (4096 * a.cluster + r) = some (newRec e (arguments a o L) a.launch (if spec then s.chooseCore a.cluster a.vf else a.wideCore) (if spec then .spec else .waiting) spec true)
      ∧ (w % 2 ^ 32 = 0 → (∃ evs, s.nextEv ∈ evs ∧ x.1.packets = s.packets ++ [{ releaseOf h a.launch (a.cluster / 16) (BitVec.ofNat 64 va) with evs := evs }])
          ∧ said noHandle ∧ ∀ y, x.1.peek y = s.peek y)
      ∧ (w % 2 ^ 32 ≠ 0 → x.1.packets = s.packets ∧ said h ∧ ∀ y, x.1.peek y = (byteOver (l.add 4) (bytesOf h.toNat 4) y).getD (s.peek y))) ∧
    (w / 2 ^ 32 % 2 ^ 32 ≠ 2 ^ 32 - 1 → x.2 = (h, false) ∧ x.1.packets = s.packets ∧ (∀ y, x.1.peek y = s.peek y)
      ∧ ∃ q, x.1.rec? (4096 * a.cluster + r) = some q ∧ q.st = .free))

/-- DEP.DEC and DEP.ADD change COUNT as one strong atomic for each lane at `.dev`, DEC with release; DEC to 0 takes the handle and sends the release, which comes after it; an underflow or overflow changes nothing; the old COUNT goes to D; without a table TASKERR (R204, R206, R284). That the lanes go in rising order is the model's choice (log 2). -/
def Obligations.DependenceCountsChangeAtomically : Prop :=
  (∀ (o : MOps) s id b a p (isAdd : Bool) loc, s.running = some (id, b, a, p) → a.active p o.g ≠ 0 → direct s a (a.active p o.g) → s.hasTable a = true →
    lanesReach s id b a (a.active p o.g) needRW 8 (globAddr s a o) loc → (∀ L ∈ lanesOf (a.active p o.g), s.sound (loc L) 8 = true) →
    let i : Instr := if isAdd then .depAdd o else .depDec o
    let m := a.active p o.g
    let nr := o.mod.getLsbD 0
    let before (L : Nat) : State := depsDone (s.forget (.slot id b)) id a o isAdd loc (lanesBelow m L)
    (∀ L ∈ lanesOf m, (depOf (before L) id a o isAdd loc L).2.2 = false) →
    becomes i s { depsDone (s.forget (.slot id b)) id a o isAdd loc (lanesOf m) with nextId := s.nextId + 1 } id b
      ((a.account s i).startOp (opOf s b (p.flagOf o.fs) (if nr then [] else [(o.d.toNat, 1)]) []
        (if nr then [] else (lanesOf m).flatMap (fun L => laneWrites L o.d.toNat 1 (depOf (before L) id a o isAdd loc L).2.1)))) p) ∧
  (∀ (o : MOps) s id b a p, s.running = some (id, b, a, p) → a.active p o.g ≠ 0 → s.hasTable a = false → ∀ i ∈ [Instr.depAdd o, .depDec o],
    exec i s = .next (s.raiseAt id b p.pos (a.active p o.g) (fun L => ⟨cTASKERR, false, L, 0⟩))) ∧
  (∀ (s : State) q l va launch chiplet n,
    let w := ofBytes (s.load l 8)
    let c := w % 2 ^ 32
    let t := w / 2 ^ 32 % 2 ^ 32
    let dec := s.depDec q l va launch chiplet
    let add := s.depAdd q l n
    let wrote (x : State) (acc : Access) (bs : List Byte) : Prop :=
      recorded s x [(q, s.accAt acc l, l.spots 8, (l.spots bs.length).zip bs)] ∧ ∀ y, x.peek y = (byteOver l bs y).getD (s.peek y)
    dec.2.1 = c ∧ (c = 0 → dec = (s, 0, true)) ∧
    (1 < c ∨ (c = 1 ∧ t = 2 ^ 32 - 1) → dec.2.2 = false ∧ dec.1.packets = s.packets ∧ wrote dec.1 (.release 2) (bytesOf (c - 1) 4)) ∧
    (c = 1 → t ≠ 2 ^ 32 - 1 → dec.2.2 = false ∧ wrote dec.1 (.release 2) (bytesOf (2 ^ 32 * (2 ^ 32 - 1)) 8)
      ∧ ∃ evs, s.nextEv ∈ evs ∧ dec.1.packets = s.packets ++ [{ releaseOf (BitVec.ofNat 32 t) launch chiplet (BitVec.ofNat 64 va) with evs := evs }]) ∧
    add.2.1 = c ∧ (2 ^ 32 ≤ c + n → add = (s, c, true)) ∧
    (c + n < 2 ^ 32 → add.2.2 = false ∧ add.1.packets = s.packets ∧ wrote add.1 (.at 2) (bytesOf (c + n) 4)))

/-- TEND, and EXIT in a wave, end the tasks of their lanes: each commits, or waits while it is speculative; the lanes leave. TABORT gives its tasks back, READY at the tail of the deque of the wide core where their wave ran or, while speculative, WAITING, and TABORT.DROP discards them; their buffered writes never reach memory. Outside a wave, and for TABORT of an irrevocable task, TASKERR (R200, R207, R293). -/
def Obligations.TasksEndOrAbort : Prop :=
  (∀ s id b a p, s.running = some (id, b, a, p) → ∀ (i : Instr) (g : Guard), (∃ o : MOps, g = o.g ∧ (i = .tend o ∨ i = .exit o)) ∨ (∃ o : SOps, g = o.g ∧ i = .exitS o) → a.active p g ≠ 0 →
     let m := a.active p g
     (a.kind = .wave → a.group = none → ∃ S a', exec i s = .next S ∧ S = { s with agents := S.agents, recs := S.recs } ∧ S.agent? id = some a'
       ∧ a' = { issuedAgent s a with live := a.live &&& ~~~m, slotA := a'.slotA, slotB := a'.slotB, stack := a'.stack, handler := a'.handler }
       ∧ ∀ k, S.rec? k = (s.rec? k).map (fun r => if (∃ L ∈ lanesOf m, a.recKey L = some k) then { r with ended := true, st := if r.spec then r.st else .commit } else r)) ∧
     (∀ o : MOps, i = .tend o → a.isWave = false → exec i s = .next (s.raiseAt id b p.pos m (fun L => ⟨cTASKERR, false, L, 0⟩)))) ∧
  (∀ (o : MOps) s id b a p (drop : Bool), s.running = some (id, b, a, p) → a.active p o.g ≠ 0 →
     let i : Instr := if drop then .tabortDrop o else .tabort o
     let m := a.active p o.g
     let irr := s.irrevLanes a m
     (a.isWave = false → exec i s = .next (s.raiseAt id b p.pos m (fun L => ⟨cTASKERR, false, L, 0⟩))) ∧
     (a.isWave = true → irr ≠ 0 → exec i s = .next (s.raiseAt id b p.pos irr (fun L => ⟨cTASKERR, false, L, 0⟩))) ∧
     (a.isWave = true → irr = 0 → ownRecords s a m → ∃ S a', exec i s = .next S ∧ S.agent? id = some a' ∧ a'.live = a.live &&& ~~~m ∧ (∀ L, m.getLsbD L = true → a'.recKey L = none)
       ∧ S.mem = s.mem ∧ S.hostMem = s.hostMem ∧ S.groups = s.groups ∧ S.scratch = s.scratch ∧ S.launches = s.launches ∧ S.packets = s.packets
       ∧ ∀ L ∈ lanesOf m, ∀ k r, a.recKey L = some k → s.rec? k = some r → ∃ q, S.rec? k = some q ∧ q.buffer = [] ∧ q.lines = []
           ∧ (drop = true → q.st = if r.attached then .held else .free)
           ∧ (drop = false → q = { r with st := if r.spec then .waiting else .ready, buffer := [], lines := [], ended := false })) ∧
     (a.isWave = true → irr = 0 → ownRecords s a m → drop = false → ∀ l core, mapGet? s.launches a.launch = some l →
       (∀ L ∈ lanesOf m, ∀ k r, a.recKey L = some k → s.rec? k = some r → k / 4096 = a.cluster ∧ r.launch = a.launch) →
       ∃ S, exec i s = .next S ∧ (S.disp a.cluster core).deque l.vf = (s.disp a.cluster core).deque l.vf ++ (lanesOf m).filterMap (fun L =>
         (a.recKey L).bind (fun k => (s.rec? k).bind (fun r => if r.spec = false ∧ r.core = core then some (k % 4096) else none)))))


/-- An operation that has been performed completes: its registers are written, FPC takes its flags, its flag is signalled. Sleeping slots wake when the cycles have passed; a warp whose watchdog interval has passed takes WDOG; agents and groups with nothing left retire, what a warp held staying its group's until the last one, and a context that resumes runs once no agent of it is halted (R43, R52, R192, R200, R216, R244, R265, R348, R395, R407). The model's: when an operation completes (log 1), the count of 0 when WDOG is taken (log 7) with LANE 0 (log 23), what a retired warp holds (log 33). -/
def Obligations.OperationsCompleteAndAgentsRetire : Prop :=
  ∀ (s : State) id a, s.agent? id = some a →
    (∀ x, a.ops.find? (fun y => y.id == x.id) = some x → lanesWritten x →
      (x.ready = false ∨ a.opFilled x.id = false → exec (.longLatencyComplete id x.id) s = .next s) ∧
      (x.ready = true → a.opFilled x.id = true → s.fragsOf id = [] → ∃ a', exec (.longLatencyComplete id x.id) s = .next ((s.tellEvents id x.id).setAgent id a') ∧ delivered a x a') ∧
      (∀ f y, x.ready = true → a.opFilled x.id = true → s.fragsOf id = [f] → f ≠ id → s.agent? f = some y → ∃ a' y',
        exec (.longLatencyComplete id x.id) s = .next (((s.tellEvents id x.id).setAgent id a').setAgent f y') ∧ delivered a x a'
        ∧ y' = { y with sregs := y'.sregs, owed := y.owed.filter (fun z => z.1 != x.id) }
        ∧ ∀ r, y'.s r = if (x.id, r) ∈ y.owed then ((x.writes.find? (fun w => decide (w.lane = none ∧ w.reg = r))).map (fun w => w.val)).getD (y.s r) else y.s r)) ∧
    exec (.pathRestore id) s = .next (if a.halted then s else (s.settle id a).overHandler id) ∧
    (∀ b, ((a.slot b).wait = .sleep 0 → exec (.sleepEnd id b) s = .next (s.setAgent id (waiting a b .none))) ∧
      ((a.slot b).wait ≠ .sleep 0 → exec (.sleepEnd id b) s = .next s)) ∧
    (s.wdogOf a = 0 ∨ a.wdc < s.wdogOf a ∨ a.halted = true → exec (.watchdogExpiry id) s = .next s) ∧
    (∀ b p, a.kind = .grid → a.halted = false → s.wdogOf a ≠ 0 → s.wdogOf a ≤ a.wdc → s.watched id a = true → a.handler = none → s.handlerOf a ≠ 0 →
      (a.slot b).path = some p → (b = true → a.slotA.path = none) →
      ∃ a', exec (.watchdogExpiry id) s = .next (s.setAgent id a') ∧ entersHandler { a with wdc := 0 } b p.pos ⟨0x0B, false, 0, 0⟩ (s.handlerOf a) s.tail a') ∧
    (a.over = false → exec (.warpRetire id) s = .next s) ∧
    (a.over = true →
      let gone : State := { s with agents := mapErase s.agents id, scratch := mapErase s.scratch id }
      let leaves (S : State) : Prop := exec (.warpRetire id) s = .next (S.resumed a.vf a.ctx)
      (a.kind = .wave → s.committing id = false → leaves gone) ∧
      (∀ par j r, a.kind = .frag par j r → a.faulted = true → leaves gone) ∧
      (∀ g gr, a.kind = .grid → s.fragsOf id = [] → a.group = some g → mapGet? s.groups g = some gr →
        (mapErase gr.warps a.warp ≠ [] → leaves { gone with groups := mapSet s.groups g { gr with
            warps := mapErase gr.warps a.warp, held := gr.held ++ [(a.core, a.units, if a.core.isWide then blocksOf a.width a.nregs else 0)] } }) ∧
        (∀ l, mapErase gr.warps a.warp = [] → mapGet? s.launches gr.launch = some l → leaves { gone with
            groups := mapErase s.groups g, rings := s.rings.filter (fun r => r.2.owner != .group g), ringsOut := s.ringsOut.filter (fun r => r.2.owner != .group g),
            launches := mapSet s.launches gr.launch { l with retired := l.retired + 1 }, journal := s.journal ++ [(s.journal.length, .retired gr.launch gr.gid)] })))

/-- A fragment starts, pulls the granules it lacks, is given granules before its parent writes them, returns its dirty registers and its predicates when it merges, and arrives at barriers and exits by messages, each delivered behind those of its own ports (R250 to R258). A halted fragment keeps its wait (R170). The model's: which granule of several is pulled (log 16), the merge of a fragment without a live lane whose trap nothing takes (log 33), its wait for operations without a flag (log 7). -/
def Obligations.FragmentsPullPushAndMerge : Prop :=
  ∀ (s : State) f x p j r a, s.agent? f = some x → x.kind = .frag p j r → s.agent? p = some a →
    (let kind (m : SaddleMsg) : Prop := m = .start f
     (noneSent s kind → exec (.fragmentStart f) s = .next s) ∧
     ∀ T, delivers s kind (.start f) T → exec (.fragmentStart f) s = .next (T.setAgent f { x with begun := true })) ∧
    (let kind (m : SaddleMsg) : Prop := ∃ gs, m = .pullReq f gs
     let answers (T : State) (want : List Nat) : Prop :=
       (want.filter a.settled = [] → exec (.pullRequest f) s = .next (T.setAgent f { x with asked := want })) ∧
       (want.filter a.settled ≠ [] → exec (.pullRequest f) s =
         .next ((T.setAgent f { x with asked := want.filter (fun g => !(a.settled g)) }).sendDown x (.pullResp f (want.filter a.settled))))
     (noneSent s kind → answers s x.asked) ∧
     ∀ T gs, delivers s kind (.pullReq f gs) T → ∃ want, (∀ g, g ∈ want ↔ g ∈ x.asked ∨ g ∈ gs) ∧ answers T want) ∧
    (let kind (m : SaddleMsg) : Prop := ∃ gs, m = .pullResp f gs
     (noneSent s kind → exec (.pullResponse f) s = .next s) ∧
     ∀ T gs, delivers s kind (.pullResp f gs) T → ∃ x', exec (.pullResponse f) s = .next (T.setAgent f x') ∧ brought x a gs x') ∧
    (∀ g, let kind (m : SaddleMsg) : Prop := m = .push f g
     (noneSent s kind → exec (.push f g) s = .next s) ∧
     ∀ T, delivers s kind (.push f g) T → ∃ x', exec (.push f g) s = .next (T.setAgent f x') ∧ brought x a [g] x') ∧
    (x.fragEnded = false ∨ x.flags ≠ [] ∨ x.ops ≠ [] ∨ s.upstream x = true → exec (.merge f) s = .next s) ∧
    (x.faulted = false → x.halted = false → x.fragEnded = true → x.flags = [] → x.ops = [] → (x.traps = [] ∨ x.live = 0) → s.upstream x = false →
      (∀ g, (g, GranuleSt.dirty) ∈ x.granules → g ∉ a.unfilled ∧ g ∉ x.unfilled) →
      ∃ a', exec (.merge f) s = .next ((({ s with agents := mapErase s.agents f } : State).settle p a').overHandler p)
        ∧ a' = { a with vregs := a'.vregs, bad := a'.bad, badStg := a'.badStg, stgPar := a'.stgPar, preds := a'.preds, fpc := a.fpc ||| (x.fpc.zeroExtend 7).zeroExtend 32, stack := a.stack.modify j (fun e => { e with pend := e.pend - 1 }) }
        ∧ (∀ q L, L < 64 → a'.v q L = if x.live.getLsbD L = true ∧ (q / 8, GranuleSt.dirty) ∈ x.granules ∧ q < a.nregs then x.v q L else a.v q L)
        ∧ (∀ q L, q < 8 → L < 64 → (a'.p q).getLsbD L = if x.live.getLsbD L = true then (x.p q).getLsbD L else (a.p q).getLsbD L)) ∧
    (let kind (m : SaddleMsg) : Prop := ∃ g w b l tok n, m = .barArrive f g w b l tok n
     (noneSent s kind → exec (.barrierArrival f) s = .next s) ∧
     ∀ T g w b l tok n gr, delivers s kind (.barArrive f g w b l tok n) T → mapGet? s.groups g = some gr →
      let gen := (gr.bar b).gen
      let new := l &&& ~~~(mapGetD (gr.bar b).arrived w 0)
      let T1 := match tok with | some t => T.setAgent f (x.mapWaits (fun y => match y with | .barSent k u => if u = t then .bar k gen else y | _ => y)) | none => T
      (new = 0 → exec (.barrierArrival f) s = .next T1) ∧
      (new ≠ 0 → ∃ G, arrival gr b w new G ∧
        exec (.barrierArrival f) s = .next ((T1.note { Ev.link [] [.bar g b gen] [] with follows := x.issuers f new n }).atBarrier g (fun _ => G)))) ∧
    (let kind (m : SaddleMsg) : Prop := ∃ b gen, m = .barDone f b gen
     (noneSent s kind → exec (.barrierCompletion f) s = .next s) ∧
     ∀ T b gen g, delivers s kind (.barDone f b gen) T → (x.halted = true → exec (.barrierCompletion f) s = .next T) ∧ (x.halted = false → x.group = some g → ∃ here late : Mask,
      (∀ L, L < 64 → (here.getLsbD L = true ↔ ∃ m, barPath x b gen m ∧ m.getLsbD L = true))
      ∧ (∀ L, L < 64 → (late.getLsbD L = true ↔ ∃ n m, aWait x (.barArv b n m) ∧ n ≤ gen ∧ m.getLsbD L = true))
      ∧ let T1 := (T.setAgent f (x.mapWaits (fun y => if y.overBar b gen then .none else y))).fenceLanes f x here (.acquire 1) [] [.bar g b gen]
        let T2 := T1.fenceLanes f x late (.release 1) [] []
        exec (.barrierCompletion f) s = .next (if late = 0 then T1 else T2.sendUp x (.barArrive f g x.warp b late none T2.nextEv)))) ∧
    (let kind (m : SaddleMsg) : Prop := ∃ g w l, m = .fragExit f g w l
     (noneSent s kind → exec (.fragmentExitMessage f) s = .next s) ∧
     ∀ T g w l gr, delivers s kind (.fragExit f g w l) T → mapGet? s.groups g = some gr →
      ∃ G, exec (.fragmentExitMessage f) s = .next (T.atBarrier g (fun _ => G)) ∧ exited gr w l G)

/-- The copy engine moves bytes between places of group memory; a walk that has ended posts its count and tag in its ring; a command that has performed all signals its operation, or records its failure; one whose entry is struck fails with TADDR 0; a follow-on is paid for at its CPY's last chunk boundary, and enters the matrix unit's queue once that has room (R177 to R185, R219, R225, R306, R318, R324, R410). The model's: the order of a command's bytes (log 2), and how an entry is known to be struck (log 30). -/
def Obligations.EngineCommandsArePerformed : Prop :=
  (∀ (s : State) cluster se, s.engQ cluster se = [] → exec (.engineChunk cluster se) s = .next s) ∧
  (∀ (s : State) cluster c a src dst n peer sstr dstr, s.engQ cluster false = [c] → c.op = .cpy src dst n 1 peer .gm .gm sstr dstr none →
    c.finished = false → c.out = false → c.i = 0 → c.paid = 1 → 0 < n → n ≤ 4096 → src + n ≤ 2 ^ 20 → dst + n ≤ 2 ^ 20 → (src + n ≤ dst ∨ dst + n ≤ src) →
    s.agent? c.agent = some a → s.ctxRuns c.vf c.ctx = true → s.groupFilled c.agent = true → s.pageHeld (.eng cluster false c.id) = false → s.gmBad = [] → s.cmdBad.contains c.id = false →
    (∀ k, k < n → s.gmCell c.agent a (src + k) ≠ .out ∧ s.gmCell c.agent a (dst + k) ≠ .out) →
    let seen := State.sight (if c.begun then s else c.acquires s) [(c.bytesEv a .weak, s.gmSpots c.agent a src n)]
    let moved (k : Nat) : Byte := seen.1.byteIn seen.2 (.gm (s.gmCell c.agent a (src + k)))
    ∃ S, exec (.engineChunk cluster false) s = .next S ∧ onlyGroupMemory { s with engines := S.engines } S
      ∧ recorded seen.1 S ((List.range n).map (fun k => (a.command c.agent c.id c.flag c.lanes, .weak, [], [(.gm (s.gmCell c.agent a (dst + k)), moved k)])))
      ∧ (∀ e, S.engQ cluster e = if e = false then [{ c with i := n, begun := true, finished := true }] else s.engQ cluster e)
      ∧ (∀ k, k < n → S.gmPeek (s.gmCell c.agent a (dst + k)) = moved k)
      ∧ ∀ x, x ≠ .out → (∀ k, k < n → s.gmCell c.agent a (dst + k) ≠ x) → S.gmPeek x = s.gmPeek x) ∧
  (∀ (s : State) cluster c a merge aadr badr alen blen keys dedup ring tag gm dst r, s.engQ cluster true = [c] →
    c.op = .walk merge aadr badr alen blen keys dedup false ring tag gm dst → c.walkDone = true → c.finished = false → c.out = false → s.agent? c.agent = some a →
    s.ctxRuns c.vf c.ctx = true → s.groupFilled c.agent = true → s.cmdBad.contains c.id = false → s.ring? cluster ring = some r → r.owner = a.ringOwner → slotsInUse r < r.nslot →
    r.rsv < 2 ^ 32 → r.pst = r.rsv → r.posted = [] → tag < 2 ^ 32 →
    let slot := r.base + r.rsv % r.nslot * r.slotb
    (∀ k, k < 8 → s.gmCell c.agent a ((slot + k) % 2 ^ 32) ≠ .out) →
    ∃ S, exec (.engineChunk cluster true) s = .next S ∧ S.engQ cluster true = [{ c with begun := true, finished := true }]
      ∧ S.ring? cluster ring = some { r with rsv := (r.rsv + 1) % 2 ^ 32, pst := (r.rsv + 1) % 2 ^ 32 }
      ∧ ofBytes (S.gmRead c.agent a (slot % 2 ^ 32) 8) = c.n % 2 ^ 32 + 2 ^ 32 * tag) ∧
  (∀ (s : State) cluster se c, s.engQ cluster se = [c] → c.finished = false → c.out = false → s.ctxRuns c.vf c.ctx = true → s.groupFilled c.agent = true → s.cmdBad.contains c.id = true →
    exec (.engineChunk cluster se) s = .next (s.setEngQ cluster se [{ c with finished := true, fail := some (0, 0x03, 0, 0), bad := c.lanes }])) ∧
  (∀ (s : State) cluster se c a x, (s.engQ cluster se).find? (fun y => y.id == c.id) = some c → s.agent? c.agent = some a → a.ops.find? (fun y => y.id == c.opId) = some x → lanesWritten x →
    let gone : State := ((c.releases s).setEngQ cluster se ((s.engQ cluster se).filter (fun y => y.id != c.id))).forget (.eng cluster se c.id)
    let plain : Prop := ∀ src dst rowb rows peer dsp ssp sstr dstr f, c.op ≠ .cpy src dst rowb rows peer dsp ssp sstr dstr (some f)
    (c.finished = false ∨ s.ctxHalted c.vf c.ctx = true ∨ a.opFilled c.opId = false → exec (.engineCommandComplete cluster se c.id) s = .next s) ∧
    (c.finished = true → plain → s.ctxHalted c.vf c.ctx = false → a.opFilled c.opId = true → c.fail = none →
      ∃ a', exec (.engineCommandComplete cluster se c.id) s = .next (gone.setAgent c.agent a') ∧ delivered a x a') ∧
    (∀ e cause addr lane, c.finished = true → plain → s.ctxHalted c.vf c.ctx = false → a.opFilled c.opId = true → c.fail = some (e, cause, addr, lane) → a.isWave = false →
      ∃ a', exec (.engineCommandComplete cluster se c.id) s = .next (gone.setAgent c.agent a')
        ∧ delivered { a with traps := a.traps ++ [⟨cause, BitVec.ofNat 64 addr, lane, c.flag, c.seq, s.time⟩] } x a')) ∧
  (∀ (s : State) cluster c a src dst rowb rows peer dsp ssp sstr dstr m quad, (s.engQ cluster false).find? (fun y => y.id == c.id) = some c →
    c.op = .cpy src dst rowb rows peer dsp ssp sstr dstr (some (m, quad)) → s.agent? c.agent = some a → c.finished = true → c.handed = false → s.ctxRuns c.vf c.ctx = true →
    c.fail = none → noRing m.op →
    let k := muKey cluster quad c.vf c.ctx
    let chunks := max ((rowb * rows + 4095) / 4096) 1
    let room : Prop := s.muBusy cluster quad < 16 ∧ ∀ y ∈ (s.mu k).queue, y.out = false
    let changed (S : State) (g : EngCmd → EngCmd) : State := S.setEngQ cluster false ((S.engQ cluster false).map (fun y => if y.id == c.id then g y else y))
    let paid (S : State) : State := changed S (fun y => { y with paid := chunks + 1 })
    let entered (S : State) : State := (changed (c.releases (paid S)) (fun y => { y with handed := true })).setMu k { s.mu k with queue := (s.mu k).queue ++ [{ m with id := c.id, fail := none, seq := s.nextId }] }
    (chunks < c.paid → (room → exec (.followOnHandover cluster c.id) s = .next (entered s)) ∧ (¬ room → exec (.followOnHandover cluster c.id) s = .next (paid s))) ∧
    (c.paid ≤ chunks → (s.purse cluster quad).claimant = none → (s.purse cluster quad).others = [] →
      (muPrice m.op ≤ (s.purse cluster quad).tokens → ∃ S, charged s S cluster quad c.vf (muPrice m.op) ∧
        (room → exec (.followOnHandover cluster c.id) s = .next (entered S)) ∧ (¬ room → exec (.followOnHandover cluster c.id) s = .next (paid S))) ∧
      ((s.purse cluster quad).tokens < muPrice m.op → exec (.followOnHandover cluster c.id) s =
        .next (s.setPurse cluster quad { s.purse cluster quad with claimant := some (.eng false c.id, muPrice m.op), short := 0 }))))

/-- The head of a matrix unit's queue starts when its ring slot is filled, and completes: its effects, or its recorded failure, and its signal. ACC.ZERO clears its tiles (R240), MUFENCE nothing, an MMA without its tile records ILLOP; a product of integers is exact, wrapped to 32 bits. A forwarded command pays and enters the queue (R219, R225). The whole: R218, R221, R222, R228, R229, R241, R397, R406, R410. -/
def Obligations.MatrixCommandsStartAndComplete : Prop :=
  (∀ (s : State) cluster quad k c rest, muHead s cluster quad k c rest → muReady s cluster quad k c → c.fail = none →
    let acquired (t : State) : State := if c.acq then (c.acquires t).setMu k { t.mu k with scache := [] } else t
    let begins (t : State) (d : MuCmd) : Host.Outcome State Fault Refusal := .next (t.setMu k { t.mu k with queue := { d with started := true } :: rest })
    (noRing c.op → c.slot = none → exec (.muCommandStart cluster quad) s = begins (acquired (s.forget (.mu k c.id))) c) ∧
    (∀ x64 pr x7 sat f act za wbs aadr ast sp nv mv K arb ablk a r, c.op = .mma x64 pr x7 sat f act za true wbs aadr ast sp nv mv K arb ablk → c.slot = none →
      s.agent? c.agent = some a →
      (s.ring? cluster (aadr % 64) = none → exec (.muCommandStart cluster quad) s = begins (acquired s) { c with fail := some (0x09, 0) }) ∧
      (s.ring? cluster (aadr % 64) = some r → r.owner = a.ringOwner →
        (slotsFilled r = 0 → exec (.muCommandStart cluster quad) s = .next s) ∧
        (0 < slotsFilled r → exec (.muCommandStart cluster quad) s =
          begins ((((acquired s).note { c.ev a 2 (.acquire 1) with takes := [.post r.serial r.tkn] }).setRing cluster (aadr % 64) { r with tkn := (r.tkn + 1) % 2 ^ 32 }).forget (.mu k c.id))
            { c with slot := some (r.base + r.tkn % r.nslot * r.slotb) })))) ∧
  (∀ (s : State) cluster quad k c rest a x, muHead s cluster quad k c rest → c.started = true → c.fail = none → c.parentCmd = none → c.reads = [] →
    s.pageHeld (.mu k c.id) = false → s.agent? c.agent = some a → a.isFrag = false → a.ops.find? (fun y => y.id == c.opId) = some x → lanesWritten x → Memory.wf (s.mu k).acm = true → s.gmBad = [] → (s.mu k).bad = [] →
    let done (acm : List Host.Cell) : State := ((c.releases s).setMu k { s.mu k with queue := rest, acm := acm }).forget (.mu k c.id)
    (s.cmdBad.contains c.id = true → (c.op = .fence ∨ ∃ mask, c.op = .accZero mask) → a.isWave = false → ∃ a', exec (.muCommandComplete cluster quad) s = .next ((done (s.mu k).acm).setAgent c.agent a')
      ∧ delivered { a with traps := a.traps ++ [⟨0x03, 0, 0, c.flag, c.seq, s.time⟩] } x a') ∧
    (s.cmdBad.contains c.id = false →
    (∀ mask, c.op = .accZero mask → ∃ acm a', exec (.muCommandComplete cluster quad) s = .next ((done acm).setAgent c.agent a') ∧ delivered a x a'
      ∧ ∀ y, memGet acm y = if y / 16384 < 16 ∧ mask.testBit (y / 16384) = true then 0 else memGet (s.mu k).acm y) ∧
    (c.op = .fence → ∃ a', exec (.muCommandComplete cluster quad) s = .next ((done (s.mu k).acm).setAgent c.agent a') ∧ delivered a x a') ∧
    (∀ x64 pr x7 sat f act za wbs aadr ast sp nv mv K arb ablk, c.op = .mma x64 pr x7 sat f act za false wbs aadr ast sp nv mv K arb ablk → a.isWave = false →
      mapGet? (s.mu k).wb wbs = none → ∃ a', exec (.muCommandComplete cluster quad) s = .next ((done (s.mu k).acm).setAgent c.agent a')
        ∧ delivered { a with traps := a.traps ++ [⟨0x01, 0, 0, c.flag, c.seq, s.time⟩] } x a'))) ∧
  (∀ (s : State) cluster quad vf ctx cmd here src dst l₁ l₂, mapGetD s.saddle cluster [] = l₁ ++ ⟨src, dst, .matrix quad vf ctx cmd here⟩ :: l₂ → (here = true → s.ctxRuns vf ctx = true) →
    (here = true ∨ Saddle.free ⟨src, dst, .matrix quad vf ctx cmd here⟩ l₁ = true) → (∀ y ∈ l₁, ∀ v c m h, y.msg ≠ .matrix quad v c m h) →
    let come : State := { s with saddle := mapPut [] s.saddle cluster (l₁ ++ ⟨src, dst, .matrix quad vf ctx cmd true⟩ :: l₂) }
    let absent : Prop := ∃ y ∈ (s.mu (muKey cluster quad vf ctx)).queue, y.out = true
    (s.ctxRuns vf ctx = false ∨ 16 ≤ s.muDepth cluster quad ∨ absent → exec (.forwardedMatrixCommand cluster quad) s = .next come) ∧
    (s.ctxRuns vf ctx = true → s.muDepth cluster quad < 16 → ¬ absent → (s.purse cluster quad).claimant = none → (s.purse cluster quad).others = [] →
      (muPrice cmd.op ≤ (s.purse cluster quad).tokens → ∃ S, charged s S cluster quad vf (muPrice cmd.op) ∧
        let k := muKey cluster quad vf ctx
        exec (.forwardedMatrixCommand cluster quad) s = .next (State.setMu { S with saddle := mapPut [] s.saddle cluster (l₁ ++ l₂) } k { s.mu k with queue := (s.mu k).queue ++ [cmd] })) ∧
      ((s.purse cluster quad).tokens < muPrice cmd.op → exec (.forwardedMatrixCommand cluster quad) s =
        .next (come.setPurse cluster quad { s.purse cluster quad with claimant := some (.fwd cmd.id, muPrice cmd.op), short := 0 })))) ∧
  (∀ acm pr f t act za nv mv K fz aRows aSc afmt cols bSc bfmt i j, mmaFmt f = some t → t.acc = I32 → i < mv → mv ≤ 64 → j < nv → nv ≤ 64 → Memory.wf acm = true →
    acmGet (mmaResult acm false pr false false f act za nv mv K fz aRows aSc afmt cols bSc bfmt).1 false act i j =
      wrapNat ((if za then 0 else intOfCode I32 (acmGet acm false act i j)) + total ((List.range K).map (fun k =>
        elemInt f (rowElem f pr (aRows.getD i 0) k) * elemInt f ((cols.getD j []).getD k 0)))) 32)

/-- A doorbell is the queue's tail; the next record of an enabled queue is accepted once its waits are done, or refused; a group is placed with its warps in their first state; a launch that has run to its end writes its status and then its completion word (R337 to R348). The model's: which group and quadrant of several (log 16), the refusal of a launch of no groups (log 13), and that a stopped VF takes neither doorbells nor records (log 11). -/
def Obligations.LaunchesAreAcceptedPlacedAndCompleted : Prop :=
  (∀ (s : State) r c tail, mapGet? (s.vf r.vf).ctxs r.ctx = some c →
    ((s.vf r.vf).enabled = true → (s.vf r.vf).stopped = false → exec (.doorbellWrite r tail) s =
      .next (s.setVf r.vf { s.vf r.vf with ctxs := mapSet (s.vf r.vf).ctxs r.ctx { c with tails := mapPut 0 c.tails r.q tail } })) ∧
    ((s.vf r.vf).enabled = false ∨ (s.vf r.vf).stopped = true → exec (.doorbellWrite r tail) s = .next s)) ∧
  (∀ (s : State) r c q, mapGet? (s.vf r.vf).ctxs r.ctx = some c → mapGet? c.queues r.q = some q →
    (q.en = false ∨ (s.vf r.vf).stopped = true ∨ mapGetD c.tails r.q 0 = BitVec.ofNat 32 q.accepted → exec (.launchAccept r) s = .next s) ∧
    (∀ bs t sn k, q.en = true → (s.vf r.vf).stopped = false → mapGetD c.tails r.q 0 ≠ BitVec.ofNat 32 q.accepted →
      s.devRead (.queue r) r.vf c.pasid (q.base.toNat + 128 * (q.accepted % 2 ^ q.logn)) 128 = (s, some bs) →
      let rcd := ofBytes bs
      let waits := [0, 1, 2, 3].map (waitField rcd)
      (s.accepts r c waits).snapshot (.queue r) r.vf c.pasid (field rcd 0 64) = (t, some sn) → t = { s with events := t.events } → sn.kern = some k → sn.tet = none →
      (∃ waited : List Link, (∀ x, x ∈ waited ↔ ∃ w ∈ waits, w.2.1 = true ∧ ∃ n, w.1 ≤ n ∧ n ≤ ((mapGet? c.queues w.2.2).map (fun x => x.completed)).getD 0 ∧ x = .number r.vf r.ctx w.2.2 n) ∧
        s.accepts r c waits = s.note { Ev.of (launchParty s.nextId r.vf) (.acquire 3) with gives := [.opened s.nextId], takes := waited, follows := [(.host, s.nextEv)] }) ∧
      ((∃ w ∈ waits, w.2.1 = true ∧ ∃ x, mapGet? c.queues w.2.2 = some x ∧ x.en = true ∧ x.completed < w.1) → exec (.launchAccept r) s = .next s) ∧
      ((∀ w ∈ waits, w.2.1 = true → ∀ x, mapGet? c.queues w.2.2 = some x → x.en = true → w.1 ≤ x.completed) → ∃ refused : Bool,
        (refused = true ↔ sn.bad = true ∨ field rcd 128 32 = 0 ∨ (∃ w ∈ waits, w.2.1 = true ∧ ∀ x, mapGet? c.queues w.2.2 = some x → x.en = false)
          ∨ ∀ cl ∈ s.ownClusters r.vf, s.fitEmpty cl r.vf k = false) ∧
        let c1 : Ctx := if refused = false ∧ (∀ y ∈ s.launches, ¬(y.2.vf = r.vf ∧ y.2.ctx = r.ctx ∧ y.2.refused = false)) then { c with save := some k.save } else c
        exec (.launchAccept r) s = .next (State.forget { withQueue t r c1 { q with accepted := q.accepted + 1 } with
          launches := mapSet s.launches s.nextId (acceptedLaunch r q rcd k refused), nextId := s.nextId + 1,
          journal := s.journal ++ [(s.journal.length, .accepted s.nextId)] } (.queue r))))) ∧
  (∀ (s : State) id l c places p gran, mapGet? s.launches id = some l →
    (s.placeable l = false → exec (.groupPlace id) s = .next s) ∧
    (s.placeable l = true → (∀ y ∈ s.launches, before y (id, l) = true → s.placeable y.2 = true → s.placesOf y = []) →
      s.placesOf (id, l) = c :: places → s.fit c l.vf l.kern = some (p, gran) → s.granulesClear c gran = true →
      (∀ q, q < 8 → ∀ mine, mine = p.filter (fun x => x.1 == q) → mine ≠ [] → (s.quadUse c q).clear (mine.flatMap (fun x => x.2)) (mine.length * l.kern.need.blocks) = true) →
      ∃ S, exec (.groupPlace id) s = .next S
        ∧ S = { s with agents := S.agents, groups := S.groups, launches := S.launches, gmBad := S.gmBad, nextId := s.nextId + 1 + p.length, journal := s.journal ++ [(s.journal.length, .placed id l.placed)] }
        ∧ (∀ g, mapGet? S.groups g = if g = s.nextId then some ⟨id, l.vf, l.ctx, l.placed, c, gran, [], p.zipIdx.map (fun x => (x.2, s.nextId + 1 + x.2)),
            p.zipIdx.map (fun x => (x.2, maskTo (min l.kern.width (l.kern.gsize - l.kern.width * x.2)))), [], [], false, false, [], [], false⟩ else mapGet? s.groups g)
        ∧ (∀ k, (k ≤ s.nextId ∨ s.nextId + p.length < k) → S.agent? k = s.agent? k)
        ∧ (∀ k q us, p[k]? = some (q, us) → ∃ a, S.agent? (s.nextId + 1 + k) = some a ∧
            let m := maskTo (min l.kern.width (l.kern.gsize - l.kern.width * k))
            a.kind = .grid ∧ a.vf = l.vf ∧ a.ctx = l.ctx ∧ a.launch = id ∧ a.group = some s.nextId ∧ a.warp = k ∧ a.gid = BitVec.ofNat 32 l.placed ∧ a.gsize = l.kern.gsize
            ∧ a.ngroups = l.ngroups ∧ a.cluster = c ∧ a.core = .wide (q / 4) (q % 4) ∧ a.units = us ∧ a.width = l.kern.width ∧ a.live = m ∧ a.nregs = l.kern.regs
            ∧ a.vregs = [] ∧ a.preds = [] ∧ a.flags = [] ∧ a.fpc = l.kern.fpc ∧ a.stack = [] ∧ a.handler = none ∧ a.dsn = l.kern.dsn
            ∧ (∀ x, a.s x = if x = 4 then l.arg.zeroExtend 32 else if x = 5 then BitVec.ofNat 32 (l.arg.toNat / 2 ^ 32) else 0)
            ∧ a.slotA.path = some ⟨⟨l.kern.code + BitVec.ofNat 64 l.kern.entry, 0⟩, m, .none, .header⟩ ∧ a.slotB.path = none)
        ∧ mapGet? S.launches id = some { l with placed := l.placed + 1, cursor := c + 1, passed := [] }
        ∧ ∀ k y, k ≠ id → mapGet? s.launches k = some y → ∃ z, mapGet? S.launches k = some z ∧ z = { y with passed := z.passed })) ∧
  (∀ (s : State) r c q id l, mapGet? (s.vf r.vf).ctxs r.ctx = some c → mapGet? c.queues r.q = some q → s.launchAt r q.completed = some (id, l) →
    (s.launchOver id l = false → exec (.launchComplete r) s = .next s) ∧
    (∀ locs t u, s.launchOver id l = true → s.devAccess (.queue r) r.vf c.pasid needW q.caddr.toNat 8 = (s, some locs) →
      s.devWrite (.queue r) r.vf c.pasid (q.base.toNat + 128 * (q.completed % 2 ^ q.logn) + 96) l.status (Ev.of (launchParty id r.vf) .weak) = (t, true) →
      t.devWrite (.queue r) r.vf c.pasid q.caddr.toNat (bytesOf (q.completed + 1) 8)
        { Ev.of (launchParty id r.vf) (.release 3) with takes := [.over id], gives := [.number r.vf r.ctx r.q (q.completed + 1)] } = (u, true) →
      exec (.launchComplete r) s = .next (State.forget { u.modQueue r (fun q => { q with completed := q.completed + 1 }) with
        launches := mapErase u.launches id, rings := u.rings.filter (fun x => x.2.owner != .tasks id), ringsOut := u.ringsOut.filter (fun x => x.2.owner != .tasks id), journal := u.journal ++ [(u.journal.length, .completed id)] } (.queue r)))) ∧
  (∀ l : Launch, l.status.length = 32 ∧ let w := ofBytes l.status
    (w.testBit 0 = l.refused) ∧ (w.testBit 1 = l.fault) ∧ (w.testBit 2 = l.taskFail) ∧ (w.testBit 3 = l.taskErr) ∧ (w.testBit 4 = l.lost)
    ∧ ∀ cause ident addr, l.first = some (cause, ident, addr) → cause < 256 → l.nfault < 2 ^ 32 →
      field w 8 8 = cause ∧ field w 32 32 = ident.toNat ∧ field w 64 64 = addr.toNat ∧ field w 128 32 = l.nfault)

/-- The requests of a VF: contexts, queues, the event queue, and the query of a cluster; a code that is not assigned is answered UNKNOWN, a VF's from the PF DENIED (R337, R368 to R371, R373). The readings of requests that the rules do not spell out are the model's (log 13). -/
def Obligations.VfRequestsAreAnswered : Prop :=
  ∀ (s : State) (d : Nat → Nat),
    (∀ v, requested s (.vf v) 0x01 d →
      let used := (s.vf v).ctxs
      (2 ^ 20 ≤ d 0 ∨ (∃ c ∈ used, c.2.pasid = d 0) ∨ (∀ n, n < 16 → ∃ c ∈ used, c.1 = n) → replies (.ctxNew (.vf v)) s s (.vf v) 1) ∧
      (∀ n, d 0 < 2 ^ 20 → (∀ c ∈ used, c.2.pasid ≠ d 0) → n < 16 → (∀ c ∈ used, c.1 ≠ n) → (∀ k, k < n → ∃ c ∈ used, c.1 = k) →
        repliesValue (.ctxNew (.vf v)) s (s.setVf v { s.vf v with ctxs := mapSet used n ⟨d 0, .run, none, [], []⟩ }) (.vf v) n)) ∧
    (∀ v, requested s (.vf v) 0x02 d →
      (16 ≤ d 0 → replies (.ctxFree (.vf v)) s s (.vf v) 1) ∧
      (d 0 < 16 → mapGet? (s.vf v).ctxs (d 0) = none → replies (.ctxFree (.vf v)) s s (.vf v) 2) ∧
      (∀ c, d 0 < 16 → mapGet? (s.vf v).ctxs (d 0) = some c →
        (c.queues ≠ [] → replies (.ctxFree (.vf v)) s s (.vf v) 1) ∧
        (c.queues = [] → replies (.ctxFree (.vf v)) s (State.setVf { s with mus := s.mus.filter (fun x => decide (x.1 % 1024 ≠ 16 * v + d 0)) } v
          { s.vf v with ctxs := mapErase (s.vf v).ctxs (d 0) }) (.vf v) 0))) ∧
    (∀ v, requested s (.vf v) 0x03 d →
      let n := field (d 0) 0 4
      let q := field (d 0) 8 5
      let who : Waiter := .queue ⟨v, n, q⟩
      (field (d 0) 4 4 ≠ 0 ∨ 2 ^ 13 ≤ d 0 → replies (.qReg (.vf v)) s s (.vf v) 1) ∧
      (field (d 0) 4 4 = 0 → d 0 < 2 ^ 13 →
        (mapGet? (s.vf v).ctxs n = none → replies (.qReg (.vf v)) s s (.vf v) 2) ∧
        (∀ c, mapGet? (s.vf v).ctxs n = some c →
          ((∃ l ∈ s.launches, l.2.vf = v ∧ l.2.ctx = n ∧ l.2.q = q) → replies (.qReg (.vf v)) s s (.vf v) 1) ∧
          (∀ bs t, (∀ l ∈ s.launches, ¬(l.2.vf = v ∧ l.2.ctx = n ∧ l.2.q = q)) → s.reqAccess who v c.pasid needR (d 1) 32 (.wait s) = none →
            s.devRead who v c.pasid (d 1) 32 = (s, some bs) →
            let w := ofBytes bs
            let legal : Prop := field w 0 64 % 128 = 0 ∧ field w 64 64 % 8 = 0 ∧ field w 144 5 ≤ 23 ∧ 1 ≤ field w 128 5 ∧ field w 128 5 ≤ 16
            (¬ legal → replies (.qReg (.vf v)) s s (.vf v) 1) ∧
            (legal → s.reqAccess who v c.pasid needW (field w 64 64) 8 (.wait s) = none → s.devWrite who v c.pasid (field w 64 64) [0, 0, 0, 0, 0, 0, 0, 0] (Ev.link [] [] []) = (t, true) →
              let x : Queue := ⟨BitVec.ofNat 64 (field w 0 64), BitVec.ofNat 64 (field w 64 64), w.testBit 159, field w 144 5, field w 128 5, 0, 0, false⟩
              replies (.qReg (.vf v)) s (t.modCtx v n (fun c => { c with queues := mapSet c.queues q x })) (.vf v) 0))))) ∧
    (∀ v, requested s (.vf v) 0x04 d →
      let n := field (d 0) 0 4
      let q := field (d 0) 8 5
      (field (d 0) 4 4 ≠ 0 ∨ 2 ^ 13 ≤ d 0 ∨ d 1 ≠ 0 → replies (.qUnreg (.vf v)) s s (.vf v) 1) ∧
      (field (d 0) 4 4 = 0 → d 0 < 2 ^ 13 → d 1 = 0 →
        ((∀ c, mapGet? (s.vf v).ctxs n = some c → mapGet? c.queues q = none) → replies (.qUnreg (.vf v)) s s (.vf v) 2) ∧
        (∀ c x, mapGet? (s.vf v).ctxs n = some c → mapGet? c.queues q = some x →
          ((∃ l ∈ s.launches, l.2.vf = v ∧ l.2.ctx = n ∧ l.2.q = q) → replies (.qUnreg (.vf v)) s s (.vf v) 1) ∧
          ((∀ l ∈ s.launches, ¬(l.2.vf = v ∧ l.2.ctx = n ∧ l.2.q = q)) →
            replies (.qUnreg (.vf v)) s (s.setVf v { s.vf v with ctxs := mapSet (s.vf v).ctxs n { c with queues := mapErase c.queues q } }) (.vf v) 0)))) ∧
    (∀ v, requested s (.vf v) 0x05 d →
      (d 0 < 4 ∨ 12 < d 0 ∨ d 1 % 4096 ≠ 0 → replies (.evqSet (.vf v)) s s (.vf v) 1) ∧
      (4 ≤ d 0 → d 0 ≤ 12 → d 1 % 4096 = 0 → replies (.evqSet (.vf v)) s (s.setVf v { s.vf v with evq := some ⟨d 1, d 0, 0, 0⟩ }) (.vf v) 0)) ∧
    (∀ f, requested s f 0x06 d →
      let n := mapGetD s.splits (d 0) 8
      let others := (s.parts.filter (fun x => x.1 / 64 == d 0)).map (fun x => x.2)
      (128 ≤ d 0 → replies (.clQry f) s s f 1) ∧
      (d 0 < 128 →
        (∀ v, f = .vf v → (s.part (d 0) v).qmask = 0 → replies (.clQry f) s s f 2) ∧
        (∀ v, f = .vf v → (s.part (d 0) v).qmask ≠ 0 →
          repliesValue (.clQry f) s s f (n + 2 ^ 8 * (40 - n) + 2 ^ 16 * (s.part (d 0) v).gmb.length + 2 ^ 24 * (s.part (d 0) v).l1b)) ∧
        (f = .pf → repliesValue (.clQry f) s s f
          (n + 2 ^ 8 * (40 - n) + 2 ^ 16 * (n - sumOf (others.map (fun p => p.gmb.length))) + 2 ^ 24 * (40 - n - sumOf (others.map (fun p => p.l1b))))))) ∧
    (∀ f code, asked s f code d → (code < 1 ∨ (6 < code ∧ code < 0x40) ∨ 0x4E < code) → replies (.mailboxUnknown f) s s f 3) ∧
    (∀ v, ∀ x ∈ [(Instr.ctxNew (.vf v), 0x01), (.ctxFree (.vf v), 0x02), (.qReg (.vf v), 0x03), (.qUnreg (.vf v), 0x04), (.evqSet (.vf v), 0x05), (.clQry (.vf v), 0x06)],
      asked s (.vf v) x.2 d → (∃ k, wordsOf x.2 ≤ k ∧ d k ≠ 0) → replies x.1 s s (.vf v) 1) ∧
    (∀ x ∈ [(Instr.ctxNew .pf, 0x01), (.ctxFree .pf, 0x02), (.qReg .pf, 0x03), (.qUnreg .pf, 0x04), (.evqSet .pf, 0x05)], asked s .pf x.2 d → replies x.1 s s .pf 2)

/-- The requests of the PF that assign VFs, partitions, allotments, L2 shares, slot tables, amax rings and splits; one of a VF is DENIED (R134, R215, R317, R367 to R378, R382, R387, R392). The readings of requests that the rules do not spell out are the model's (log 13), and that every PART.SET is an assignment, from which the cluster's counters count (log 33). -/
def Obligations.PartitionRequestsAreAnswered : Prop :=
  ∀ (s : State) (d : Nat → Nat),
    let named (v : Nat) : Prop := v < 64 ∧ (s.vf v).enabled = true
    (requested s .pf 0x40 d →
      (64 ≤ d 0 ∨ (s.vf (d 0)).enabled = true → replies (.vfEnable .pf) s s .pf 1) ∧
      (d 0 < 64 → (s.vf (d 0)).enabled = false → replies (.vfEnable .pf) s
        (State.setVf { s with keys := s.keys + 1, vfOffset := mapErase s.vfOffset (d 0), vfBoxes := mapErase s.vfBoxes (d 0) } (d 0)
          { Vf.off with enabled := true, key := s.keys + 1, priEn := (s.vf (d 0)).priEn, priAlloc := (s.vf (d 0)).priAlloc }) .pf 0)) ∧
    (requested s .pf 0x41 d →
      let v := d 0
      (¬ named v ∨ (∃ l ∈ s.launches, l.2.vf = v) ∨ (∃ w ∈ s.windows, w.2.home = v) → replies (.vfReset .pf) s s .pf 1) ∧
      (named v → tidy s → (∀ l ∈ s.launches, l.2.vf ≠ v) → (∀ w ∈ s.windows, w.2.home ≠ v) → ∃ T, replies (.vfReset .pf) s T .pf 0
        ∧ T.vf v = { Vf.off with priEn := (s.vf v).priEn, priAlloc := (s.vf v).priAlloc } ∧ (∀ u, u ≠ v → T.vf u = s.vf u)
        ∧ T.parts = s.parts.filter (fun x => decide (x.1 % 64 ≠ v))
        ∧ T.gmOor = s.gmOor.filter (fun x => decide (x.1 % 64 ≠ v)) ∧ T.amaxLost = s.amaxLost.filter (fun x => decide (x.1 % 64 ≠ v)) ∧ emptied s T (s.vf v).extents ∧ passed s T (s.vf v).extents none
        ∧ T.amax = s.amax.map (fun x => (x.1, if x.2.owner = some v then { x.2 with owner := none } else x.2))
        ∧ T.windows = s.windows.map (fun x => (x.1, { x.2 with members := mapErase x.2.members v })) ∧ T.peers = s.peers.filter (fun x => decide (x.1 / 64 ≠ v))
        ∧ T.agents = s.agents ∧ T.launches = s.launches ∧ T.groups = s.groups ∧ T.keys = s.keys ∧ T.hostMem = s.hostMem ∧ T.counters = s.counters)) ∧
    (requested s .pf 0x42 d →
      let v := field (d 0) 0 6
      let cl := field (d 0) 8 7
      let qm := field (d 0) 16 8
      let gmb := field (d 0) 24 5
      let l1b := field (d 0) 32 6
      let zeros : Prop := d 0 < 2 ^ 38 ∧ field (d 0) 29 3 = 0 ∧ field (d 0) 15 1 = 0 ∧ field (d 0) 6 2 = 0
      let others := (s.parts.filter (fun x => x.1 / 64 == cl && x.1 % 64 != v)).map (fun x => x.2)
      let n := mapGetD s.splits cl 8
      let fits : Prop := (if qm = 0 then gmb = 0 ∧ l1b = 0 else 1 ≤ gmb ∧ 4 ≤ l1b) ∧ (s.vf v).share ≠ []
        ∧ sumOf (others.map (fun p => p.gmb.length)) + gmb ≤ n ∧ sumOf (others.map (fun p => p.l1b)) + l1b ≤ 40 - n
      let want : PartSet := ⟨qm, s.banksFor cl v gmb, l1b⟩
      (¬ zeros ∨ (s.vf v).enabled = false → replies (.partSet .pf) s s .pf 1) ∧
      (zeros → (s.vf v).enabled = true →
        ((∃ p ∈ others, p.qmask &&& qm ≠ 0) → replies (.partSet .pf) s s .pf 2) ∧
        ((∀ p ∈ others, p.qmask &&& qm = 0) → ¬ fits → replies (.partSet .pf) s s .pf 1) ∧
        ((∀ p ∈ others, p.qmask &&& qm = 0) → fits → s.givenUpIdle cl v want = false → held (.partSet .pf) s s .pf (.part cl v want)) ∧
        ((∀ p ∈ others, p.qmask &&& qm = 0) → fits → s.givenUpIdle cl v want = true → replies (.partSet .pf) s (s.handOver cl v want) .pf 0))) ∧
    (∀ cl v want, let T := s.handOver cl v want
      T = { s with parts := mapPut ⟨0, [], 0⟩ s.parts (64 * cl + v) want, gmOor := mapErase s.gmOor (64 * cl + v), amaxLost := mapErase s.amaxLost (64 * cl + v), purses := T.purses, tlb := T.tlb, mus := T.mus, chiplets := T.chiplets }
      ∧ (∀ k, mapGetD T.purses k Purse.empty = if (List.range 8).any (fun q => k == 8 * cl + q && want.qmask.testBit q && !((s.part cl v).qmask.testBit q)) then Purse.empty else mapGetD s.purses k Purse.empty)
      ∧ ∀ x ∈ T.mus, x ∈ s.mus ∧ ∀ q, q < 8 → want.qmask.testBit q = true → (s.part cl v).qmask.testBit q = false → x.1 / 1024 ≠ 8 * cl + q) ∧
    (∀ cl v want, s.pfBox.pend = some (.part cl v want) →
      (s.givenUpIdle cl v want = true → replies (.partSetHandover .pf) s (s.handOver cl v want) .pf 0) ∧
      (s.givenUpIdle cl v want = false → exec (.partSetHandover .pf) s = .next s)) ∧
    (requested s .pf 0x43 d →
      (¬ named (d 0) → replies (.allot .pf) s s .pf 1) ∧
      (named (d 0) → ∃ T, replies (.allot .pf) s T .pf 0 ∧ T = { s with vfs := mapPut Vf.off s.vfs (d 0) { s.vf (d 0) with allot := d 1 }, chiplets := T.chiplets }
        ∧ ∀ c, c < 8 → s.quadsOn c (d 0) ≠ 0 → ∃ x, mapGet? (T.chiplet c).injNew (d 0) = some x ∧ x.en = true
            ∧ x.inj = min 65535 (10 * d 1 * s.quadsOn c (d 0) / (s.quadsOf (d 0) * (12 + (s.chiplet c).level))))) ∧
    (requested s .pf 0x44 d →
      let v := d 0
      let n := d 1
      let slices := [0, 1, 2, 3].map (fun c => (s.slicesFor v c).take (n / 4))
      (¬ named v ∨ n % 8 ≠ 0 ∨ n < 8 ∨ 256 < n ∨ (∃ l ∈ slices, l.length < n / 4) → replies (.l2Share .pf) s s .pf 1) ∧
      (named v → n % 8 = 0 → 8 ≤ n → n ≤ 256 → (∀ l ∈ slices, l.length = n / 4) →
        held (.l2Share .pf) s (s.setVf v { s.vf v with newShare := some slices.flatten }) .pf (.share v))) ∧
    (∀ v l, (s.vf v).newShare = some l → s.pfBox.pend = some (.share v) → (s.vf v).evq = none →
      ∃ T, replies (.l2ShareComplete v) s (State.setVf T v { s.vf v with share := l, newShare := none }) .pf 0
        ∧ T = { s with counters := T.counters, nodes := T.nodes, verified := T.verified, broken := T.broken, poison := T.poison, whole := T.whole,
                       dirty := s.dirty.filter (fun g => s.homeOf (256 * g.1) != some v) }) ∧
    (requested s .pf 0x47 d →
      let t := memRead s.hostMem (d 1) 1024
      (17 < d 0 ∨ (∃ b ∈ t, b.getLsbD 6 = true) → replies (.slotSet .pf) s s .pf 1) ∧
      (d 0 ≤ 17 → (∀ b ∈ t, b.getLsbD 6 = false) → replies (.slotSet .pf) s { s with newTabs := mapSet s.newTabs (d 0) t } .pf 0)) ∧
    (requested s .pf 0x4D d →
      (64 ≤ d 0 ∨ (d 1 ≠ 0xFF ∧ ¬ named (d 1)) → replies (.amaxSet .pf) s s .pf 1) ∧
      (d 0 < 64 → d 1 = 0xFF → replies (.amaxSet .pf) s { s with amax := mapSet s.amax (d 0) ⟨none, List.replicate 16 0, 0⟩ } .pf 0) ∧
      (d 0 < 64 → named (d 1) → replies (.amaxSet .pf) s { s with amax := mapSet s.amax (d 0) ⟨some (d 1), List.replicate 16 0, 0⟩ } .pf 0)) ∧
    (requested s .pf 0x4E d →
      (128 ≤ d 0 ∨ 3 ≤ d 1 ∨ (∃ x ∈ s.parts, x.1 / 64 = d 0) → replies (.clSplit .pf) s s .pf 1) ∧
      (d 0 < 128 → d 1 < 3 → (∀ x ∈ s.parts, x.1 / 64 ≠ d 0) → replies (.clSplit .pf) s { s with splits := mapPut 8 s.splits (d 0) (8 + 4 * d 1) } .pf 0)) ∧
    (∀ v, ∀ x ∈ [(Instr.vfEnable (.vf v), 0x40), (.vfReset (.vf v), 0x41), (.partSet (.vf v), 0x42), (.allot (.vf v), 0x43), (.l2Share (.vf v), 0x44), (.memGrant (.vf v), 0x45),
        (.memRevoke (.vf v), 0x46), (.slotSet (.vf v), 0x47), (.winNew (.vf v), 0x48), (.winAdd (.vf v), 0x49), (.winDel (.vf v), 0x4A), (.winFree (.vf v), 0x4B), (.peerMap (.vf v), 0x4C),
        (.amaxSet (.vf v), 0x4D), (.clSplit (.vf v), 0x4E)], asked s (.vf v) x.2 d → replies x.1 s s (.vf v) 2) ∧
    (∀ x ∈ [(Instr.vfEnable .pf, 0x40), (.vfReset .pf, 0x41), (.partSet .pf, 0x42), (.allot .pf, 0x43), (.l2Share .pf, 0x44), (.memGrant .pf, 0x45), (.memRevoke .pf, 0x46),
        (.slotSet .pf, 0x47), (.winNew .pf, 0x48), (.winAdd .pf, 0x49), (.winDel .pf, 0x4A), (.winFree .pf, 0x4B), (.peerMap .pf, 0x4C), (.amaxSet .pf, 0x4D), (.clSplit .pf, 0x4E),
        (.clQry .pf, 0x06)], asked s .pf x.2 d → (∃ k, wordsOf x.2 ≤ k ∧ d k ≠ 0) → replies x.1 s s .pf 1)

/-- The requests of the PF over memory, windows and peers: extents pass between owners with their counters reset and reading zeros; a member of a window leaves at once, and its request ends when its accesses have been performed (R380 to R391). The readings of requests that the rules do not spell out are the model's (log 13). -/
def Obligations.MemoryAndWindowRequestsAreAnswered : Prop :=
  ∀ (s : State) (d : Nat → Nat), tidy s →
    let named (v : Nat) : Prop := v < 64 ∧ (s.vf v).enabled = true
    let owns (v : Nat) (es : List Nat) : Prop := ∀ e ∈ es, mapGet? s.extents e = some (.vf v)
    (requested s .pf 0x45 d → ∀ es, es = (List.range (d 2)).map (fun i => d 1 + i) →
      (¬ named (d 0) ∨ 141824 < d 1 + d 2 ∨ (∃ e ∈ es, mapGet? s.extents e ≠ none) → replies (.memGrant .pf) s s .pf 1) ∧
      (named (d 0) → extentsNamed (d 1) (d 2) es → (∀ e ∈ es, mapGet? s.extents e = none) → ∃ T, replies (.memGrant .pf) s T .pf 0
        ∧ T = { s with counters := T.counters, nodes := T.nodes, mem := T.mem, dirty := T.dirty, whole := T.whole, poison := T.poison, extents := T.extents, events := T.events,
                       vfs := mapPut Vf.off s.vfs (d 0) { s.vf (d 0) with extents := (s.vf (d 0)).extents ++ es } }
        ∧ emptied s T es ∧ recounted s T es ∧ passed s T es (some (.vf (d 0))))) ∧
    (requested s .pf 0x46 d → ∀ es, es = (List.range (d 2)).map (fun i => d 1 + i) →
      (¬ named (d 0) ∨ 141824 < d 1 + d 2 ∨ ¬ owns (d 0) es ∨ (∃ l ∈ s.launches, l.2.vf = d 0) → replies (.memRevoke .pf) s s .pf 1) ∧
      (named (d 0) → extentsNamed (d 1) (d 2) es → owns (d 0) es → (∀ l ∈ s.launches, l.2.vf ≠ d 0) → ∃ T, replies (.memRevoke .pf) s T .pf 0
        ∧ T = { s with mem := T.mem, dirty := T.dirty, whole := T.whole, poison := T.poison, extents := T.extents,
                       vfs := mapPut Vf.off s.vfs (d 0) { s.vf (d 0) with extents := (s.vf (d 0)).extents.filter (fun e => !(es.contains e)) } }
        ∧ emptied s T es ∧ passed s T es none)) ∧
    (requested s .pf 0x48 d → ∀ es w, es = (List.range (d 2)).map (fun i => d 1 + i) →
      (¬ named (d 0) ∨ 141824 < d 1 + d 2 ∨ ¬ owns (d 0) es ∨ (∀ w, w < 64 → ∃ x ∈ s.windows, x.1 = w) → replies (.winNew .pf) s s .pf 1) ∧
      (named (d 0) → extentsNamed (d 1) (d 2) es → owns (d 0) es → w < 64 → (∀ x ∈ s.windows, x.1 ≠ w) → (∀ u, u < w → ∃ x ∈ s.windows, x.1 = u) →
        ∃ T, repliesValue (.winNew .pf) s T .pf w
        ∧ T = { s with counters := T.counters, nodes := T.nodes, mem := T.mem, dirty := T.dirty, whole := T.whole, poison := T.poison, extents := T.extents, events := T.events, keys := s.keys + 1,
                       windows := mapSet s.windows w ⟨d 0, es, [(d 0, 3)], s.keys + 1⟩,
                       vfs := mapPut Vf.off s.vfs (d 0) { s.vf (d 0) with extents := (s.vf (d 0)).extents.filter (fun e => !(es.contains e)) } }
        ∧ emptied s T es ∧ recounted s T es ∧ passed s T es (some (.win w)))) ∧
    (requested s .pf 0x49 d → ∀ x, mapGet? s.windows (d 0) = some x →
      let v := field (d 1) 0 6
      let perm := field (d 1) 8 2
      let ok : Prop := d 0 < 64 ∧ d 1 < 2 ^ 10 ∧ field (d 1) 6 2 = 0 ∧ perm % 2 = 1 ∧ (s.vf v).enabled = true ∧ (x.members.length < 8 ∨ mapGet? x.members v ≠ none)
      (¬ ok → replies (.winAdd .pf) s s .pf 1) ∧
      (ok → replies (.winAdd .pf) s { s with windows := mapSet s.windows (d 0) { x with members := mapSet x.members v perm } } .pf 0)) ∧
    (requested s .pf 0x4A d → ∀ x, mapGet? s.windows (d 0) = some x →
      let ok : Prop := d 0 < 64 ∧ d 1 ≠ x.home ∧ mapGet? x.members (d 1) ≠ none
      (¬ ok → replies (.winDel .pf) s s .pf 1) ∧
      (ok → held (.winDel .pf) s { s with windows := mapSet s.windows (d 0) { x with members := mapErase x.members (d 1) } } .pf (.winDel (d 0) (d 1)))) ∧
    (∀ w v, s.pfBox.pend = some (.winDel w v) →
      (s.windowBusy w v = true → exec (.winDelDrained w v) s = .next s) ∧
      (s.windowBusy w v = false → (s.vf v).evq = none → replies (.winDelDrained w v) s s .pf 0)) ∧
    (requested s .pf 0x4B d → ∀ x, mapGet? s.windows (d 0) = some x → x.extents.Nodup →
      (64 ≤ d 0 ∨ (∃ y ∈ x.members, y.1 ≠ x.home) → replies (.winFree .pf) s s .pf 1) ∧
      (d 0 < 64 → (∀ y ∈ x.members, y.1 = x.home) → ∃ T, replies (.winFree .pf) s T .pf 0
        ∧ T = { s with counters := T.counters, nodes := T.nodes, verified := T.verified, broken := T.broken, mem := T.mem, dirty := T.dirty, whole := T.whole, poison := T.poison, extents := T.extents,
                       events := T.events, windows := mapErase s.windows (d 0),
                       vfs := mapPut Vf.off s.vfs x.home { s.vf x.home with extents := (s.vf x.home).extents ++ x.extents } }
        ∧ emptied s T x.extents ∧ recounted s T x.extents ∧ passed s T x.extents (some (.vf x.home)))) ∧
    (mapGet? s.windows (d 0) = none → ∀ i ∈ [(Instr.winAdd .pf, 0x49), (.winDel .pf, 0x4A), (.winFree .pf, 0x4B)], requested s .pf i.2 d → replies i.1 s s .pf 1) ∧
    (requested s .pf 0x4C d →
      let ok : Prop := named (d 0) ∧ d 1 < 64 ∧ d 2 < 256 ∧ d 3 < 64
      (¬ ok → replies (.peerMap .pf) s s .pf 1) ∧
      (ok → d 2 = 0xFF → replies (.peerMap .pf) s { s with peers := mapErase s.peers (64 * d 0 + d 1) } .pf 0) ∧
      (ok → d 2 ≠ 0xFF → held (.peerMap .pf) s { s with sent := s.sent ++ [.peerAsk (d 0) (d 1) (d 2) (d 3)] } .pf (.peer (d 0) (d 1) (d 2) (d 3)))) ∧
    (∀ v i dev w len, s.pfBox.pend = some (.peer v i dev w) →
      replies (.peerDaleMessage (.mapAgreed v i len)) s { s with peers := mapSet s.peers (64 * v + i) ⟨dev, w, len⟩ } .pf 0 ∧
      replies (.peerDaleMessage (.mapRefused v i)) s s .pf 1)

/-- A halt stops a running context, which is HALTED once everything that has begun has ended; a claimed unit's contents go to the save area in its layout; resumption marks everything absent, places each agent again, and fills on use (R66, R264, R395 to R408, R427). What of the save area is held as records, and what marks of struck registers go where, is the model's choice (logs 19, 30). -/
def Obligations.ContextsHaltSpillAndResume : Prop :=
  (∀ (s : State) vf ctx c, s.ctx? vf ctx = some c →
    (c.st ≠ .run → exec (.halt vf ctx) s = .next s) ∧
    (c.st = .run → ∃ S, exec (.halt vf ctx) s = .next S ∧ S.ctx? vf ctx = some { c with st := .halting } ∧ S.mem = s.mem ∧ S.hostMem = s.hostMem
      ∧ ((∀ x ∈ s.agents, ofCtx vf ctx x.2 → x.2.isWave = false) → S = withCtx s vf ctx { c with st := .halting })) ∧
    (c.st ≠ .halting ∨ s.quiet vf ctx = false → exec (.contextHalted vf ctx) s = .next s) ∧
    (c.st = .halting → s.quiet vf ctx = true → (∀ x ∈ s.agents, ofCtx vf ctx x.2 → x.2.stack = []) →
      ∃ S, exec (.contextHalted vf ctx) s = .next S
        ∧ S = State.emit ((State.forget { s with agents := S.agents } (.save vf ctx)).setVf vf { s.vf vf with
            ctxs := mapSet (s.vf vf).ctxs ctx { c with st := .halted }, haltTime := if (s.vf vf).stopped = true then s.vfTime vf else (s.vf vf).haltTime }) (.msix (.vf vf) 2)
        ∧ ∀ k, (s.agent? k = none → S.agent? k = none) ∧ (∀ a, s.agent? k = some a → ¬ ofCtx vf ctx a → S.agent? k = some a)
          ∧ ∀ a, s.agent? k = some a → ofCtx vf ctx a → ∃ x y m n, calmSlot a.slotA x ∧ calmSlot a.slotB y
            ∧ S.agent? k = some { a with halted := true, stgDirty := [], stkLost := none, slotA := x, slotB := y, bad := m, stgPar := n, badStg := if a.staging = true then [] else a.badStg }
            ∧ (∀ r, mapGetD m r 0 = if r ∈ a.stgDirty then mapGetD a.badStg r 0 ||| mapGetD a.stgPar r 0 else mapGetD a.bad r 0)
            ∧ (a.staging = false → n = a.stgPar) ∧ (a.staging = true → ∀ r, mapGetD n r 0 = if r ∈ a.named then mapGetD m r 0 else 0)) ∧
    (c.st ≠ .halted → exec (.resume vf ctx) s = .next s) ∧
    (c.st = .halted → ∃ S st, exec (.resume vf ctx) s = .next S ∧ S = withCtx { s with agents := S.agents, groups := S.groups, launches := S.launches, mus := S.mus } vf ctx { c with st := st }
      ∧ (st = .run ∨ st = .resuming) ∧ (st = .run ↔ ∀ x ∈ s.agents, ofCtx vf ctx x.2 → x.2.halted = false)
      ∧ (∀ k, S.agent? k = (s.agent? k).map (fun a => if a.vf = vf ∧ a.ctx = ctx then { a with unfilled := List.range (a.nregs / 8), gmUnfilled := List.range a.gmGran.length } else a))
      ∧ (∀ k, mapGet? S.launches k = (mapGet? s.launches k).map (fun l => if l.vf = vf ∧ l.ctx = ctx then { l with tunfilled := l.tgran.map (fun x => (x.1, List.range x.2.length)) } else l))
      ∧ (∀ k, mapGet? S.groups k = (mapGet? s.groups k).map (fun g => if g.vf = vf ∧ g.ctx = ctx then { g with unfilled := List.range g.granules.length } else g))
      ∧ ∀ k, mapGet? S.mus k = (mapGet? s.mus k).map (fun m => if k % 1024 = 16 * vf + ctx then { m with unfilled := List.range 33 } else m))) ∧
  (∀ (s : State) vf ctx c id a, s.ctx? vf ctx = some c → s.agent? id = some a → ofCtx vf ctx a →
    let home := clusterRecord s vf ctx a.cluster
    let ix := recordIndex a.core ((a.units.head?).getD 0)
    let who : Waiter := .save vf ctx
    (a.halted = false ∨ c.st ≠ .resuming ∨ s.unitsFree id a = false ∨ (∃ r ∈ s.ringsAway a.ringOwner, s.ring? r.1 r.2.1 ≠ none) → exec (.agentReplace id) s = .next s) ∧
    (a.halted = true → c.st = .resuming → s.unitsFree id a = true → (∀ r ∈ s.ringsAway a.ringOwner, s.ring? r.1 r.2.1 = none) →
      let base := (s.recordsBack a).forget who
      (∀ l, a.spilt = false → a.lost = none → s.savePlan vf ctx a.cluster false (s.backRanges a) = .go l →
        ∃ S, exec (.agentReplace id) s = .next S ∧ placedAgain base S vf ctx id c a) ∧
      (∀ l st, a.spilt = true → a.lost = none → s.savePlan vf ctx a.cluster false ((home + 0x340000 + 0x800 * ix, 2048) :: s.backRanges a) = .go l →
        let depth := (wordIn (s.saveRead l) 0x26C).toNat / 65536
        s.savePlan vf ctx a.cluster false (if depth = 0 then [] else [(a.dsb.toNat, 16 * depth)]) = .go st →
        ∃ S x, exec (.agentReplace id) s = .next S ∧ restored a (s.codeBase a) (s.saveRead l) (s.saveRead st) x ∧ placedAgain base S vf ctx id c x) ∧
      (∀ cause va g gr n, a.lost = some (cause, va) → a.kind = .grid → s.fragsOf id = [] → a.group = some g → mapGet? s.groups g = some gr → mapGet? s.launches a.launch = some n →
        ∃ S x, exec (.agentReplace id) s = .next S ∧ S.agent? id = some x ∧ x.slotA.path = none ∧ x.slotB.path = none ∧ x.faulted = true ∧ x.halted = false
          ∧ mapGet? S.launches a.launch = some (launchFaulted n (gr.faulted || gr.lost) cause a.gid va))) ∧
    let wanted : Prop := s.claimable vf ctx = true ∨ ∃ y ∈ s.agents, y.1 ≠ id ∧ y.2.isFrag = true ∧ y.2.halted = false ∧ y.2.cluster = a.cluster ∧ y.2.core = a.core ∧ ∃ u ∈ a.units, u ∈ y.2.units
    (a.halted = false ∨ a.spilt = true ∨ ¬ wanted → exec (.unitClaim (.agent id)) s = .next s) ∧
    (a.halted = true → a.spilt = false → wanted → a.core.isWide = true → a.width ≤ 64 →
      let gs := (List.range (a.nregs / 8)).filter (fun g => !(a.saved.contains g))
      let plan := s.savePlan vf ctx a.cluster true (gs.map (fun g => (home + 0x4000 * ix + 4 * a.width * (8 * g), 4 * a.width * 8)) ++ [(home + 0x340000 + 0x800 * ix, 2048)])
      let gone : Agent := { a with spilt := true, saved := List.range (a.nregs / 8), stkLost := none, lost := match a.lost with | some x => some x | none => a.stkLost }
      (∀ l, plan = .go l → ∃ bs, exec (.unitClaim (.agent id)) s = .next ((State.saveWrite { (s.forget who) with fresh := s.fresh + 1360 } l bs).setAgent id gone)
        ∧ (∀ (j : Nat) g r L, gs[j]? = some g → r < 8 → L < a.width → wordIn bs (4 * a.width * (8 * j + r) + 4 * L) = a.v (8 * g + r) L)
        ∧ recordOf a (s.codeBase a) (bs.drop (32 * a.width * gs.length))) ∧
      (∀ cause va, plan = .fail cause va → exec (.unitClaim (.agent id)) s = .next ((s.forget who).setAgent id { gone with lost := some (cause, BitVec.ofNat 64 va) }))) ∧
    (∀ g, (a.halted = true ∨ g ∉ a.unfilled → exec (.fillComplete (.agent id) g) s = .next s) ∧
      (a.halted = false → g ∈ a.unfilled →
        let left := a.unfilled.filter (fun x => x != g)
        (g ∉ a.saved → a.badRows g a.started = false → exec (.fillComplete (.agent id) g) s = .next (s.setAgent id { a with unfilled := left })) ∧
        (∀ l, g ∈ a.saved → a.core.isWide = true → a.width ≤ 64 → s.savePlan vf ctx a.cluster false [(home + 0x4000 * ix + 4 * a.width * (8 * g), 4 * a.width * 8)] = .go l →
          ∃ x, exec (.fillComplete (.agent id) g) s = .next ((s.forget who).setAgent id x)
            ∧ x = { a with vregs := x.vregs, bad := x.bad, badStg := x.badStg, stgPar := x.stgPar, unfilled := left, saved := a.saved.filter (fun x => x != g) }
            ∧ ∀ r L, L < 64 → x.v r L = if 8 * g ≤ r ∧ r < 8 * g + 8 ∧ L < a.width ∧ r < a.nregs then wordIn (s.saveRead l) (4 * a.width * (r - 8 * g) + 4 * L) else a.v r L)))) ∧
  (∀ (s : State) id g, mapGet? s.groups id = some g →
    let who : Waiter := .save g.vf g.ctx
    (∀ i p, g.granules[i]? = some p →
      let range := [(clusterRecord s g.vf g.ctx g.cluster + 0x800000 + 0x1000 * p, 4096)]
      let left := g.unfilled.filter (fun x => x != i)
      (∀ l, p ∉ g.spilt → s.claimable g.vf g.ctx = true → s.granuleBad g.cluster p = false → s.savePlan g.vf g.ctx g.cluster true range = .go l →
        ∃ T, T = (s.forget who).saveWrite l (memRead g.gm (4096 * i) 4096)
          ∧ exec (.unitClaim (.granule id i)) s = .next { T with groups := mapSet s.groups id { g with spilt := insertNat g.spilt p } }) ∧
      (i ∈ g.unfilled → s.ctxHalted g.vf g.ctx = false →
        (p ∉ g.spilt → ∀ n, exec (.fillComplete (.granule id i) n) s = .next { s with groups := mapSet s.groups id { g with unfilled := left } }) ∧
        (∀ l n, p ∈ g.spilt → s.granuleTaken (.group id) g.cluster p = false → s.savePlan g.vf g.ctx g.cluster false range = .go l → exec (.fillComplete (.granule id i) n) s =
          .next { ((s.forget who).freshGranules g.cluster [p]) with
            groups := mapSet s.groups id { g with unfilled := left, spilt := g.spilt.filter (fun x => x != p), gm := memWrite g.gm (4096 * i) (s.saveRead l) } }))) ∧
    (g.recOut = true ∨ s.claimable g.vf g.ctx = false → exec (.unitClaim (.records id)) s = .next s) ∧
    (∀ l, g.recOut = false → s.claimable g.vf g.ctx = true →
      s.savePlan g.vf g.ctx g.cluster true [(clusterRecord s g.vf g.ctx g.cluster + 0x3C0000 + 0x200 * s.groupIndex g, 512)] = .go l → ∃ bs T, bs.length = 512
        ∧ T = State.saveWrite { (s.forget who) with fresh := s.fresh + 512 } l bs
        ∧ exec (.unitClaim (.records id)) s = .next { T with groups := mapSet s.groups id { g with recOut := true } })) ∧
  (∀ (s : State) cluster id r vf ctx, s.ring? cluster id = some r → s.ownerCtx r.owner = some (vf, ctx) →
    (s.claimable vf ctx = false → exec (.unitClaim (.ring cluster id)) s = .next s) ∧
    (∀ l, s.claimable vf ctx = true → s.savePlan vf ctx cluster true [(clusterRecord s vf ctx cluster + 0x3E0000 + 0x400 * id, 1024)] = .go l → ∃ bs T, bs.length = 1024
      ∧ T = State.saveWrite { (s.forget (.save vf ctx)) with fresh := s.fresh + 1024 } l bs
      ∧ exec (.unitClaim (.ring cluster id)) s =
        .next { T with rings := mapErase s.rings (64 * cluster + id), ringsOut := mapSet s.ringsOut (8192 * (16 * vf + ctx) + 64 * cluster + id) r })) ∧
  (∀ (s : State) cluster se q₁ c q₂ l, s.engQ cluster se = q₁ ++ c :: q₂ → (∀ y ∈ q₁, y.id ≠ c.id) → c.out = false → s.ctxHalted c.vf c.ctx = true → s.claimable c.vf c.ctx = true →
    64 ≤ s.engBusy cluster se → (∀ y ∈ s.engQ cluster se, y.out = false → s.ctxHalted y.vf y.ctx = true → c.seq ≤ y.seq) →
    s.savePlan c.vf c.ctx cluster true [(clusterRecord s c.vf c.ctx cluster + 0x900000 + 0x1000 * (q₁.length % 64 + if se then 64 else 0), 4096)] = .go l → ∃ bs T, bs.length = 4096
      ∧ T = State.saveWrite { (s.forget (.save c.vf c.ctx)) with fresh := s.fresh + 4096 } l bs
      ∧ exec (.unitClaim (.engCmd cluster se c.id)) s = .next (T.setEngQ cluster se ((s.engQ cluster se).map (fun y => if y.id == c.id then { y with out := true } else y)))) ∧
  (∀ (s : State) cluster quad vf ctx,
    let k := muKey cluster quad vf ctx
    let m := s.mu k
    let who : Waiter := .save vf ctx
    let home := clusterRecord s vf ctx cluster + 0x400000 + 0x80000 * quad
    let slotAt (t : Nat) : List (Nat × Nat) := [(home + 0x40000 + 0x2000 * t, 0x2000), (home + 0x60000 + 0x400 * t, 1024)]
    (s.claimable vf ctx = false → ∀ t, exec (.unitClaim (.tile cluster quad vf ctx t)) s = .next s ∧ exec (.unitClaim (.slot cluster quad vf ctx t)) s = .next s) ∧
    (∀ t l, t < 16 → t ∉ m.spilt → t ∉ m.bad → s.claimable vf ctx = true → s.savePlan vf ctx cluster true [(home + 0x4000 * t, 0x4000)] = .go l → ∃ T,
      T = State.saveWrite (s.forget who) l (memRead m.acm (0x4000 * t) 0x4000)
        ∧ exec (.unitClaim (.tile cluster quad vf ctx t)) s = .next (T.setMu k { m with spilt := insertNat m.spilt t })) ∧
    (∀ t l, t < 16 → 16 + t ∉ m.spilt → 16 + t ∉ m.bad → s.claimable vf ctx = true → s.savePlan vf ctx cluster true (slotAt t) = .go l → ∃ T bs, bs.length = 0x2400 ∧
      T = State.saveWrite { (s.forget who) with fresh := s.fresh + 1024 } l bs ∧ exec (.unitClaim (.slot cluster quad vf ctx t)) s = .next (T.setMu k { m with spilt := insertNat m.spilt (16 + t) })
        ∧ ∀ f pr sp K sc sf rows md scales n, mapGet? m.wb t = some (.head f pr sp K sc sf rows md scales n) → 0 < n → ∃ z, bs = (columnBytes f pr sp K rows).take 8192 ++ z) ∧
    (∀ l, 32 ∉ m.spilt → 32 ∉ m.bad → s.claimable vf ctx = true → s.savePlan vf ctx cluster true [(home + 0x64000, 0x2000)] = .go l → ∃ T bs, bs.length = 0x2000 ∧
      T = State.saveWrite { (s.forget who) with fresh := s.fresh + 0x2000 } l bs ∧ exec (.unitClaim (.scache cluster quad vf ctx)) s = .next (T.setMu k { m with spilt := insertNat m.spilt 32 })) ∧
    (s.ctxHalted vf ctx = false →
      (∀ u i, (i = .tile cluster quad vf ctx u ∧ u ∈ m.unfilled ∧ u ∉ m.spilt) → ∀ n, exec (.fillComplete i n) s = .next (s.setMu k { m with unfilled := m.unfilled.filter (fun x => x != u) })) ∧
      (∀ u i, (i = .slot cluster quad vf ctx u ∧ 16 + u ∈ m.unfilled ∧ 16 + u ∉ m.spilt) → ∀ n, exec (.fillComplete i n) s = .next (s.setMu k { m with unfilled := m.unfilled.filter (fun x => x != 16 + u) })) ∧
      (∀ t l n, t < 16 → t ∈ m.unfilled → t ∈ m.spilt → s.savePlan vf ctx cluster false [(home + 0x4000 * t, 0x4000)] = .go l → exec (.fillComplete (.tile cluster quad vf ctx t) n) s =
        .next ((s.forget who).setMu k { m with unfilled := m.unfilled.filter (fun x => x != t), spilt := m.spilt.filter (fun x => x != t), acm := memWrite m.acm (0x4000 * t) (s.saveRead l) })) ∧
      (∀ l n, 32 ∈ m.unfilled → 32 ∈ m.spilt → s.savePlan vf ctx cluster false [(home + 0x64000, 0x2000)] = .go l → exec (.fillComplete (.scache cluster quad vf ctx) n) s =
        .next ((s.forget who).setMu k { m with unfilled := m.unfilled.filter (fun x => x != 32), spilt := m.spilt.filter (fun x => x != 32) })) ∧
      (∀ t l n, t < 16 → 16 + t ∈ m.unfilled → 16 + t ∈ m.spilt → s.savePlan vf ctx cluster false (slotAt t) = .go l → (s.saveRead l).length = 0x2400 → ∃ w,
        exec (.fillComplete (.slot cluster quad vf ctx t) n) s =
          .next ((s.forget who).setMu k { m with unfilled := m.unfilled.filter (fun x => x != 16 + t), spilt := m.spilt.filter (fun x => x != 16 + t), wb := w })
        ∧ ((∀ j, j ≤ t → mapGet? m.wb j = none) → w = m.wb)
        ∧ ∀ f pr sp K sc sf rows md scales n, mapGet? m.wb t = some (.head f pr sp K sc sf rows md scales n) → 0 < n → ∃ now, w = mapSet m.wb t (.head f pr sp K sc sf now md scales n)
          ∧ now.length = rows.length ∧ columnBytes f pr sp K now = ((s.saveRead l).take 8192 ++ (columnBytes f pr sp K rows).drop 8192).take (columnBytes f pr sp K rows).length))) ∧
  (∀ (e : Entry) base, (e.bytes base).length = 16 ∧
    let w := ofBytes (e.bytes base)
    (e.kind = .retired → field w 96 2 = 3) ∧
    (e.kind ≠ .retired → (e.pos.hdr - base).toNat < 2 ^ 27 → e.pos.ix < 32 → e.pend < 128 → (∀ i, e.jix = .own i ∨ e.jix = .parent i → i < 65536) →
      field w 0 64 = e.mask.toNat ∧ field w 71 25 = (e.pos.hdr - base).toNat / 4 ∧ field w 64 7 = (if e.kind = .path then e.pos.ix else e.pend)
      ∧ field w 112 16 = (match e.jix with | .none => 0xFFFF | .own i => i | .parent i => i) ∧ field w 98 14 = 0
      ∧ field w 96 2 = (match e.kind with | .path => 0 | .join => 1 | _ => 2)))

/-- An operation of the migration block answers once: TRACK marks every page, EXPORT writes the marked pages that fit and clears their marks, STOP halts, and ends with a state record, IMPORT installs what fits and changes nothing otherwise, START and ABORT resume (R423 to R427). The model's (log 19): that a sound transfer always verifies, what a record holds, and that STOP with a buffer too small for all records is REFUSED. -/
def Obligations.MigrationMovesAVf : Prop :=
  ∀ (s : State) v,
    let x := s.vf v
    let ops : List (Instr × Nat) := [(.migTrack, 1), (.migExport, 2), (.migStop, 3), (.migImport, 4), (.migStart, 5), (.migAbort, 6)]
    let room := s.mig.len.toNat / 65600
    let pages := (x.dirty.take room).map (fun n => MigRecord.page n (s.mig.round + 1) (memRead s.mem (2 ^ 21 * (x.extents.getD (n / 32) 0) + 2 ^ 16 * (n % 32)) 65536))
    let shut : Prop := x.track = false ∨ s.mig.buf.toNat % 4096 ≠ 0
    (s.mig.busy = false → ∀ o ∈ ops, exec o.1 s = .next s) ∧
    (∀ op, (op = 0 ∨ 6 < op.toNat) → migAsked s op.toNat v → migReplies (.migrationUnknownOp op) s s 3 0) ∧
    (x.enabled = false → ∀ o ∈ ops, migAsked s o.2 v → migReplies o.1 s s 1 0) ∧
    (x.enabled = true → migAsked s 1 v →
      let bar : Prop := s.mig.session = false ∨ (∃ w ∈ s.windows, mapGet? w.2.members v ≠ none) ∨ ∃ p ∈ s.peers, p.1 / 64 = v
      (bar → migReplies .migTrack s s 1 0) ∧
      (¬ bar → migReplies .migTrack s (State.setVf { s with mig := { s.mig with round := 0 } } v { x with track := true, dirty := List.range (32 * x.extents.length) }) 0 0)) ∧
    (x.enabled = true → migAsked s 2 v → Memory.wf s.hostMem = true →
      (shut → migReplies .migExport s s 1 0) ∧
      (¬ shut → ∃ T, migReplies .migExport s T 0 pages.length
        ∧ T = State.setVf { s with fresh := T.fresh, hostMem := T.hostMem, mig := { s.mig with round := s.mig.round + 1, records := pages } } v { x with dirty := x.dirty.drop room }
        ∧ ∀ y, y < s.mig.buf.toNat ∨ s.mig.buf.toNat + 65600 * pages.length ≤ y → memGet T.hostMem y = memGet s.hostMem y)) ∧
    (x.enabled = true → migAsked s 3 v →
      let quiet : Prop := (∀ c ∈ x.ctxs, c.2.st = .halted) ∧ (∀ a ∈ s.agents, a.2.vf = v → a.2.spilt = true ∧ ∀ p ∈ a.2.gmGran, p ∈ a.2.gmSpilt)
        ∧ (∀ g ∈ s.groups, g.2.vf = v → g.2.recOut = true ∧ ∀ p ∈ g.2.granules, p ∈ g.2.spilt)
        ∧ (∀ m ∈ s.mus, m.1 % 1024 / 16 = v → (∀ u, u < 33 → u ∈ m.2.spilt) ∧ ∀ c ∈ m.2.queue, c.out = true) ∧ (∀ q ∈ s.engines, ∀ c ∈ q.2, c.vf = v → c.out = true)
        ∧ (∀ l ∈ s.launches, l.2.vf = v → ∀ t ∈ l.2.tgran, ∀ p ∈ t.2, p ∈ mapGetD l.2.tspilt t.1 []) ∧ ∀ r ∈ s.rings, r.2.vf ≠ v
      let haltedAt := if x.stopped = true then x.haltTime else s.vfTime v
      (shut → migReplies .migStop s s 1 0) ∧
      (¬ shut → (∃ c ∈ x.ctxs, c.2.st = .run) → ∃ S, exec .migStop s = .next S ∧ S.mig = s.mig ∧ (S.vf v).stopped = true ∧ (S.vf v).haltTime = haltedAt
        ∧ ∀ n c, s.ctx? v n = some c → c.st = .run → S.ctx? v n = some { c with st := .halting }) ∧
      (¬ shut → (∀ c ∈ x.ctxs, c.2.st ≠ .run) → ¬ quiet → exec .migStop s = .next (s.setVf v { x with stopped := true, haltTime := haltedAt })) ∧
      (¬ shut → quiet → room ≤ x.dirty.length → migReplies .migStop s (s.setVf v { x with stopped := true, haltTime := haltedAt }) 1 0) ∧
      (¬ shut → quiet → x.dirty.length < room → ∃ T i, migReplies .migStop s T 0 (pages.length + 1) ∧ T.mig.records = pages ++ [.state i] ∧ T.vf v = { x with stopped := true, haltTime := haltedAt, dirty := [] }
        ∧ i.ctxs = x.ctxs ∧ i.time = haltedAt ∧ i.mus = s.mus.filter (fun m => m.1 % 1024 / 16 == v) ∧ i.recs = s.recs.filter (fun r => (mapGet? s.launches r.2.launch).any (fun l => l.vf == v))
        ∧ i.forward = s.forward.filter (fun r => r.1 / 2 ^ 32 == v) ∧ i.agents = s.agents.filter (fun a => a.2.vf == v) ∧ i.groups = s.groups.filter (fun g => g.2.vf == v)
        ∧ i.launches = s.launches.filter (fun l => l.2.vf == v) ∧ i.ringsOut = s.ringsOut.filter (fun r => r.2.vf == v) ∧ i.extents = x.extents.length ∧ i.share = x.share.length
        ∧ i.amax = s.amax.filter (fun r => r.2.owner == some v))) ∧
    (x.enabled = true → migAsked s 4 v →
      (s.mig.session = false ∨ (∃ l ∈ s.launches, l.2.vf = v) ∨ (∃ r ∈ s.mig.records, r = .altered ∨ s.fitsRecord v r = false) → migReplies .migImport s s 1 0) ∧
      (∀ n rd bs, s.mig.session = true → (∀ l ∈ s.launches, l.2.vf ≠ v) → s.mig.records = [.page n rd bs] → n < 32 * x.extents.length → bs.length = 65536 → tidy s →
        ∃ T, migReplies .migImport s T 0 1 ∧ T.mig = s.mig
          ∧ let at' := 2 ^ 21 * (x.extents.getD (n / 32) 0) + 2 ^ 16 * (n % 32)
            ∀ y, memGet T.mem y = if at' ≤ y ∧ y < at' + 65536 then bs.getD (y - at') 0 else memGet s.mem y) ∧
      (∀ i, s.mig.session = true → (∀ l ∈ s.launches, l.2.vf ≠ v) → s.mig.records = [.state i] → s.fitsRecord v (.state i) = true → mapWf i.agents = true → mapWf i.launches = true →
        ∃ T, migReplies .migImport s T 0 1 ∧ T.mig = { s.mig with imported := some v } ∧ (T.vf v).ctxs = i.ctxs ∧ (T.vf v).stopped = true ∧ i.time ≤ T.vfTime v
          ∧ (∀ k a, mapGet? i.agents k = some a → ∃ b, T.agent? (k + s.nextId) = some b
            ∧ b = { a with vf := v, launch := a.launch + s.nextId, group := a.group.map (· + s.nextId), tickhi := none, kind := b.kind, slotA := b.slotA, slotB := b.slotB, stack := b.stack, tasks := b.tasks }
            ∧ b.slotA.path = a.slotA.path ∧ b.slotB.path = a.slotB.path)
          ∧ ∀ k l, mapGet? i.launches k = some l → mapGet? T.launches (k + s.nextId) = some { l with vf := v })) ∧
    (x.enabled = true → migAsked s 5 v →
      (s.mig.imported ≠ some v → migReplies .migStart s s 1 0) ∧
      (s.mig.imported = some v → ∃ T, migReplies .migStart s T 0 0 ∧ T.mig = { s.mig with imported := none } ∧ vfResumes s T v)) ∧
    (x.enabled = true → migAsked s 6 v →
      (x.track = false → migReplies .migAbort s s 1 0) ∧
      (x.track = true → x.stopped = false → migReplies .migAbort s (s.setVf v { x with track := false, dirty := [] }) 0 0) ∧
      (x.track = true → x.stopped = true → ∃ T, migReplies .migAbort s T 0 0 ∧ T.mig = s.mig ∧ vfResumes s T v ∧ (T.vf v).track = false ∧ (T.vf v).dirty = []))

/-- What arrives at the ports: an ATS answer is cached or fails its waiters, a PRG response resumes or fails those of its group, an invalidation removes entries at once and completes when their uses have ended; the host and peers read and write tenant memory (R281, R288, R349 to R361, R371, R378, R386, R391). The model's: an answer below 64 KiB is none, Success drops cached answers that lack what was asked for, and a poisoned access's event (log 11); the lowest tag (log 16); the 1 GiB in which a request is poisoned (log 33). -/
def Obligations.PortsAnswerTranslationsPagesAndAccesses : Prop :=
  (∀ (s : State) vf pasid page ans,
    ((∀ r ∈ s.ats, ¬ answersTo vf pasid page ans r) → exec (.atsCompletion vf pasid page ans) s = .next s) ∧
    (∀ l₁ l₂ r, s.ats = l₁ ++ r :: l₂ → (∀ y ∈ l₁, ¬ answersTo vf pasid page ans y) → answersTo vf pasid page ans r →
      let i := Instr.atsCompletion vf pasid page ans
      let t : State := { s with ats := l₁ ++ { r with stale := false } :: l₂ }
      let rest := State.sendAsk { s with ats := l₁ ++ l₂ } r.chiplet
      (r.stale = true → r.poison ≠ [] → exec i s = .next t) ∧
      (r.stale = true → r.poison = [] → exec i s = .next (t.emit (.atsRequest vf pasid page r.chiplet r.exec))) ∧
      (r.stale = false → (∀ k, Waiter.task k ∉ r.waiters) →
        (∀ c, ans = .failed c → ∃ S, exec i s = .next S ∧ S = { rest with fails := S.fails }
          ∧ ∀ f, f ∈ S.fails ↔ f ∈ s.fails ∨ (f.2 = (pasid, page) ∧ f.1 ∈ r.waiters ∧ ∀ q, f.1 ≠ .queue q)) ∧
        (∀ c tbase size rd wr x, ans = .granted c tbase size rd wr x →
          (size < 2 ^ 16 → exec i s = .next s) ∧
          (2 ^ 16 ≤ size → (∀ cl k, Waiter.eng cl true k ∉ r.waiters) → ∃ S, exec i s = .next S ∧ S = { rest with tlb := S.tlb, waits := S.waits } ∧
            let va := page * 2 ^ 16
            let whole := size = 2 ^ 16 ∨ size = 2 ^ 21 ∨ size = 2 ^ 30
            let at' := if whole then tbase / size * size else tbase + va % size
            let len := if whole then size else 2 ^ 16
            let e : TlbEntry := ⟨vf, pasid, if whole then va / size * size else va, len, at', rd, wr, x, s.windowAt vf at' len⟩
            S.waits = s.waits.map (fun w => { w with pages := w.pages.map (fun p =>
              if p.group = none ∧ w.vf = vf ∧ w.pasid = pasid ∧ e.base ≤ p.page * 2 ^ 16 ∧ p.page * 2 ^ 16 < e.base + e.size
                ∧ (p.need.r = true → rd = true) ∧ (p.need.w = true → wr = true) ∧ (p.need.x = true → x = true) then { p with succ := 0 } else p) }) ∧
            ∀ k, (k ∉ r.fill → mapGetD S.tlb k [] = mapGetD s.tlb k []) ∧
              (k ∈ r.fill → ∀ y, y ∈ mapGetD S.tlb k [] ↔ y = e ∨ (y ∈ mapGetD s.tlb k [] ∧ ¬ meetsRange vf (some pasid) e.base e.size y.vf y.pasid y.base y.size))))))) ∧
  (∀ (s : State) vf g₁ g g₂ n,
    let v := s.vf vf
    let now := g.pages.take v.priAlloc
    let rest := g.pages.drop v.priAlloc
    let ready : Prop := v.priEn = true ∧ v.priStop = false ∧ 0 < v.priAlloc
    let room : Prop := sumOf ((v.groups.filter (fun y => y.prgi.isSome)).map (fun y => y.pages.length)) + now.length ≤ v.priAlloc
    ((∀ y ∈ v.groups, y.prgi ≠ none) ∨ (∀ m, m < 64 → ∃ y ∈ v.groups, y.prgi = some m) → exec (.pageRequestSend vf) s = .next s) ∧
    (v.groups = g₁ ++ g :: g₂ → (∀ y ∈ g₁, y.prgi ≠ none) → g.prgi = none → n < 64 → (∀ y ∈ v.groups, y.prgi ≠ some n) → (∀ m, m < n → ∃ y ∈ v.groups, y.prgi = some m) →
      let earlier : Prop := ∃ w ∈ s.vfs, w.1 ≠ vf ∧ ∃ y, s.sendable w.1 = some y ∧ y.2.2.before g = true
      let send (T : State) (more : List PageGroup) : State := State.setVf { T with
          sent := s.sent ++ now.zipIdx.map (fun x => .pageRequest vf g.pasid x.1.1 x.1.2 (x.2 + 1 == now.length) n) } vf
        { v with groups := g₁ ++ [{ g with pages := now, prgi := some n }] ++ more ++ g₂ }
      (¬ (ready ∧ room) ∨ earlier → exec (.pageRequestSend vf) s = .next s) ∧
      (ready → room → ¬ earlier →
        (rest = [] → exec (.pageRequestSend vf) s = .next (send s [])) ∧
        (rest ≠ [] → exec (.pageRequestSend vf) s = .next (send { s with nextId := s.nextId + 1, waits := s.waits.map (fun w => { w with pages := w.pages.map (fun p =>
            if p.group = some g.name ∧ rest.any (fun q => q.1 == p.page) then { p with group := some s.nextId } else p) }) } [{ g with name := s.nextId, pages := rest }]))))) ∧
  (∀ (s : State) vf prgi,
    ((∀ g ∈ (s.vf vf).groups, g.prgi ≠ some prgi) → ∀ i ∈ [Instr.prgResponseSuccess vf prgi, .prgResponseInvalid vf prgi, .prgResponseFailure vf prgi], exec i s = .next s) ∧
    (∀ g, (s.vf vf).groups.find? (fun y => y.prgi == some prgi) = some g → parksDistinct s →
      (mapWf s.tlb = true → noTaskWaits s [g] → ∃ S, exec (.prgResponseSuccess vf prgi) s = .next S ∧
        S = State.setVf { s with tlb := S.tlb, waits := S.waits, fails := S.fails, agents := S.agents } vf { s.vf vf with groups := (s.vf vf).groups.filter (fun y => y.prgi != some prgi) }
        ∧ slotsGoOn s S [g]
        ∧ (∀ k e, e ∈ mapGetD S.tlb k [] ↔ e ∈ mapGetD s.tlb k [] ∧ ¬ ∃ q ∈ g.pages, e.vf = vf ∧ e.pasid = g.pasid ∧ e.base ≤ q.1 * 2 ^ 16 ∧ q.1 * 2 ^ 16 < e.base + e.size
            ∧ ((q.2.r = true ∧ e.r = false) ∨ (q.2.w = true ∧ e.w = false) ∨ (q.2.x = true ∧ e.x = false)))
        ∧ ∀ w ∈ s.waits, (∃ n, w.who = .park n) → ∃ y ∈ S.waits, goesBy s w.who y.who ∧ y.pasid = w.pasid
            ∧ y.pages = w.pages.map (fun p => if p.group = some g.name then { p with group := none, succ := p.succ + 1 } else p)) ∧
      (noTaskWaits s [g] → ∃ S, exec (.prgResponseInvalid vf prgi) s = .next S ∧
        S = State.setVf { s with fails := S.fails, waits := S.waits, agents := S.agents } vf { s.vf vf with groups := (s.vf vf).groups.filter (fun y => y != g) } ∧ groupsFail s S [g]) ∧
      (noTaskWaits s (s.vf vf).groups → ∃ S, exec (.prgResponseFailure vf prgi) s = .next S ∧
        S = State.setVf { s with fails := S.fails, waits := S.waits, agents := S.agents } vf { s.vf vf with groups := [], priStop := true } ∧ groupsFail s S (s.vf vf).groups)) ∧
    exec (.priEnable vf) s = .next (s.setVf vf { s.vf vf with priEn := true, priStop := false })) ∧
  (∀ (s : State) vf pasid base size,
    ((∀ t, t < 32 → ∃ i ∈ s.invals, i.vf = vf ∧ i.tag = t) → exec (.invalidationRequest vf pasid base size) s = .next s) ∧
    (∀ t, t < 32 → (∀ i ∈ s.invals, ¬(i.vf = vf ∧ i.tag = t)) → (∀ u, u < t → ∃ i ∈ s.invals, i.vf = vf ∧ i.tag = u) → mapWf s.tlb = true →
      ∃ S : State, exec (.invalidationRequest vf pasid base size) s = .next S ∧ S = { s with tlb := S.tlb, ats := S.ats, invals := s.invals ++ [⟨vf, t, pasid, base, size⟩] }
        ∧ (∀ k e, e ∈ mapGetD S.tlb k [] ↔ e ∈ mapGetD s.tlb k [] ∧ ¬ meetsRange vf pasid base size e.vf e.pasid e.base e.size)
        ∧ S.ats.length = s.ats.length ∧ ∀ (j : Nat) (r : AtsReq), s.ats[j]? = some r →
          let hit := r.queued = false ∧ meetsRange vf pasid base size r.vf r.pasid (r.page * 2 ^ 16 / 2 ^ 30 * 2 ^ 30) (2 ^ 30)
          (hit → S.ats[j]? = some { r with poison := r.poison ++ [t], stale := r.stale || r.poison.isEmpty }) ∧ (¬ hit → S.ats[j]? = some r)) ∧
    (∀ tag, (∀ i ∈ s.invals, ¬(i.vf = vf ∧ i.tag = tag)) → exec (.invalidationCompletion vf tag) s = .next s) ∧
    (∀ tag i, s.invals.find? (fun y => y.vf == vf && y.tag == tag) = some i →
      (s.rangeBusy i = true → exec (.invalidationCompletion vf tag) s = .next s) ∧
      (s.rangeBusy i = false → exec (.invalidationCompletion vf tag) s = .next { s with
        invals := s.invals.filter (fun y => y != i),
        ats := s.ats.map (fun r : AtsReq => if r.vf = vf then { r with poison := r.poison.filter (fun y => y != tag) } else r),
        sent := s.sent ++ .invalDone vf tag :: (s.ats.filter (fun r : AtsReq => r.vf == vf && r.poison == [tag] && !r.stale)).map (fun r : AtsReq => .atsRequest r.vf r.pasid r.page r.chiplet r.exec) }))) ∧
  (∀ (s : State) d n, shareSettled s d →
    (¬ ownedRange s d n → exec (.hostBarAccess (.read d n)) s = .next { s with hostRead := [] }) ∧
    (ownedRange s d n → soundRange s d n → let seen := s.hostSight (.dev d) n
      exec (.hostBarAccess (.read d n)) s = .next { seen.1 with hostRead := s.loadIn seen.2 (.dev d) n }
        ∧ (s.events = [] → exec (.hostBarAccess (.read d n)) s = .next { s with hostRead := memRead s.mem d n })) ∧
    (∀ v x, ownedRange s d n → struckFirst s d n (fun _ => False) x → s.homeOf x = some v → ∃ S, exec (.hostBarAccess (.read d n)) s = .next S ∧ eventPosted { s with hostRead := [] } S v 1 (x / 2 ^ 21))) ∧
  (∀ (s : State) d bs, shareSettled s d →
    (¬ ownedRange s d bs.length → exec (.hostBarAccess (.write d bs)) s = .next s) ∧
    (ownedRange s d bs.length → soundRange s d bs.length → ∃ S, exec (.hostBarAccess (.write d bs)) s = .next S ∧ onlyDeviceBytes s S
      ∧ recorded s S [(hostParty, .at 3, [], ((Loc.dev d).spots bs.length).zip bs)]
      ∧ ∀ y, memGet S.mem y = if d ≤ y ∧ y < d + bs.length then bs.getD (y - d) 0 else memGet s.mem y) ∧
    (∀ v x, ownedRange s d bs.length → struckFirst s d bs.length (fun g => d ≤ 256 * g ∧ 256 * g + 256 ≤ d + bs.length) x → s.homeOf x = some v →
      ∃ S, exec (.hostBarAccess (.write d bs)) s = .next S ∧ eventPosted s S v 1 (x / 2 ^ 21))) ∧
  (∀ (s : State) k acc, mapGet? s.windows k = none → exec (.peerWindowAccess k acc) s = .next s) ∧
  (∀ (s : State) k w, mapGet? s.windows k = some w → (s.vf w.home).newShare = none →
    let fence (on : Bool) (j : Nat) (c : Access) (t : State) : State := if on then t.note (Ev.of (peerParty j) c) else t
    (∀ j q l o n, (n = 0 ∨ 2 ^ 21 * w.extents.length < o + n) → exec (.peerWindowAccess k (.read j q l o n)) s = .next s) ∧
    (∀ j q l o n, 0 < n → o + n ≤ 2 ^ 21 * w.extents.length → (∀ i, i < n → windowByte w (o + i) / 256 ∉ s.poison) →
      (∀ ps, w.pieces o n = some ps →
        let seen := (fence q j (.acquire 3) s).sight (ps.map (fun p => (Ev.of (peerParty j) (.at 3), (Loc.dev p.1).spots p.2)))
        exec (.peerWindowAccess k (.read j q l o n)) s = .next ((fence l j (.release 3) seen.1).emit (.peerData (ps.flatMap (fun p => s.loadIn seen.2 (.dev p.1) p.2))))) ∧
      (s.events = [] → exec (.peerWindowAccess k (.read j false false o n)) s = .next (s.emit (.peerData ((List.range n).map (fun i => memGet s.mem (windowByte w (o + i)))))))) ∧
    (∀ j q l o bs, (bs = [] ∨ 2 ^ 21 * w.extents.length < o + bs.length) → exec (.peerWindowAccess k (.write j q l o bs)) s = .next s) ∧
    (∀ j q l o bs, bs ≠ [] → o + bs.length ≤ 2 ^ 21 * w.extents.length → w.extents.Nodup → (∀ i, i < bs.length → windowByte w (o + i) / 256 ∉ s.poison) →
      ∃ S, exec (.peerWindowAccess k (.write j q l o bs)) s = .next S ∧ onlyDeviceBytes s S
        ∧ (∀ d, w.pieces o bs.length = some [(d, bs.length)] → recorded s S ((if q then [(peerParty j, .acquire 3, [], [])] else [])
            ++ (peerParty j, .at 3, [], ((Loc.dev d).spots bs.length).zip bs) :: if l then [(peerParty j, .release 3, [], [])] else []))
        ∧ (∀ i, i < bs.length → memGet S.mem (windowByte w (o + i)) = bs.getD i 0)
        ∧ ∀ y, (∀ i, i < bs.length → y ≠ windowByte w (o + i)) → memGet S.mem y = memGet s.mem y))

/-- Task basins: packets leave with a credit and return it when consumed; a release moves its record, a new task becomes a ready record; the dispatcher gathers, closes and dispatches; an idle cluster steals; an ended task's buffer is performed, and its record is free (R293 to R305, R344, R348, R422). The model's: which event comes next, and which record of several (logs 1, 16); that a committed record whose handle is attached is held, and a peer's acknowledgement (log 20); what a failed basin's packets meet (log 22). -/
def Obligations.BasinsMoveTheirTasks : Prop :=
  (∀ (s : State) k l, mapGet? s.launches k = some l → s.identOf k = ⟨l.vf, s.pasidOf l.vf l.ctx, l.q, l.n⟩) ∧
  (∀ (s : State) i, s.packets[i]? = none → exec (.packetSend i) s = .next s) ∧
  (∀ (s : State) i p, s.packets[i]? = some p → (p.isNew = true ∨ (s.forward = [] ∧ p.dst = p.handle &&& 0xFF07F000)) →
    let cl := field p.dst.toNat 12 7
    let used := mapGetD s.credits (32 * cl + p.src) 0
    (p.place ≠ 0 → exec (.packetSend i) s = .next s) ∧
    (p.place = 0 → s.stranded = [] → field p.dst.toNat 24 8 ≠ s.devNum →
      let fk := 128 * field p.dst.toNat 24 8 + cl
      let far := mapGetD s.farCredits fk 0
      let spent : State := { s with farCredits := mapPut 0 s.farCredits fk (far + 1) }
      let who : LaunchId := match p.peer with | some x => x.2 | none => s.identOf p.launch
      (4 ≤ far ∨ s.linkTo (field p.dst.toNat 24 8) = none → exec (.packetSend i) s = .next s) ∧
      (far < 4 → s.linkTo (field p.dst.toNat 24 8) ≠ none →
      (p.isNew = false → ∃ S, exec (.packetSend i) s = .next S ∧ ackDone (State.emit { spent with packets := s.packets.eraseIdx i } (.release p.handle p.word)) p.ack S) ∧
      (p.isNew = true → p.onAccept = false →
        ∃ S, exec (.packetSend i) s = .next S ∧ ackDone (State.emit { spent with packets := s.packets.eraseIdx i } (.renq p.dst p.ent 0xFFFF p.src who p.args)) p.ack S) ∧
      (p.isNew = true → p.onAccept = true → ∃ tag, (∀ y ∈ s.packets, y.place = 2 → y.ackid ≠ tag) ∧
        exec (.packetSend i) s = .next (State.emit { spent with packets := s.packets.set i { p with place := 2, ackid := tag } } (.renq p.dst p.ent tag p.src who p.args))))) ∧
    (p.place = 0 → s.stranded = [] → field p.dst.toNat 24 8 = s.devNum → s.clusterFenced cl = true → p.peer = none → p.ack = none →
      (∀ l, p.isNew = false → mapGet? s.launches p.launch = some l → exec (.packetSend i) s =
        .next { s with packets := s.packets.eraseIdx i, launches := mapSet s.launches p.launch (launchErr l 0xFFFFFFFF p.word) }) ∧
      (∀ l, p.isNew = true → mapGet? s.launches p.launch = some l → s.ownClusters l.vf = [] → exec (.packetSend i) s =
        .next { s with packets := s.packets.eraseIdx i, launches := mapSet s.launches p.launch (launchErr l (BitVec.ofNat 32 p.ent) 0) }) ∧
      (∀ l c cs, p.isNew = true → mapGet? s.launches p.launch = some l → s.ownClusters l.vf = c :: cs → s.devNum < 256 → mapGetD s.credits (32 * c + p.src) 0 < 4 → exec (.packetSend i) s =
        .next { s with nextId := s.nextId + 1, credits := mapPut 0 s.credits (32 * c + p.src) (mapGetD s.credits (32 * c + p.src) 0 + 1)
                       packets := s.packets.set i { p with dst := BitVec.ofNat 32 (2 ^ 24 * s.devNum + 2 ^ 12 * c) &&& 0xFF07F000, place := 1, num := some (p.num.getD (s.devNum, s.nextId)) } })) ∧
    (p.place = 0 → s.stranded = [] → field p.dst.toNat 24 8 = s.devNum → s.clusterFenced cl = false → 4 ≤ used → exec (.packetSend i) s = .next s) ∧
    (p.place = 0 → s.stranded = [] → field p.dst.toNat 24 8 = s.devNum → s.clusterFenced cl = false → used < 4 → ∃ S, exec (.packetSend i) s = .next S ∧
      let T : State := { s with nextId := s.nextId + 1, packets := s.packets.set i { p with place := 1, ack := if p.onAccept then p.ack else none, num := some (p.num.getD (s.devNum, s.nextId)) }, credits := mapPut 0 s.credits (32 * cl + p.src) (used + 1) }
      (p.onAccept = true → S = T) ∧ (p.onAccept = false → ackDone T p.ack S))) ∧
  (∀ (s : State) cluster, (∀ y ∈ s.packets, ¬ arrivedAt s cluster false y) → exec (.releasePacket cluster) s = .next s) ∧
  (∀ (s : State) cluster l₁ p l₂ q, arrivedFirst s cluster false l₁ p l₂ q → seenBefore s p → exec (.releasePacket cluster) s = .next (consumed s cluster (l₁ ++ l₂) p)) ∧
  (∀ (s : State) cluster l₁ p l₂ q, arrivedFirst s cluster true l₁ p l₂ q → seenBefore s p → exec (.newTaskPacket cluster) s = .next (consumed s cluster (l₁ ++ l₂) p)) ∧
  (∀ (s : State) cluster l₁ p l₂ q, arrivedFirst s cluster false l₁ p l₂ q → ¬ seenBefore s p → p.ack = none → s.forward = [] →
    let rn := field p.handle.toNat 0 12
    let k := 4096 * cluster + rn
    let n := s.journal.length
    let got : List (Nat × Jot) := s.journal ++ [(n, .packet cluster (some rn) p.num)]
    let t : State := { (State.made (consumed s cluster (l₁ ++ l₂) p) p k) with journal := got }
    let i := Instr.releasePacket cluster
    (∀ r l, s.rec? k = some r → mapGet? s.launches r.launch = some l →
      (r.st = .waiting → ∃ core, deckOf s cluster l.vf core ∧ exec i s = .next { t with recs := recNow s k { r with st := .ready, spec := false, attached := false, core := core }, disps := pushedHead s cluster core l.vf rn, journal := got ++ [(n + 1, .ready cluster rn)] }) ∧
      (r.st = .spec → exec i s = .next { t with recs := recNow s k { r with st := .ready, spec := false, attached := false }, journal := got ++ [(n + 1, .ready cluster rn)] }) ∧
      (r.st = .running → exec i s = .next { t with recs := recNow s k { r with spec := false, attached := false, lines := [], st := if r.ended then .commit else .running } }) ∧
      (r.st = .page → exec i s = .next { t with recs := recNow s k { r with spec := false, attached := false } }) ∧
      (r.st = .held → exec i s = .next { t with recs := recNow s k { r with st := .free, attached := false }, journal := got ++ [(n + 1, .freed cluster rn)] })) ∧
    ((∀ r, s.rec? k = some r → r.st ∈ [RecState.free, .ready, .irrev, .commit]) → (p.peer ≠ none → exec i s = .next t) ∧
      ∀ l, p.peer = none → mapGet? s.launches q = some l → exec i s = .next { t with launches := mapSet s.launches q (launchErr l 0xFFFFFFFF p.word) })) ∧
  (∀ (s : State) cluster, (∀ y ∈ s.packets, ¬ arrivedAt s cluster true y) → exec (.newTaskPacket cluster) s = .next s) ∧
  (∀ (s : State) cluster l₁ p l₂ q, arrivedFirst s cluster true l₁ p l₂ q → ¬ seenBefore s p →
    let t := consumed s cluster (l₁ ++ l₂) p
    let i := Instr.newTaskPacket cluster
    let n := s.journal.length
    (mapGet? s.launches q = none → ∃ S, exec i s = .next S ∧ answered t p S) ∧
    (∀ l, mapGet? s.launches q = some l →
      (cluster ∈ s.ownClusters l.vf → s.freeCount cluster = 0 → exec i s = .next s) ∧
      (cluster ∈ s.ownClusters l.vf → s.freeCount cluster ≠ 0 → ∃ S rn core, exec i s = .next S ∧ rn < 4096 ∧ s.recFree (4096 * cluster + rn) = true ∧ deckOf s cluster l.vf core ∧
        answered { (State.made t p (4096 * cluster + rn)) with
          recs := recNow s (4096 * cluster + rn) (newRec p.ent p.args q core .ready false false), fresh := s.fresh + 1, disps := pushedHead s cluster core l.vf rn,
          journal := s.journal ++ [(n, .ready cluster rn), (n + 1, .packet cluster (some rn) p.num)] } p S) ∧
      (∀ c cs, cluster ∉ s.ownClusters l.vf → s.ownClusters l.vf = c :: cs →
        exec i s = .next { t with packets := l₁ ++ l₂ ++ [{ p with launch := q, dst := BitVec.ofNat 32 (2 ^ 24 * s.devNum + 2 ^ 12 * c) &&& 0xFF07F000, place := 0, src := cluster / 16, num := none }], journal := s.journal ++ [(n, .packet cluster none p.num)] }) ∧
      (s.ownClusters l.vf = [] →
        (∀ x, p.peer = some x → p.ackid ≠ 0xFFFF → exec i s = .next (t.emit (.packetAck x.1 p.ackid false))) ∧
        (p.peer = none ∨ p.ackid = 0xFFFF → p.ack = none → exec i s = .next { t with launches := mapSet s.launches q (launchErr l (BitVec.ofNat 32 p.ent) 0) }) ∧
        (∀ ag op lane a x, p.peer = none → p.ack = some (ag, op, lane) → s.agent? ag = some a → a.isWave = false → a.ops.find? (fun y => y.id == op) = some x →
          ∃ S, exec i s = .next S ∧ ackDone (State.setAgent { t with launches := mapSet s.launches q { l with taskErr := true } } ag { a with traps := a.traps ++ [⟨cTASKERR, 0, lane, x.flag, op, s.time⟩] }) p.ack S)))) ∧
  (∀ (s : State) cluster core vf r rest t e,
    let d := s.disp cluster core
    let i := Instr.binGather cluster core
    let left : NMap (List Nat) := mapPut [] d.deques vf rest
    let same (x : Nat × Bin) : Bool := !x.2.closed && decide (x.2.age < 32 * e.gw) && x.2.launch == t.launch && x.2.entry == t.entry
    (d.deques = [] → exec i s = .next s) ∧
    (d.deques = [(vf, r :: rest)] → s.rec? (4096 * cluster + r) = some t → s.tetOf t.launch t.entry = some e →
      (∀ k b, d.bins.find? same = some (k, b) → exec i s = .next (State.setDisp { s with nextId := s.nextId + 1 } cluster core { d with deques := left, bins := mapSet d.bins k { b with recs := b.recs ++ [r], closed := decide (32 ≤ b.recs.length + 1) || e.gw == 0, seq := s.nextId } })) ∧
      (∀ k, (∀ x ∈ d.bins, same x = false) → k < 8 → mapGet? d.bins k = none → (∀ j, j < k → mapGet? d.bins j ≠ none) →
        exec i s = .next (State.setDisp { s with nextId := s.nextId + 1 } cluster core { d with deques := left, bins := mapSet d.bins k ⟨t.launch, t.entry, vf, [r], 0, e.gw == 0, s.nextId⟩ })) ∧
      ((∀ x ∈ d.bins, same x = false) → (∀ j, j < 8 → mapGet? d.bins j ≠ none) → exec i s = .next s))) ∧
  (∀ (s : State) cluster core k,
    let d := s.disp cluster core
    (mapGet? d.bins k = none → exec (.binClose cluster core k) s = .next s) ∧
    (∀ b e, mapGet? d.bins k = some b → s.tetOf b.launch b.entry = some e →
      (b.closed = true ∨ b.age < 32 * e.gw → exec (.binClose cluster core k) s = .next s) ∧
      (b.closed = false → 32 * e.gw ≤ b.age → exec (.binClose cluster core k) s =
        .next (State.setDisp { s with nextId := s.nextId + 1 } cluster core { d with bins := mapSet d.bins k { b with closed := true, seq := s.nextId } })))) ∧
  (∀ (s : State) cluster core,
    let d := s.disp cluster core
    let i := Instr.waveDispatch cluster core
    ((∀ x ∈ d.bins, x.2.closed = false) → exec i s = .next s) ∧
    (∀ k b l e, d.bins.filter (fun x => x.2.closed) = [(k, b)] → mapGet? d.bins k = some b → mapGet? s.launches b.launch = some l → s.ctxRuns l.vf l.ctx = true → l.tet[b.entry]? = some e →
      e.nt ≤ b.recs.length → b.recs ≠ [] → b.recs.Nodup → b.recs.length ≤ 32 → (∀ r ∈ b.recs, ∃ t, s.rec? (4096 * cluster + r) = some t ∧ t.args.length = 8) → d.drain = false →
      let quads := (s.ownQuads cluster l.vf).filter (fun q => decide (q / 4 = core))
      let taken (q : Nat) : Nat := (s.quadUse cluster q).hard.length
      let best (q : Nat) : Prop := q ∈ quads ∧ ∀ x ∈ quads, taken q < taken x ∨ (taken q = taken x ∧ q ≤ x)
      (quads = [] ∨ s.takeGranules cluster l.vf e.wgm = none → exec i s = .next s) ∧
      (∀ q, best q → (s.quadUse cluster q).fits 2 (2 * e.rgn) = none → exec i s = .next s) ∧
      (∀ q us gran, best q → (s.quadUse cluster q).fits 2 (2 * e.rgn) = some us → s.takeGranules cluster l.vf e.wgm = some gran →
        s.granulesClear cluster gran = false ∨ (s.quadUse cluster q).clear us (2 * e.rgn) = false → exec i s = .next s) ∧
      (∀ T, s.dispatchBin cluster core b = some T → s.givesWay T cluster = true → exec i s = .next s) ∧
      (∀ q us gran, best q → (s.quadUse cluster q).fits 2 (2 * e.rgn) = some us → s.takeGranules cluster l.vf e.wgm = some gran → s.granulesClear cluster gran = true →
        (s.quadUse cluster q).clear us (2 * e.rgn) = true → (∀ y ∈ s.launches, s.placeable y.2 = true → cluster ∉ s.placesOf y) →
        ∃ S a, exec i s = .next S ∧ S = { s with agents := mapSet s.agents s.nextId a, nextId := s.nextId + 1, recs := S.recs, journal := S.journal, disps := S.disps, gmBad := S.gmBad, events := S.events }
          ∧ S.disp cluster core = { d with bins := mapErase d.bins k, skips := 0, skipsOf := 0, drain := false }
          ∧ (∀ j r t, b.recs[j]? = some r → s.rec? (4096 * cluster + r) = some t →
              S.rec? (4096 * cluster + r) = some { t with st := .running, agent := s.nextId, lane := j, core := core, buffer := [], lines := [], ended := false }
                ∧ a.recKey j = some (4096 * cluster + r) ∧ ∀ m w, m < 8 * e.rgn → t.args[m]? = some w → a.v m j = w)
          ∧ (∀ y, (∀ r ∈ b.recs, y ≠ 4096 * cluster + r) → S.rec? y = s.rec? y)
          ∧ a.kind = .wave ∧ a.vf = l.vf ∧ a.ctx = l.ctx ∧ a.launch = b.launch ∧ a.group = none ∧ a.cluster = cluster ∧ a.core = .wide (q / 4) (q % 4) ∧ a.units = us ∧ a.width = 32
          ∧ a.live = maskTo b.recs.length ∧ a.nregs = 8 * e.rgn ∧ a.gmGran = gran ∧ a.fpc = l.kern.fpc ∧ a.stack = [] ∧ a.flags = [] ∧ a.preds = []
          ∧ (∀ x, a.s x = if x = 4 then l.arg.zeroExtend 32 else if x = 5 then BitVec.ofNat 32 (l.arg.toNat / 2 ^ 32) else 0)
          ∧ a.slotA.path = some ⟨⟨e.code, 0⟩, maskTo b.recs.length, .none, .header⟩ ∧ a.slotB.path = none))) ∧
  (∀ (s : State) cluster vf,
    let k := 64 * cluster + vf
    let i := Instr.stealRequest cluster vf
    let vs := s.victims cluster vf
    let idle : Prop := (∀ c, c < 2 → (s.disp cluster c).deque vf = [] ∧ ∀ b ∈ (s.disp cluster c).bins, b.2.vf = vf → b.2.closed = true) ∧ ∃ n, mapGet? s.idleAt k = some n ∧ 32 * 64 ≤ n
    (∀ c, c ∈ vs ↔ c ∈ s.ownClusters vf ∧ c ≠ cluster) ∧ vs.Pairwise (fun x y => Config.hops cluster x ≤ Config.hops cluster y) ∧
    (¬ idle ∨ mapGet? s.steals k ≠ none ∨ (s.part cluster vf).qmask = 0 ∨ s.freeCount cluster = 0 ∨ vs = [] → exec i s = .next s) ∧
    (∀ v, idle → mapGet? s.steals k = none → (s.part cluster vf).qmask ≠ 0 → s.freeCount cluster ≠ 0 → vs[mapGetD s.stealAt k 0 % vs.length]? = some v →
      exec i s = .next { s with steals := mapSet s.steals k (v, min 16 (s.freeCount cluster)), stealAt := mapPut 0 s.stealAt k ((mapGetD s.stealAt k 0 + 1) % vs.length), sent := s.sent ++ [.steal cluster v vf (min 16 (s.freeCount cluster))] })) ∧
  (∀ (s : State) victim thief vf,
    let k := 64 * thief + vf
    let i := Instr.stealDonation victim thief vf
    let q (c : Nat) : List Nat := (s.disp victim c).deque vf
    let ready (c : Nat) : Nat := ((q c).filter (fun r => (s.rec? (4096 * victim + r)).any (fun t => t.st == .ready))).length
    let core := if ready 0 < ready 1 then 1 else 0
    let fit (r : Nat) : Bool := (s.rec? (4096 * victim + r)).any (fun t => t.st == .ready && !t.spec && (s.tetOf t.launch t.entry).any (fun e => !e.nosteal))
    let good := (q core).filter fit
    (mapGet? s.steals k = none → exec i s = .next s) ∧
    (∀ v asked, mapGet? s.steals k = some (v, asked) →
      (v ≠ victim → exec i s = .next s) ∧
      (v = victim → victim ≠ thief → (q core).Nodup → (∀ r ∈ q core, r < 4096) →
        let n := min (min asked (good.length / 2)) (s.freeCount thief)
        let given := good.reverse.take n
        ∃ (S : State) (f : Nat → Nat), exec i s = .next S ∧ S = { s with steals := mapErase s.steals k, disps := S.disps, recs := S.recs, fresh := S.fresh, journal := S.journal, events := S.events }
          ∧ (S.disp victim core).deque vf = (q core).filter (fun r => !(given.contains r))
          ∧ (∀ r t, r ∈ given → s.rec? (4096 * victim + r) = some t → S.rec? (4096 * victim + r) = some (freedRec t))
          ∧ (∀ r t, r ∈ given → s.rec? (4096 * victim + r) = some t → f r < 4096 ∧ s.recFree (4096 * thief + f r) = true ∧ ∃ c, c < 2
              ∧ S.rec? (4096 * thief + f r) = some (newRec t.entry t.args t.launch c .ready false false) ∧ f r ∈ (S.disp thief c).deque vf)
          ∧ (∀ x ∈ given, ∀ y ∈ given, f x = f y → x = y)
          ∧ ∀ y, (∀ r ∈ given, y ≠ 4096 * victim + r ∧ y ≠ 4096 * thief + f r) → S.rec? y = s.rec? y))) ∧
  (∀ (s : State) cluster rn,
    let k := 4096 * cluster + rn
    let i := Instr.taskCommit cluster rn
    let n := s.journal.length
    (∀ r, s.rec? k = some r →
      (r.st ≠ .commit → exec i s = .next s) ∧
      (r.st = .commit → r.buffer = [] → ∃ E, exec i s = .next { s with recs := recNow s k (freedRec r), events := E, journal := s.journal ++ (n, .committed cluster rn) :: (if r.attached then [] else [(n + 1, .freed (k / 4096) (k % 4096))]) }) ∧
      (∀ entry args a, r.st = .commit → r.buffer = [.fork entry args] → rn < 4096 → s.agent? r.agent = some a →
        (s.freeCount cluster = 0 → exec i s = .next s) ∧
        (s.freeCount cluster ≠ 0 → ∃ S n l, exec i s = .next S ∧ n < 4096 ∧ s.recFree (4096 * cluster + n) = true ∧ S.rec? k = some (freedRec r)
          ∧ S.rec? (4096 * cluster + n) = some (newRec entry args r.launch (a.core.quad / 4) .ready false false) ∧ (S.disp cluster (a.core.quad / 4)).deque a.vf = n :: l)) ∧
      (∀ acc va b d a, r.st = .commit → r.buffer = [.store .glob acc [(va, b)] (.dev d)] → s.agent? r.agent = some a → s.heldLoc (.dev d) = true → exec i s = .next s) ∧
      (∀ acc va b d a, r.st = .commit → r.buffer = [.store .glob acc [(va, b)] (.dev d)] → s.agent? r.agent = some a → s.heldLoc (.dev d) = false → (∀ x ∈ s.recs, x.2.st = .running → x.2.spec = false) →
        ∃ S, exec i s = .next S ∧ S.rec? k = some (freedRec r) ∧ (∀ y, memGet S.mem y = if y = d + va % 16 then b else memGet s.mem y) ∧ S.hostMem = s.hostMem ∧ S.agents = s.agents)) ∧
    (s.rec? k = none → exec i s = .next s))

/-- Each of these forms has its own effect and goes on, from every state that allows it: BAR and BAR.ARV (R168), SPAWN and SPAWN.SPEC on words that name no task (R205), DEP.DEC and DEP.ADD without underflow or overflow (R206), SYSRD and SYSWR of every register (R209), PMCRD of every counter (R215); a packet with a credit leaves, a release makes its waiting record READY, a new task becomes a record (R293, R295, R297, R298); a bin gathers, closes and is dispatched (R300, R301); an idle cluster asks, and is given records (R304); an ended task commits (R305). -/
def Obligations.SynchronizationAndTaskFormsComplete : Prop :=
  (∀ (o : MOps) s id b a p g gr, s.running = some (id, b, a, p) → a.active p o.g ≠ 0 → a.isWave = false → wordA s a o 0 ≤ 15 → a.group = some g → mapGet? s.groups g = some gr →
    let k := wordA s a o 0
    let m := a.active p o.g
    let old := m &&& mapGetD (gr.bar k).arrived a.warp 0
    let counted (G : Group) : Prop := G.bar k = ⟨(gr.bar k).gen + 1, []⟩ ∨
      ((G.bar k).gen = (gr.bar k).gen ∧ ∀ w, mapGetD (G.bar k).arrived w 0 = if w = a.warp then mapGetD (gr.bar k).arrived w 0 ||| m else mapGetD (gr.bar k).arrived w 0)
    let sent (t : State) (x : SaddleMsg) : Prop := mapGetD t.saddle a.cluster [] = mapGetD s.saddle a.cluster [] ++ [⟨a.core.port, s.muQuad a, x⟩]
    (a.isFrag = false → ∃ t a' G, exec (.bar o) s = .next t ∧ t.agent? id = some a' ∧ a'.insn = a.insn + 1 ∧ mapGet? t.groups g = some G ∧ counted G) ∧
    (a.isFrag = true → m &&& s.barInFlight id a k = 0 → ∃ t a' stamp, exec (.bar o) s = .next t ∧ t.agent? id = some a' ∧ a'.insn = a.insn + 1
      ∧ (m ≠ old → sent t (.barArrive id g a.warp k (m &&& ~~~old) (some s.nextId) stamp))) ∧
    (a.isFrag = false → ∃ t a' G, exec (.barArv o) s = .next t ∧ t.agent? id = some a' ∧ a'.insn = a.insn + 1 ∧ mapGet? t.groups g = some G ∧ (old = 0 → counted G)) ∧
    (a.isFrag = true → m &&& s.barInFlight id a k = 0 → ∃ t a' stamp, exec (.barArv o) s = .next t ∧ t.agent? id = some a' ∧ a'.insn = a.insn + 1
      ∧ (m ≠ old → sent t (.barArrive id g a.warp k (m &&& ~~~old) none stamp)))) ∧
  (∀ (o : MOps) s id b a p loc, s.running = some (id, b, a, p) → a.active p o.g ≠ 0 → direct s a (a.active p o.g) → entryIn s a (wordB s a o 0) → popMask (a.active p o.g) ≤ s.freeCount a.cluster →
    lanesReach s id b a (a.active p o.g) needRW 8 (fun L => valA s a o (.bits 2) L) loc → apart (a.active p o.g) loc →
    (∀ L ∈ lanesOf (a.active p o.g), s.sound (loc L) 8 = true ∧ ofBytes (s.load (loc L) 8) / 2 ^ 32 = 2 ^ 32 - 1) →
    ∀ spec : Bool, ∃ t a', ∃ f : Nat → Nat, exec (if spec then .spawnSpec o else .spawn o) s = .next t ∧ t.agent? id = some a' ∧ a'.insn = a.insn + 1
      ∧ (∀ L ∈ lanesOf (a.active p o.g), f L < 4096 ∧ s.recFree (4096 * a.cluster + f L) = true
          ∧ (o.d.toNat < a.nregs → a'.v o.d.toNat L = BitVec.ofNat 32 (2 ^ 24 * s.devNum + 2 ^ 12 * a.cluster + f L))
          ∧ ∃ core, t.rec? (4096 * a.cluster + f L) = some (newRec (wordB s a o 0) (arguments a o L) a.launch core (if spec then .spec else .waiting) spec true))
      ∧ ∀ L ∈ lanesOf (a.active p o.g), ∀ M ∈ lanesOf (a.active p o.g), f L = f M → L = M) ∧
  (∀ (o : MOps) s id b a p loc, s.running = some (id, b, a, p) → a.active p o.g ≠ 0 → direct s a (a.active p o.g) → s.hasTable a = true →
    lanesReach s id b a (a.active p o.g) needRW 8 (globAddr s a o) loc → apart (a.active p o.g) loc → (∀ L ∈ lanesOf (a.active p o.g), s.sound (loc L) 8 = true) →
    let count (t : State) (L : Nat) : Nat := ofBytes (t.load (loc L) 4)
    ((∀ L ∈ lanesOf (a.active p o.g), count s L ≠ 0) → ∃ t a', exec (.depDec o) s = .next t ∧ t.agent? id = some a' ∧ a'.insn = a.insn + 1 ∧ (∃ x ∈ a'.ops, x.id = s.nextId)
      ∧ ∀ L ∈ lanesOf (a.active p o.g), count t L = count s L - 1) ∧
    ((∀ L ∈ lanesOf (a.active p o.g), count s L + wordC a o L < 2 ^ 32) → ∃ t a', exec (.depAdd o) s = .next t ∧ t.agent? id = some a' ∧ a'.insn = a.insn + 1 ∧ (∃ x ∈ a'.ops, x.id = s.nextId)
      ∧ ∀ L ∈ lanesOf (a.active p o.g), count t L = count s L + wordC a o L)) ∧
  (∀ (o : MOps) s id b a p, s.running = some (id, b, a, p) → o.g.neg = false →
    (∀ n k v, (n, k, v) ∈ [(0, 1, a.fpc.toNat), (1, 1, a.xth.toNat), (2, 1, a.fst.toNat), (16, 2, a.sbase.toNat), (17, 1, a.sshift.toNat), (18, 1, a.sfmt.toNat)]
        ∨ (a.handler ≠ none ∧ (n, k, v) ∈ [(8, 2, a.tpc.toNat), (9, 1, a.tix.toNat), (10, 1, a.tcause.toNat), (11, 2, a.taddr.toNat)]) →
      o.c.toNat = n → ∃ t a', exec (.sysrd o) s = .next t ∧ t.agent? id = some a' ∧ a'.insn = a.insn + 1 ∧ a'.sregs = (a.setSN o.d.toNat k v).sregs) ∧
    (∀ n k x, (n, k, x) ∈ [(0, 1, 0xF7F), (16, 2, 2 ^ 64 - 1), (17, 1, 0x1F1F), (18, 1, 0x31F1F)]
        ∨ (a.handler ≠ none ∧ (n, k, x) ∈ [(8, 2, 2 ^ 64 - 4), (9, 1, 31), (10, 1, 0x00FF00FF), (11, 2, 2 ^ 64 - 1)]) →
      o.c.toNat = n → ∃ t a', exec (.syswr o) s = .next t ∧ t.agent? id = some a' ∧ a'.insn = a.insn + 1 ∧ a'.cr n = some (valB s a o (.bits k) 0 % 2 ^ (32 * k) &&& x)) ∧
    (∀ n v, s.counter a n = some v → o.c.toNat = n → n ≤ 9 → ∃ t a', exec (.pmcrd o) s = .next t ∧ t.agent? id = some a' ∧ a'.insn = a.insn + 1 ∧ a'.sregs = (a.setSN o.d.toNat 2 v).sregs) ∧
    ∀ n, n ≤ 9 → s.counter a n ≠ none) ∧
  (∀ (s : State) i p, s.packets[i]? = some p → p.isNew = true ∨ s.forward = [] ∧ p.dst = p.handle &&& 0xFF07F000 → p.place = 0 → field p.dst.toNat 24 8 = s.devNum → s.stranded = [] → s.clusterFenced (field p.dst.toNat 12 7) = false →
    mapGetD s.credits (32 * field p.dst.toNat 12 7 + p.src) 0 < 4 → ∃ t q, exec (.packetSend i) s = .next t ∧ t.packets[i]? = some q ∧ q.place = 1 ∧ q.dst = p.dst
      ∧ mapGetD t.credits (32 * field p.dst.toNat 12 7 + p.src) 0 = mapGetD s.credits (32 * field p.dst.toNat 12 7 + p.src) 0 + 1) ∧
  (∀ (s : State) cluster l₁ p l₂ q r, arrivedFirst s cluster false l₁ p l₂ q → ¬ seenBefore s p → s.rec? (4096 * cluster + field p.handle.toNat 0 12) = some r → r.st = .waiting →
    ∃ t x, exec (.releasePacket cluster) s = .next t ∧ t.packets = l₁ ++ l₂ ∧ t.rec? (4096 * cluster + field p.handle.toNat 0 12) = some x ∧ x.st = .ready ∧ x.attached = false) ∧
  (∀ (s : State) cluster l₁ p l₂ q l, arrivedFirst s cluster true l₁ p l₂ q → ¬ seenBefore s p → mapGet? s.launches q = some l → cluster ∈ s.ownClusters l.vf → s.freeCount cluster ≠ 0 →
    ∃ t rn core, exec (.newTaskPacket cluster) s = .next t ∧ t.packets = l₁ ++ l₂ ∧ rn < 4096 ∧ t.rec? (4096 * cluster + rn) = some (newRec p.ent p.args q core .ready false false)) ∧
  (∀ (s : State) cluster core vf r rest x e k, (s.disp cluster core).deques = [(vf, r :: rest)] → s.rec? (4096 * cluster + r) = some x → s.tetOf x.launch x.entry = some e →
    (∀ y ∈ (s.disp cluster core).bins, y.2.closed = true) → k < 8 → mapGet? (s.disp cluster core).bins k = none → (∀ j, j < k → mapGet? (s.disp cluster core).bins j ≠ none) →
    ∃ t y, exec (.binGather cluster core) s = .next t ∧ mapGet? (t.disp cluster core).bins k = some y ∧ y.recs = [r] ∧ y.launch = x.launch ∧ y.entry = x.entry ∧ y.closed = (e.gw == 0)) ∧
  (∀ (s : State) cluster core k y e, mapGet? (s.disp cluster core).bins k = some y → s.tetOf y.launch y.entry = some e → y.closed = false → 32 * e.gw ≤ y.age →
    ∃ t z, exec (.binClose cluster core k) s = .next t ∧ mapGet? (t.disp cluster core).bins k = some z ∧ z.closed = true ∧ z.recs = y.recs) ∧
  (∀ (s : State) cluster core k y l e q us gran, (s.disp cluster core).bins.filter (fun x => x.2.closed) = [(k, y)] → mapGet? (s.disp cluster core).bins k = some y → (s.disp cluster core).drain = false →
    mapGet? s.launches y.launch = some l → s.ctxRuns l.vf l.ctx = true → l.tet[y.entry]? = some e → e.nt ≤ y.recs.length → y.recs ≠ [] → y.recs.Nodup → y.recs.length ≤ 32 →
    (∀ r ∈ y.recs, ∃ t, s.rec? (4096 * cluster + r) = some t) → (s.ownQuads cluster l.vf).filter (fun q => decide (q / 4 = core)) = [q] → (s.quadUse cluster q).fits 2 (2 * e.rgn) = some us →
    s.takeGranules cluster l.vf e.wgm = some gran → s.granulesClear cluster gran = true → (s.quadUse cluster q).clear us (2 * e.rgn) = true → (∀ z ∈ s.launches, s.placeable z.2 = true → cluster ∉ s.placesOf z) →
    ∃ t a, exec (.waveDispatch cluster core) s = .next t ∧ t.agent? s.nextId = some a ∧ a.kind = .wave ∧ a.live = maskTo y.recs.length ∧ mapGet? (t.disp cluster core).bins k = none
      ∧ ∀ r ∈ y.recs, ∃ x, t.rec? (4096 * cluster + r) = some x ∧ x.st = .running) ∧
  (∀ (s : State) cluster vf n v, s.idleFor cluster vf = true → mapGet? s.idleAt (64 * cluster + vf) = some n → 2048 ≤ n → mapGet? s.steals (64 * cluster + vf) = none → (s.part cluster vf).qmask ≠ 0 →
    s.freeCount cluster ≠ 0 → s.victims cluster vf = [v] → ∃ t, exec (.stealRequest cluster vf) s = .next t ∧ mapGet? t.steals (64 * cluster + vf) = some (v, min 16 (s.freeCount cluster))) ∧
  (∀ (s : State) victim thief vf asked, mapGet? s.steals (64 * thief + vf) = some (victim, asked) → victim ≠ thief →
    ∃ t, exec (.stealDonation victim thief vf) s = .next t ∧ mapGet? t.steals (64 * thief + vf) = none ∧ ∀ c r, c < 2 → r ∈ (t.disp victim c).deque vf → r ∈ (s.disp victim c).deque vf) ∧
  (∀ (s : State) cluster rn r, s.rec? (4096 * cluster + rn) = some r → r.st = .commit → r.buffer = [] →
    ∃ t, exec (.taskCommit cluster rn) s = .next t ∧ t.rec? (4096 * cluster + rn) = some (freedRec r) ∧ t.mem = s.mem)

/-- Licence rings, clocks and slots: a lap starts with INJ tokens in each flit, a flit serves the quadrants of its stop, a window leaves each partition's floor; votes and temperature set a chiplet's level, and INJ follows it; a frame installs new slot tables (R315 to R326, R392, R412 to R414, R427). The model's: that each of these is an event of its own (log 1), and when a filler's price is withheld, which matrix units are idle, and STEP from Config.slopeVolts rounded down (log 33). -/
def Obligations.LicencesClocksAndSlotsAdvance : Prop :=
  (∀ (s : State) ch,
    let c := s.chiplet ch
    (8 ≤ ch ∨ 8 ≤ c.lap ∨ lapping c → exec (.lapStart ch) s = .next s) ∧
    (ch < 8 → c.lap < 8 → ¬ lapping c → ∃ x, exec (.lapStart ch) s = .next (chipletNow s ch x)
      ∧ x.lap = c.lap + 1 ∧ x.step = c.stepNew.getD c.step ∧ x.stepNew = none ∧ x.injNew = [] ∧ x.need = []
      ∧ (mapWf c.injNew = true → ∀ v, x.injOf v = (mapGet? c.injNew v).getD (c.injOf v))
      ∧ (mapWf c.inj = true → mapWf c.injNew = true → ∀ v,
          let i := x.injOf v
          let kept := if i.en then min (mapGetD c.debt v 0) (i.inj - 4096) else 0
          (i.en = true → mapGet? x.flits v = some ⟨i.inj - kept, ((mapGet? c.flits v).map (fun f => f.resv)).getD [], 0⟩)
          ∧ (i.en = false → mapGet? x.flits v = none)
          ∧ (shortfalls c = [] → mapGetD x.debt v 0 = mapGetD c.debt v 0 - kept ∧ mapGetD x.fill v 0 = mapGetD c.fill v 0 ∧ mapGetD x.spend v 0 = mapGetD c.spend v 0)
          ∧ ∀ k, shortfalls c = [(v, k)] →
              let n := min ((k + 127) / 128) (2 * s.idleMus ch)
              mapGetD x.fill v 0 = (mapGetD c.fill v 0 + 128 * n) % 2 ^ 64 ∧ mapGetD x.spend v 0 = mapGetD c.spend v 0 + 128 * n
                ∧ mapGetD x.debt v 0 = mapGetD c.debt v 0 - kept + if i.en then 128 * n else 0))) ∧
  (∀ (s : State) ch vf stop,
    let c := s.chiplet ch
    let cluster := 16 * ch + stop / 2
    (mapGet? c.flits vf = none ∨ 32 ≤ stop ∨ (∃ f, mapGet? c.flits vf = some f ∧ f.stop ≠ stop) → exec (.flitPass ch vf stop) s = .next s) ∧
    (∀ f, mapGet? c.flits vf = some f → f.stop = stop → stop < 32 →
      let kept := f.resv.filter (fun y => !((List.range 4).any (fun n => !(s.ownsQuad cluster vf (4 * (stop % 2) + n)) && y == 8 * (cluster % 16) + 4 * (stop % 2) + n)))
      (s.stopQuads cluster vf stop = [] → exec (.flitPass ch vf stop) s = .next (chipletNow s ch { c with flits := mapSet c.flits vf { f with stop := stop + 1, resv := kept } })) ∧
      (∀ q live, s.stopQuads cluster vf stop = [q] → (s.purse cluster q).others = [] →
        ((s.purse cluster q).claimant = none → live = none) →
        (∀ d price, (s.purse cluster q).claimant = some (d, price) → live = if s.claims cluster d then some (d, price) else none) →
        let p := s.purse cluster q
        let name := 8 * (cluster % 16) + q
        let price := (live.map (fun y => y.2)).getD 0
        let resv := if live = none then kept.filter (fun y => y != name) else kept
        let drawn := if resv = [] ∨ resv.head? = some name then min f.tokens (min (max price (c.injOf vf).pt - p.tokens) (16383 - p.tokens)) else 0
        let has := p.tokens + drawn
        ∃ S y g, exec (.flitPass ch vf stop) s = .next S ∧ S = { s with purses := S.purses, chiplets := mapPut Chiplet.base s.chiplets ch { c with flits := mapSet c.flits vf g } }
          ∧ (∀ k, mapGetD S.purses k Purse.empty = if k = 8 * cluster + q then y else mapGetD s.purses k Purse.empty)
          ∧ y.tokens = has ∧ y.claimant = live ∧ y.others = [] ∧ g.tokens = f.tokens - drawn ∧ g.stop = stop + 1
          ∧ (live = none → g.resv = resv)
          ∧ (live ≠ none → price ≤ has → y.short = 0 ∧ g.resv = if resv.head? = some name then resv.drop 1 else resv)
          ∧ (live ≠ none → has < price → y.short = p.short + 1 ∧ g.resv = if 1 ≤ p.short ∧ name ∉ resv ∧ resv.length < 4 then resv ++ [name] else resv)))) ∧
  (∀ (s : State) ch,
    let c := s.chiplet ch
    (c.lap ≠ 8 ∨ lapping c → exec (.slopeWindowEnd ch) s = .next s) ∧
    (c.lap = 8 → ¬ lapping c → mapWf c.spend = true → ∃ x, exec (.slopeWindowEnd ch) s = .next (chipletNow s ch x) ∧ x = { c with lap := 0, spend := [], lapSpend := [], need := shortfalls c, floor := x.floor }
      ∧ ∀ v, mapGetD x.floor v 0 = if c.step = 0 then 0 else mapGetD c.spend v 0 - c.step)) ∧
  (∀ (s : State) ch vf,
    let c := s.chiplet ch
    (∀ l, (8 < l ∨ s.quadsOn ch vf = 0) → exec (.voteChange ch vf (some l)) s = .next s) ∧
    (∀ l, l ≤ 8 → s.quadsOn ch vf ≠ 0 → ∃ x, exec (.voteChange ch vf (some l)) s = .next (chipletNow s ch x) ∧ clockVoted { c with votes := mapSet c.votes vf l } x) ∧
    (∃ x, exec (.voteChange ch vf none) s = .next (chipletNow s ch x) ∧ clockVoted { c with votes := mapErase c.votes vf } x) ∧
    (c.raising = none → exec (.frequencyStep ch) s = .next s) ∧
    (∀ l, ch < 8 → c.raising = some l → ∃ S, exec (.frequencyStep ch) s = .next S ∧ clockAt s S ch { c with level := l, raising := none }) ∧
    (c.hold = false → exec (.freqHoldExpiry ch) s = .next s) ∧
    (ch < 8 → c.hold = true → ∃ S, exec (.freqHoldExpiry ch) s = .next S
      ∧ clockAt s S ch { c with level := if c.hot then 0 else (c.votes.map (fun v => v.2)).foldl max 0, hold := false }) ∧
    ∀ t, ((c.hot = false → t ≤ 1050) → (c.hot = true → 1000 ≤ t) → exec (.chipletThermalLimit ch t) s = .next s) ∧
      (ch < 8 → c.hot = false → 1050 < t → ∃ S, exec (.chipletThermalLimit ch t) s = .next S ∧ clockAt s S ch { c with hot := true, level := 0, raising := none, hold := false }) ∧
      (c.hot = true → t < 1000 → ∃ x, exec (.chipletThermalLimit ch t) s = .next (chipletNow s ch x) ∧ clockVoted { c with hot := false } x)) ∧
  (∀ (s : State) slot,
    let k := s.time / 64
    (k ≤ s.slot ∨ k % 1024 ≠ slot → exec (.slotOpen slot) s = .next s) ∧
    (s.slot < k → k % 1024 = slot → k / 1024 = s.slot / 1024 → exec (.slotOpen slot) s = .next { s with slot := k }) ∧
    (s.slot < k → k % 1024 = slot → k / 1024 ≠ s.slot / 1024 → mapWf s.newTabs = true → ∃ S : State, exec (.slotOpen slot) s = .next S ∧ S = { s with slot := k, slotTabs := S.slotTabs, newTabs := [] }
      ∧ ∀ link, mapGet? S.slotTabs link = if (mapGet? s.newTabs link).isSome then mapGet? s.newTabs link else mapGet? s.slotTabs link) ∧
    exec .vfTimeJournal s = .next { s with
      journal := s.journal ++ (s.vfs.filter (fun v => v.2.enabled)).zipIdx.map (fun x => (s.journal.length + x.2, .vfTime x.1.1 (s.vfTime x.1.1))) })

/-- Registers, attestation, faults and power: a register write takes its fields and no reserved bit; BAR0 has the registers at their offsets, and only the recovery block without firmware; a failed part is fenced and what ran there is lost once; a fatal error dumps and resets; a warm reset keeps what R422 keeps and restarts the time base; power loss keeps no work; recovery loads only an image that verifies (R13, R316, R338, R353, R355, R368, R395, R415 to R423, R425, R428). The model's: the values that the rules leave to the device (logs 17, 21, 22), what a dump holds, and that Enable of PRI is bit 0 (log 33). -/
def Obligations.RegistersFaultsAndPowerActOnTheWholePart : Prop :=
  (∀ (s : State) (v : DWord),
    let n := v.toNat
    (∀ c, exec (.registerWrite (.liccfg c) v) s = .next (if c < 8 then chipletNow s c { s.chiplet c with stepNew := some (n % 2 ^ 24) } else s)) ∧
    (∀ c vf, exec (.registerWrite (.licinj c vf) v) s = .next (if c < 8 ∧ vf < 64 then chipletNow s c { s.chiplet c with
      injNew := mapSet (s.chiplet c).injNew vf ⟨n.testBit 31, field n 16 14, field n 0 16⟩ } else s)) ∧
    (∀ f, (s.present f = false ∨ (s.box f).busy = true → exec (.registerWrite (.mbcmd f) v) s = .next s) ∧
      (s.present f = true → (s.box f).busy = false → exec (.registerWrite (.mbcmd f) v) s =
        .next (s.setBox f { s.box f with cmd := BitVec.ofNat 32 (2 ^ 31 * field n 31 1 + field n 0 8), busy := n.testBit 31, args := if n.testBit 31 then (s.box f).data else (s.box f).args })) ∧
      ∀ k, exec (.registerWrite (.mbdata f k) v) s = .next (if s.present f = true ∧ k < 8 then s.setBox f { s.box f with data := mapPut 0 (s.box f).data k v } else s)) ∧
    (∀ vf ctx, let i := Instr.registerWrite (.ctxctl vf ctx) v
      (s.up = false ∨ (s.vf vf).enabled = false ∨ s.ctx? vf ctx = none ∨ n.testBit 31 = n.testBit 30 → exec i s = .next s) ∧
      (s.up = true → (s.vf vf).enabled = true → n.testBit 31 = true → n.testBit 30 = false → exec i s = exec (.halt vf ctx) s) ∧
      (s.up = true → (s.vf vf).enabled = true → n.testBit 31 = false → n.testBit 30 = true → exec i s = exec (.resume vf ctx) s)) ∧
    (∀ vf, let i := Instr.registerWrite (.prictl vf) v
      let waiting := (s.vf vf).groups.filter (fun g => g.prgi.isNone)
      (n % 2 = 1 → exec i s = .next (s.setVf vf { s.vf vf with priEn := true, priStop := (s.vf vf).priStop && (s.vf vf).priEn })) ∧
      (n % 2 = 0 → parksDistinct s → noTaskWaits s waiting → ∃ S, exec i s = .next S ∧
        S = State.setVf { s with fails := S.fails, waits := S.waits, agents := S.agents } vf { s.vf vf with priEn := false, groups := (s.vf vf).groups.filter (fun g => g.prgi.isSome) }
          ∧ groupsFail s S waiting)) ∧
    exec (.registerWrite .rcvctl v) s = .next (if s.fw.recovery = true ∧ n.testBit 31 = true then { s with fw := { s.fw with rcvGo := true } } else s) ∧
    exec (.registerWrite .rcvaddr v) s = .next (if s.fw.recovery = true then { s with fw := { s.fw with rcvAddr := v } } else s) ∧
    exec (.registerWrite .rcvlen v) s = .next (if s.fw.recovery = true then { s with fw := { s.fw with rcvLen := v } } else s) ∧
    (s.up = false ∨ s.mig.busy = true → exec (.registerWrite .migctl v) s = .next s) ∧
    (s.up = true → s.mig.busy = false → exec (.registerWrite .migctl v) s =
      .next { s with mig := { s.mig with ctl := BitVec.ofNat 32 (2 ^ 31 * field n 31 1 + 2 ^ 8 * field n 8 6 + field n 0 4), busy := n.testBit 31 } }) ∧
    exec (.registerWrite .migbuf v) s = .next (if s.up = true then { s with mig := { s.mig with buf := v } } else s) ∧
    exec (.registerWrite .miglen v) s = .next (if s.up = true then { s with mig := { s.mig with len := v } } else s) ∧
    ∀ vf, let waiting := (s.vf vf).groups.filter (fun g => g.prgi.isNone)
      (n % 2 ^ 32 ≠ 0 → exec (.registerWrite (.prialloc vf) v) s = .next (s.setVf vf { s.vf vf with priAlloc := n % 2 ^ 32 })) ∧
      (n % 2 ^ 32 = 0 → parksDistinct s → noTaskWaits s waiting → ∃ S, exec (.registerWrite (.prialloc vf) v) s = .next S ∧
        S = State.setVf { s with fails := S.fails, waits := S.waits, agents := S.agents } vf { s.vf vf with priAlloc := 0, groups := (s.vf vf).groups.filter (fun g => g.prgi.isSome) }
          ∧ groupsFail s S waiting)) ∧
  (∀ (s : State) f,
    bar0At f 0 = some (.reg (.mbcmd f)) ∧ (∀ k, k < 8 → bar0At f (0x40 + 8 * k) = some (.reg (.mbdata f k))) ∧
    (∀ n c, c < 16 → bar0At (.vf n) (0x10800 + 0x1000 * c) = some (.reg (.ctxctl n c)) ∧ ∀ q, q < 32 → bar0At (.vf n) (0x10000 + 0x1000 * c + 8 * q) = some (.bell ⟨n, c, q⟩)) ∧
    (∀ x ∈ [(0x4000, DevReg.migctl), (0x4008, .migbuf), (0x4010, .miglen), (0x8000, .rcvctl), (0x8008, .rcvaddr), (0x8010, .rcvlen)], bar0At .pf x.1 = some (.reg x.2)) ∧
    (s.present f = true → s.bar0Read f 4 = some (BitVec.ofNat 64 ((if (s.box f).busy then 2 ^ 31 else 0) + (s.box f).result % 256))) ∧
    (s.up = true → s.bar0Read .pf 0x4004 = some (BitVec.ofNat 64 ((if s.mig.busy then 2 ^ 31 else 0) + s.mig.result % 256)) ∧ s.bar0Read .pf 0x4018 = some s.mig.cnt) ∧
    (s.up = false → ∀ off, off < 0x8000 → s.bar0Read f off = none)) ∧
  (∀ s : State,
    (∀ m, s.up = false → exec (.spdmRequest m) s = .next s) ∧
    (s.up = true → exec (.spdmRequest .openSession) s = .next { s with spdm := true } ∧ exec (.spdmRequest .closeSession) s = .next { s with spdm := false }
      ∧ (∀ on, exec (.spdmRequest (.relaySession on)) s = .next { s with mig := { s.mig with session := on } })
      ∧ (let answer (ws : List DWord) : List DWord := ws ++ (List.range 12).map (fun i => Config.signature (sha384 (ws.flatMap (fun w => bytesOf w.toNat 8))) s.fresh i)
        exec (.spdmRequest (.measure 3)) s = .next (s.emit (.spdm (.measure 3) (answer [BitVec.ofNat 64 s.fw.minSvn])))
        ∧ ∀ k bs, (k = 1 ∧ bs = Config.bootRom) ∨ (k = 2 ∧ bs = s.fw.flash.take (s.fw.flash.length - 96)) ∨ (k = 4 ∧ bs = Config.securityConfig) →
            exec (.spdmRequest (.measure k)) s = .next (s.emit (.spdm (.measure k) (answer (sha384 bs)))))
      ∧ (∀ ws, (s.spdm = false → exec (.spdmRequest (.tdisp ws)) s = .next (s.emit (.spdm (.tdisp ws) [])))
          ∧ (s.spdm = true → ∃ told, exec (.spdmRequest (.tdisp ws)) s = .next (s.emit (.spdm (.tdisp ws) told))))
      ∧ (∀ k, k = 0 ∨ 4 < k → exec (.spdmRequest (.measure k)) s = .next (s.emit (.spdm (.measure k) [])))
      ∧ (s.spdm = false ∨ s.dump = none → exec (.spdmRequest .readDump) s = .next (s.emit (.spdm .readDump [])))
      ∧ (∀ d, s.spdm = true → s.dump = some d → ∃ more, exec (.spdmRequest .readDump) s = .next (s.emit (.dumped d more))))) ∧
  (∀ (s : State) stack temp row, mapGetD s.hbm stack 0 ≤ 3 → stackRow (mapGetD s.hbm stack 0) temp row →
    (8 ≤ stack ∨ mapGetD s.hbm stack 0 = row → exec (.hbmThermalChange stack temp) s = .next s) ∧
    (stack < 8 → mapGetD s.hbm stack 0 ≠ 3 → row = 3 → exec (.hbmThermalChange stack temp) s = exec .fatalError s) ∧
    (stack < 8 → row < 3 → mapGetD s.hbm stack 0 ≠ row →
      let t : State := { s with hbm := mapPut 0 s.hbm stack row }
      (s.bwVfs = [] → exec (.hbmThermalChange stack temp) s = .next t) ∧
      ∀ v, s.bwVfs = [v] → ∃ S, exec (.hbmThermalChange stack temp) s = .next S ∧ eventPosted t S v 2 (stack + 256 * (if row = 0 then 100 else if row = 1 then 75 else 50)))) ∧
  (∀ (s : State) p, ∃ S, exec (.singlePartFault p) s = .next S ∧ fencedIn S p ∧ S.mem = s.mem ∧ S.hostMem = s.hostMem
    ∧ (∀ x, x ∈ S.agents ↔ x ∈ s.agents ∧ ¬ failsWith p x.2.cluster)
    ∧ (mapWf s.groups = true → (∀ x, x ∈ S.groups ↔ x ∈ s.groups ∧ ¬ failsWith p x.2.cluster)
      ∧ ∀ id g l, mapGet? s.groups id = some g → failsWith p g.cluster → mapGet? s.launches g.launch = some l → ∃ m, mapGet? S.launches g.launch = some m ∧ m.lost = true ∧ l.retired < m.retired)
    ∧ (∀ (i : Nat) (q : Packet), s.packets[i]? = some q → ∃ r : Packet, S.packets[i]? = some r ∧ r = { q with place := r.place, src := r.src }
        ∧ (q.place = 1 → failsWith p (field q.dst.toNat 12 7) → r.place = 0 ∧ (q.src < 16 → r.src = q.src) ∧ (16 ≤ q.src → r.src = field q.dst.toNat 12 7 / 16 ∧ .creditBack (q.src - 16) (field q.dst.toNat 12 7) ∈ S.sent))
        ∧ (q.place ≠ 1 ∨ ¬ failsWith p (field q.dst.toNat 12 7) → r = q))
    ∧ (∀ v n c q x, mapGet? (s.vf v).ctxs n = some c → mapGet? c.queues q = some x → ∃ d, mapGet? (S.vf v).ctxs n = some d ∧ mapGet? d.queues q = some { x with rewrite := true })
    ∧ ∀ n i r l c, p = .cluster n → s.recs = [(4096 * n + i, r)] → i < 4096 → r.st = .ready → r.attached = false → s.forward = [] → mapGet? s.launches r.launch = some l →
        c ∈ s.ownClusters l.vf → c ≠ n → (∀ d ∈ s.ownClusters l.vf, d ≠ n → c ≤ d) → ∃ q, S.recs = [(4096 * c + i, q)] ∧ q.st = .ready ∧ q.entry = r.entry ∧ q.args = r.args ∧ q.launch = r.launch) ∧
  (∀ s : State,
    (s.powered = false → exec .warmReset s = .next s ∧ exec .fatalError s = .next s) ∧
    (s.powered = true → ∃ d, exec .fatalError s = exec .warmReset (State.emit { s with dump := some d } .unavailable)
      ∧ d.extents = s.extents ∧ d.parts = s.parts ∧ d.slotTabs = s.slotTabs ∧ d.journal = s.journal.length ∧ d.poison = s.poison ∧ d.links = s.fencedLinks
      ∧ d.credits = s.credits ∧ d.farCredits = s.farCredits ∧ d.ats = s.ats ∧ d.waits = s.waits ∧ d.invals = s.invals ∧ d.steals = s.steals ∧ d.purses = s.purses ∧ d.chiplets = s.chiplets
      ∧ (∀ k n, (k, n) ∈ d.roots ↔ (k, n) ∈ s.nodes ∧ ∃ tree i, k = nodeAt tree 5 0 + i ∧ i < 65 * 2 ^ 20)
      ∧ ∀ x, x ∈ d.queues ↔ ∃ v ∈ s.vfs, ∃ c ∈ v.2.ctxs, ∃ q ∈ c.2.queues, x = (⟨v.1, c.1, q.1⟩, q.2.accepted, q.2.completed)) ∧
    (∀ g, s.powered = true → booted s.fw g → g.recovery = true → exec .warmReset s = .next { s with fw := g, cur := none, spdm := false, hostRead := [] }) ∧
    (∀ g, s.powered = true → booted s.fw g → g.recovery = false → ∃ S, exec .warmReset s = .next S ∧ S.time = 0 ∧ S.cur = none ∧ S.agents = [] ∧ S.tlb = [] ∧ S.ats = [] ∧ S.waits = [] ∧ S.invals = []
      ∧ S.splits = [] ∧ S.slot = 0 ∧ S.pfBox = Mailbox.reset ∧ S.vfBoxes = [] ∧ S.mig = Migration.reset ∧ S.spdm = false ∧ S.fw = g ∧ S.events = [] ∧ S.extents = s.extents ∧ S.windows = s.windows
      ∧ (∀ c, (S.chiplet c).level = 0 ∧ (S.chiplet c).votes = []) ∧ (∀ v, (S.vf v).enabled = (s.vf v).enabled ∧ (S.vf v).extents = (s.vf v).extents)
      ∧ (mapWf s.groups = true → S.groups = [] ∧ ∀ id g l, mapGet? s.groups id = some g → mapGet? s.launches g.launch = some l → ∃ m, mapGet? S.launches g.launch = some m ∧ m.lost = true)
      ∧ S.hostMem = s.hostMem ∧ (∀ v n c, mapGet? (s.vf v).ctxs n = some c → ∃ d, mapGet? (S.vf v).ctxs n = some d ∧ d.st = (if (s.vf v).stopped = true then .halted else .run)
          ∧ ∀ q x, mapGet? c.queues q = some x → mapGet? d.queues q = some { x with rewrite := true })
      ∧ (mapWf s.dirty = true → (∀ h ∈ s.dirty, h.2.length = 256) → ∀ y, memGet S.mem y = match mapGet? s.dirty (y / 256) with | some bs => bs.getD (y % 256) 0 | none => memGet s.mem y)
      ∧ ∀ v t l₁ n l₂, mapWf s.vfs = true → (s.vf v).enabled = true → s.journal = l₁ ++ (n, .vfTime v t) :: l₂ → (∀ y ∈ l₂, ∀ u, y.2 ≠ .vfTime v u) → S.vfTime v = t + 2 ^ 20)) ∧
  (∀ s : State,
    exec .powerLoss s = .next (freshPart s false { Firmware.reset with flash := s.fw.flash, minSvn := s.fw.minSvn }) ∧
    (s.powered = true → ∀ b, exec (.powerOn b) s = .next s) ∧
    (s.powered = false → ∃ g, booted { Firmware.reset with flash := s.fw.flash, minSvn := s.fw.minSvn } g ∧ exec (.powerOn true) s = .next (freshPart s true g)
      ∧ exec (.powerOn false) s = if g.recovery = true then .next (freshPart s true g) else exec .fatalError (freshPart s true g))) ∧
  (∀ s : State,
    let im := memRead s.hostMem s.fw.rcvAddr.toNat s.fw.rcvLen.toNat
    let svn := ofBytes ((im.drop 4).take 4)
    let good : Prop := s.fw.rcvAddr.toNat % 4096 = 0 ∧ goodImage im
    let ends (n : Nat) : Prop := exec .recoveryLoad s = .next { s with fw := { s.fw with rcvGo := false, rcvResult := n } }
    (s.powered = false ∨ s.fw.recovery = false ∨ s.fw.rcvGo = false → exec .recoveryLoad s = .next s) ∧
    (s.powered = true → s.fw.recovery = true → s.fw.rcvGo = true →
      (¬ good → ends 4) ∧ (good → ¬ signedImage im → ends 2) ∧ (good → signedImage im → svn < s.fw.minSvn → ends 3) ∧
      (good → signedImage im → s.fw.minSvn ≤ svn → ∃ S, exec .recoveryLoad s = .next S ∧ S.time = 0 ∧ S.agents = []
        ∧ S.fw = { s.fw with recovery := false, flash := im, minSvn := svn, rcvGo := false, rcvResult := 1, rcvAddr := 0, rcvLen := 0 })))

/-- A step takes the next turn of the agenda. In the turn of a slot whose path can go on, the instruction at its position is fetched, decoded, checked, and is what exec performs: the step is exec of that instruction, with the rows it reads and writes, its queue, its purse and its place in the rotation looked after, and ILLOP where nothing decodes (R71 to R82, R97, R246 to R252, R319, R409). The turn of an event is exec of that event, while the firmware runs (R418). A deed is a write-back, which counts up its block and every node above it, a fill, which poisons what fails its check, the exchange of two unordered writes, or what a peer or a failing memory does (R277, R281, R296 to R298, R383 to R386). Time passes at every step, and Dale journals the VF times that are due (R427). That the agenda names turns, and how time passes, is the model's choice (logs 1 and 3). -/
def Obligations.AStepRunsTheDecodedInstruction : Prop :=
  (∀ (s t : State) id b rest a p, slotTurnAt s t id b rest a p →
    (∀ pc h w i, p.phase = .body pc h → parcelsAt t id b a pc w → decodesTo w i →
      let act := a.actFor p i
      let quad := t.muQuad a
      let run : State := { t with cur := some ⟨id, b⟩ }
      (act ≠ 0 → a.interlocked (usesOf i) = true ∨ t.rows id a (usesOf i) = .hold → step s = .next t) ∧
      (∀ T, act ≠ 0 → a.interlocked (usesOf i) = false → t.rows id a (usesOf i) = .pull T → step s = .next T) ∧
      (∀ cause m, act ≠ 0 → a.interlocked (usesOf i) = false → t.rows id a (usesOf i) = .ready → a.struck i act = some (cause, m) →
        step s = .next (t.raiseAt id b p.pos m (fun L => ⟨cause, false, L, 0⟩))) ∧
      ((act = 0 ∨ (a.interlocked (usesOf i) = false ∧ t.rows id a (usesOf i) = .ready ∧ a.struck i act = none)) → ∀ x, exec i run = .next x →
        (t.noRoom x id a = true → step s = .next t) ∧
        (t.noRoom x id a = false →
          let free : Prop := act = 0 ∨ issuedIn x id a = false ∨ t.priceOf x a i = 0
          (free → step s = .next ((x.endTurn id b a i act).dropClaim a.cluster quad (.slot id b))) ∧
          (∀ paid y, ¬ free → run.pay a.cluster quad a.vf (.slot id b) (t.priceOf x a i) = (paid, true) → exec i paid = .next y → step s = .next (y.endTurn id b a i act)) ∧
          (∀ short, ¬ free → run.pay a.cluster quad a.vf (.slot id b) (t.priceOf x a i) = (short, false) → step s = .next { short with cur := none })))) ∧
    (∀ pc h w, p.phase = .body pc h → parcelsAt t id b a pc w → (∀ i, ¬ decodesTo w i) → step s = .next (t.illop id b p p.mask)) ∧
    (∀ w i, p.phase = .header → codeAt t id b a p.pos.hdr w → decodeHeader w = some i → i.wf = true → ∀ x, exec i { t with cur := some ⟨id, b⟩ } = .next x → step s = .next { x with cur := none }) ∧
    (∀ w, p.phase = .header → codeAt t id b a p.pos.hdr w → (∀ i, decodeHeader w = some i → i.wf = false) →
      step s = .next (t.raise id b ⟨p.pos.hdr, 0⟩ p.mask ⟨cILLOP, false, 0, 0⟩))) ∧
  (∀ (s : State) e rest, s.agenda = .event e :: rest →
    let t : State := { s.tick with agenda := rest }
    (encode e = [] → s.up = true ∨ whileDown e = true → step s = exec e t) ∧
    (encode e ≠ [] ∨ (s.up = false ∧ whileDown e = false) → step s = .next t)) ∧
  (∀ (s t : State) d, deedAt s t d → s.up = false → step s = .next t) ∧
  (∀ (s t : State) g, deedAt s t (.writeBack g) → s.up = true →
    (mapGet? s.dirty g = none → step s = .next t) ∧
    (∀ bs, mapGet? s.dirty g = some bs → ∃ S, step s = .next S
      ∧ S = { t with counters := S.counters, nodes := S.nodes, dirty := s.dirty.filter (fun x => x.1 != g), verified := S.verified, broken := S.broken, poison := S.poison, whole := s.whole.filter (fun x => x != g) }
      ∧ (g ∈ s.whole → g ∉ s.poison → g ∉ S.poison) ∧ counted s.counters S.counters (65 * (g / 64)) (g % 64) ∧ (∀ k, k / 65 ≠ g / 64 → mapGetD S.counters k 0 = mapGetD s.counters k 0)
      ∧ (∀ tree j, s.treeOf g = some (tree, j) → j < 2 ^ 26 → ∀ l, l < 5 → counted s.nodes S.nodes (nodeAt tree (l + 1) (j / 64 ^ (l + 1))) (j / 64 ^ l % 64))
      ∧ ∀ x, x ∈ S.broken ↔ x ∈ s.broken ∧ x ≠ .granule g ∧ x ∉ s.pathOf g)) ∧
  (∀ (s t : State) g, deedAt s t (.fill g) → s.up = true → g ∈ s.whole → step s = .next t) ∧
  (∀ (s t : State) g, deedAt s t (.fill g) → s.up = true → g ∉ s.whole → (∀ e v, mapGet? s.extents e = some (.vf v) → v < 64) → ∃ S, step s = .next S
    ∧ S = { t with verified := S.verified, poison := S.poison }
    ∧ (∀ n, n ∈ S.verified ↔ n ∈ s.verified ∨ (n ∈ s.pathOf g ∧ n ∉ s.broken))
    ∧ ∀ x, x ∈ S.poison ↔ x ∈ s.poison ∨ (x = g ∧ mapGetD s.counters (65 * (g / 64) + g % 64) 0 ≠ 0 ∧ .granule g ∈ s.broken) ∨ ∃ n ∈ s.pathOf g, n ∉ s.verified ∧ n ∈ s.broken ∧ n ∈ s.pathOf x) ∧
  (∀ (s t : State) x, deedAt s t (.harm x) → s.up = true → step s = .next { t with broken := if x ∈ s.broken then s.broken else s.broken ++ [x] }) ∧
  (∀ (s t : State) dev win issuer off bytes, deedAt s t (.peerWrote dev win issuer off bytes) → s.up = true → ∃ S, step s = .next S ∧ S = { t with peerMem := S.peerMem, events := S.events }
    ∧ recorded t S [(peerParty issuer, .at 3, [], bytes.zipIdx.map (fun x => (.peer (64 * dev + win) (off + x.2), x.1)))]
    ∧ (∀ y, memGet (mapGetD S.peerMem (64 * dev + win) []) y = if off ≤ y ∧ y < off + bytes.length then bytes.getD (y - off) 0 else memGet (mapGetD s.peerMem (64 * dev + win) []) y)
    ∧ ∀ k, k ≠ 64 * dev + win → mapGetD S.peerMem k [] = mapGetD s.peerMem k []) ∧
  (∀ (s t : State) x k, deedAt s t (.reorder x k) → s.up = true → ∃ S, step s = .next S ∧ (S = t ∨ S.readsHold = true) ∧ S.events.map (fun e => e.id) = s.events.map (fun e => e.id)) ∧
  (∀ (s t : State) link dev num h, deedAt s t (.releaseIn link dev num h) → s.up = true →
    let cl := field h.toNat 12 7
    let used := mapGetD s.credits (32 * cl + 16 + link) 0
    let here : Prop := link < 16 ∧ link ∉ s.fencedLinks ∧ field h.toNat 24 8 = s.devNum ∧ used < 4
    (¬ here → step s = .next t) ∧
    (here → step s = .next { t with credits := mapPut 0 s.credits (32 * cl + 16 + link) (used + 1)
                                    packets := s.packets ++ [⟨h &&& 0xFF07F000, false, 0, h, 0, [], 16 + link, none, false, 0, 1, 0xFFFF, some (dev, ⟨0, 0, 0, 0⟩), [], some (dev, num)⟩] })) ∧
  (∀ (s t : State) link dev num dst ent ackid l args, deedAt s t (.packetIn link dev num dst ent ackid l args) → s.up = true →
    let cl := field dst.toNat 12 7
    let used := mapGetD s.credits (32 * cl + 16 + link) 0
    let here : Prop := link < 16 ∧ link ∉ s.fencedLinks ∧ field dst.toNat 24 8 = s.devNum ∧ used < 4
    (¬ here → step s = .next t) ∧
    (here → step s = .next { t with credits := mapPut 0 s.credits (32 * cl + 16 + link) (used + 1), packets := s.packets ++ [⟨dst &&& 0xFF07F000, true, ent, 0, 0, args, 16 + link, none, false, 0, 1, ackid, some (dev, l), [], some (dev, num)⟩] })) ∧
  (∀ (s t : State) ackid, deedAt s t (.packetAcked ackid true) → s.up = true →
    ((∀ p ∈ s.packets, ¬(p.place = 2 ∧ p.ackid = ackid)) → step s = .next t) ∧
    (∀ l₁ p l₂, s.packets = l₁ ++ p :: l₂ → p.place = 2 → p.ackid = ackid → (∀ y ∈ l₁, ¬(y.place = 2 ∧ y.ackid = ackid)) →
      ∃ S, step s = .next S ∧ ackDone { t with packets := l₁ ++ l₂ } p.ack S)) ∧
  (∀ (s t : State) ackid l₁ p l₂ ag op lane a x, deedAt s t (.packetAcked ackid false) → s.up = true → s.packets = l₁ ++ p :: l₂ → p.place = 2 → p.ackid = ackid →
    (∀ y ∈ l₁, ¬(y.place = 2 ∧ y.ackid = ackid)) → p.ack = some (ag, op, lane) → t.agent? ag = some a → a.isWave = false → a.ops.find? (fun y => y.id == op) = some x →
      ∃ S, step s = .next S ∧ ackDone (State.setAgent { t with packets := l₁ ++ l₂ } ag { a with traps := a.traps ++ [⟨cTASKERR, 0, lane, x.flag, op, t.time⟩] }) p.ack S) ∧
  (∀ (s t : State) dev cl, deedAt s t (.creditIn dev cl) → s.up = true →
    step s = .next { t with farCredits := mapPut 0 s.farCredits (128 * dev + cl) (mapGetD s.farCredits (128 * dev + cl) 0 - 1) }) ∧
  (∀ (s t : State) rs, deedAt s t (.carried rs) → s.up = true → step s = .next { t with mig := { s.mig with records := rs } }) ∧
  (∀ s : State, s.time ≤ s.tick.time ∧ ∃ as, s.tick = { s with time := s.tick.time, fresh := s.fresh + 1, turns := s.turns + 1, tags := s.tick.tags, idleAt := s.tick.idleAt, disps := s.tick.disps, agents := as, journal := s.tick.journal }
    ∧ s.journal <+: s.tick.journal ∧ (s.up = true → ∀ v x, mapGet? s.vfs v = some x → x.enabled = true → ∃ l₁ n l₂ told, s.tick.journal = l₁ ++ (n, .vfTime v told) :: l₂
        ∧ (∀ y ∈ l₂, ∀ z, y.2 ≠ .vfTime v z) ∧ told ≤ s.tick.vfTime v ∧ s.tick.vfTime v < told + 2 ^ 20)
    ∧ ∀ id a, s.agent? id = some a → let n := s.tick.time - s.time
        ∃ x, mapGet? as id = some x ∧ x = { a with wdc := x.wdc, cyc := a.cyc + n * (12 + (s.chiplet (a.cluster / 16)).level), tokenWait := x.tokenWait, slotA := x.slotA, slotB := x.slotB, stack := x.stack }
          ∧ x.slotA.path = a.slotA.path ∧ x.slotB.path = a.slotB.path ∧ x.wdc = (if s.watched id a then a.wdc + n else a.wdc) ∧ a.tokenWait ≤ x.tokenWait)

/-- Every step keeps tenant memory and host memory in their canonical form: addresses strictly rising, no byte listed that an unlisted address reads as. That memory is such a list, and what an unlisted byte reads as, is the model's (log 4), with what R384 and R387 say of bytes that nothing has written. -/
def Obligations.EveryStepKeepsMemoryCanonical : Prop := ∀ s t : State, s.memoryOk → step s = .next t → t.memoryOk

/-- After reset every VF is disabled and owns nothing, every compute chiplet runs at 0.60 GHz without a vote, the time base is at 0, nothing runs, and memory is in canonical form (R428; the values R428 does not give are those of logs 4 and 21). -/
def Obligations.ResetLeavesNothingEnabled : Prop :=
  (∀ v, (State.reset.vf v).enabled = false ∧ (State.reset.vf v).extents = [] ∧ ∀ cl, State.reset.part cl v = ⟨0, [], 0⟩) ∧
  (∀ c, (State.reset.chiplet c).level = 0 ∧ (State.reset.chiplet c).votes = []) ∧
  State.reset.time = 0 ∧ State.reset.agents = [] ∧ State.reset.launches = [] ∧ State.reset.cur = none ∧ State.reset.memoryOk

/-- Decoding gives back every well-formed instruction that is encoded, with every operand, whatever follows it; and a word has one meaning: encoding what was decoded gives the same parcels (R71, R74, R83, R92, R97). -/
def Obligations.DecodingInvertsEncoding : Prop :=
  (∀ i : Instr, i.wf = true → encode i ≠ [] → ∀ rest, decodeWords (encode i ++ rest) = some i) ∧
  (∀ p i, decodeHeader p = some i → encode i = [p]) ∧
  (∀ p0 p1 p2 i, decodeBody p0 p1 p2 = some i → encode i = [p0, p1, p2].take (lengthOf p0))

/-- Worked words of the spec decode to the instructions they are written for: one of each family, its fields as the examples of R74, R83, R91 and R92 give them. -/
def Obligations.WorkedEncodingsDecode : Prop :=
  decodeWords [0x00FC4007] = some (.clause ⟨false, 3, 15, 1, 1⟩) ∧
  decodeWords [0x8041008D, 0x008000C0] = some (.fmaFp (plainOps 0x08 4 (.vec 1) (.vec 2) 3)) ∧
  decodeWords [0x01020201, 0x80024010] = some (.ldB32 (plainOps 0 8 (.scal 4) (.imm 0x40) 0)) ∧
  decodeWords [0xD0809018] = some (.addI32SImm ⟨⟨0, false⟩, 9, 8, 13⟩) ∧
  decodeWords [0x014081C1, 0x00A20000] = some (.setp (plainOps 0x0A 2 (.vec 5) (.imm 0) 0)) ∧
  decodeWords [0xC14181C5, 0x09800281] = some (.sel (plainOps 0x98 6 (.vec 5) (.vec 7) 0x0A)) ∧
  decodeWords [0x01028281, 0x844202C0] = some (.atomAddInt (plainOps 0x44 10 (.vec 4) (.imm 0) 11)) ∧
  decodeWords [0x00040742, 0, 0x38] = some (.bra { plainOps 0 16 (.vec 0) (.vec 0) 0 with g := ⟨1, false⟩, lit := some 0x38 }) ∧
  decodeWords [0x02000301, 0x82204000] = some (.mma (plainOps 0x22 0 (.scal 8) (.vec 0) 0)) ∧
  decodeWords [0x004002B9, 0x00008000] = some (.bar (plainOps 0 0 (.imm 1) (.vec 0) 0)) ∧
  decodeWords [0x01000251, 0x00024148] = some (.ringOpen (plainOps 0 0 (.scal 4) (.imm 32) 5)) ∧
  decodeWords [0x060002CD, 0xC0004000] = some (.sisect { plainOps 0 0 (.scal 24) (.vec 0) 0 with fs := true }) ∧
  decodeWords [0x000A0261, 0x00080140] = some (.ringTake { plainOps 0 0x28 (.vec 0) (.vec 0) 5 with kd := true }) ∧
  decodeWords [0x02028385, 0x00020400] = some (.spawn (plainOps 0 10 (.vec 8) (.imm 0) 16)) ∧
  decodeWords [0x0B00038D, 0xC0120000] = some (.depDec { plainOps 1 0 (.vec 44) (.imm 0) 0 with fs := true }) ∧
  decodeWords [0x09000312, 0x80844700, 0x6000] = some (.accWr { plainOps 8 0 (.scal 36) (.vec 0) 28 with kc := true, lit := some 0x6000 })
end

