-- ==== Sys2Proof/Laws/Maps.lean ====
section
/-! SUPPORT. The laws of maps from numbers: an entry read after it is written or erased, for every list; and the canonical form kept. -/

namespace Sys2Proof.Machine

variable {α : Type}

theorem mapGet?_mapSet (m : NMap α) (k j : Nat) (v : α) : mapGet? (mapSet m k v) j = if j = k then some v else mapGet? m j := by
  induction m with
  | nil => simp only [mapSet, mapGet?]; grind
  | cons x r ih => obtain ⟨i, w⟩ := x; simp only [mapSet]; grind [mapGet?]

theorem mapGet?_dropWhile (r : NMap α) (k j : Nat) (h : k < j) :
    mapGet? (r.dropWhile (fun x => decide (x.1 ≤ k))) j = mapGet? r j := by
  induction r with
  | nil => rfl
  | cons x r ih => obtain ⟨i, w⟩ := x; simp only [List.dropWhile_cons, mapGet?]; grind [mapGet?]

theorem mapGet?_dropWhile_none (r : NMap α) (k j : Nat) (h : j ≤ k) :
    mapGet? (r.dropWhile (fun x => decide (x.1 ≤ k))) j = none := by
  induction r with
  | nil => rfl
  | cons x r ih => obtain ⟨i, w⟩ := x; simp only [List.dropWhile_cons]; grind [mapGet?]

theorem mapGet?_mapErase (m : NMap α) (k j : Nat) : mapGet? (mapErase m k) j = if j = k then none else mapGet? m j := by
  induction m with
  | nil => simp [mapErase, mapGet?]
  | cons x r ih =>
    obtain ⟨i, w⟩ := x
    have h1 := mapGet?_dropWhile r k j
    have h2 := mapGet?_dropWhile_none r k j
    simp only [mapErase]; grind [mapGet?]

@[simp] theorem mapGet?_mapSet_same (m : NMap α) (k : Nat) (v : α) : mapGet? (mapSet m k v) k = some v := by simp [mapGet?_mapSet]
@[simp] theorem mapGet?_mapErase_same (m : NMap α) (k : Nat) : mapGet? (mapErase m k) k = none := by simp [mapGet?_mapErase]

theorem mapGetD_mapPut [DecidableEq α] (d : α) (m : NMap α) (k j : Nat) (v : α) :
    mapGetD (mapPut d m k v) j d = if j = k then v else mapGetD m j d := by
  unfold mapGetD mapPut; split <;> simp [mapGet?_mapSet, mapGet?_mapErase] <;> split <;> simp_all

theorem mapGetD_mapSet (d : α) (m : NMap α) (k j : Nat) (v : α) :
    mapGetD (mapSet m k v) j d = if j = k then v else mapGetD m j d := by
  unfold mapGetD; simp only [mapGet?_mapSet]; split <;> simp

theorem mapGet?_mapMod (m : NMap α) (k j : Nat) (f : α → α) :
    mapGet? (mapMod m k f) j = if j = k then (mapGet? m k).map f else mapGet? m j := by
  unfold mapMod; split <;> simp_all [mapGet?_mapSet]

/-! The canonical form. -/

theorem keysFrom_mono {lo lo' : Nat} (m : NMap α) (h : lo' ≤ lo) (w : keysFrom lo m = true) : keysFrom lo' m = true := by
  cases m with
  | nil => rfl
  | cons x r => simp only [keysFrom, Bool.and_eq_true, decide_eq_true_eq] at *; exact ⟨by omega, w.2⟩

theorem keysFrom_mapSet {lo : Nat} (m : NMap α) (k : Nat) (v : α) (hk : lo ≤ k) (w : keysFrom lo m = true) :
    keysFrom lo (mapSet m k v) = true := by
  induction m generalizing lo with
  | nil => simp [mapSet, keysFrom, hk]
  | cons x r ih =>
    obtain ⟨i, u⟩ := x
    simp only [keysFrom, Bool.and_eq_true, decide_eq_true_eq] at w
    simp only [mapSet]; split
    · simp [keysFrom, hk, w.2]; omega
    · split
      · simp [keysFrom, hk]; simp_all
      · simp only [keysFrom, Bool.and_eq_true, decide_eq_true_eq]; exact ⟨w.1, ih (by omega) w.2⟩

theorem keysFrom_dropWhile {lo : Nat} (m : NMap α) (p : Nat × α → Bool) (w : keysFrom lo m = true) : keysFrom lo (m.dropWhile p) = true := by
  induction m generalizing lo with
  | nil => rfl
  | cons x r ih =>
    simp only [List.dropWhile_cons]; split
    · simp only [keysFrom, Bool.and_eq_true, decide_eq_true_eq] at w
      exact keysFrom_mono _ (by omega) (ih w.2)
    · exact w

theorem keysFrom_mapErase {lo : Nat} (m : NMap α) (k : Nat) (w : keysFrom lo m = true) : keysFrom lo (mapErase m k) = true := by
  induction m generalizing lo with
  | nil => rfl
  | cons x r ih =>
    obtain ⟨i, u⟩ := x
    have w0 := w
    simp only [keysFrom, Bool.and_eq_true, decide_eq_true_eq] at w
    simp only [mapErase]; split
    · exact w0
    · split
      · exact keysFrom_mono _ (by omega) (keysFrom_dropWhile _ _ w.2)
      · simp only [keysFrom, Bool.and_eq_true, decide_eq_true_eq]; exact ⟨w.1, ih w.2⟩

theorem keysFrom_filter {lo : Nat} (m : NMap α) (p : Nat × α → Bool) (w : keysFrom lo m = true) : keysFrom lo (m.filter p) = true := by
  induction m generalizing lo with
  | nil => rfl
  | cons x r ih =>
    simp only [keysFrom, Bool.and_eq_true, decide_eq_true_eq] at w
    simp only [List.filter_cons]; split
    · simp only [keysFrom, Bool.and_eq_true, decide_eq_true_eq]; exact ⟨w.1, ih w.2⟩
    · exact keysFrom_mono _ (by omega) (ih w.2)

theorem mapWf_mapSet (m : NMap α) (k : Nat) (v : α) (w : mapWf m = true) : mapWf (mapSet m k v) = true := keysFrom_mapSet m k v (Nat.zero_le _) w
theorem mapWf_mapErase (m : NMap α) (k : Nat) (w : mapWf m = true) : mapWf (mapErase m k) = true := keysFrom_mapErase m k w
theorem mapWf_mapPut [DecidableEq α] (d : α) (m : NMap α) (k : Nat) (v : α) (w : mapWf m = true) : mapWf (mapPut d m k v) = true := by
  unfold mapPut; split
  · exact mapWf_mapErase m k w
  · exact mapWf_mapSet m k v w

theorem mem_dropWhile {β : Type} (m : List β) (p : β → Bool) (x : β) (h : x ∈ m.dropWhile p) : x ∈ m :=
  (List.dropWhile_sublist p).mem h

theorem mem_mapErase (m : NMap α) (k : Nat) (x : Nat × α) (h : x ∈ mapErase m k) : x ∈ m := by
  induction m with
  | nil => exact h
  | cons y r ih =>
    obtain ⟨i, u⟩ := y
    simp only [mapErase] at h; split at h
    · exact h
    · split at h
      · exact List.mem_cons_of_mem _ (mem_dropWhile _ _ _ h)
      · simp only [List.mem_cons] at h ⊢; exact h.imp id ih

theorem mem_mapSet (m : NMap α) (k : Nat) (v : α) (x : Nat × α) (h : x ∈ mapSet m k v) : x = (k, v) ∨ x ∈ m := by
  induction m with
  | nil => simpa [mapSet] using h
  | cons y r ih =>
    obtain ⟨i, u⟩ := y
    simp only [mapSet] at h; split at h
    · simpa using h
    · split at h
      · simp only [List.mem_cons] at h ⊢; grind
      · simp only [List.mem_cons] at h ⊢; grind

end Sys2Proof.Machine
end

