-- ==== Sys2Proof/Laws/Ops.lean ====
section
/-! SUPPORT. What the shared operations on agents can do: registers, where paths go, and the frames of synchronous instructions. -/

namespace Sys2Proof.Machine

/-! Registers. -/

@[simp] theorem Agent.setV_nregs (a : Agent) (r L : Nat) (x : Word) : (a.setV r L x).nregs = a.nregs := by unfold Agent.setV; split <;> rfl

theorem Agent.setV_eq (a : Agent) (r L : Nat) (x : Word) : a.setV r L x = { a with vregs := (a.setV r L x).vregs } := by
  unfold Agent.setV; split <;> rfl

/-- A vector register read after a write: the write is discarded at or above the allocation (R48). -/
theorem Agent.v_setV (a : Agent) (r L q M : Nat) (x : Word) (hL : L < 64) (hM : M < 64) :
    (a.setV r L x).v q M = if q = r ∧ M = L ∧ r < a.nregs then x else a.v q M := by
  unfold Agent.v
  rw [Agent.setV_nregs]
  unfold Agent.setV
  by_cases h : r < a.nregs
  · simp only [h, if_true, mapGetD_mapPut]
    have : 64 * q + M = 64 * r + L ↔ q = r ∧ M = L := by omega
    by_cases h2 : q = r ∧ M = L
    · simp [h2, h]
    · simp only [this, h2]; simp [h2]
  · simp only [h, if_false]; grind

theorem Agent.setVN_eq (a : Agent) (r L n x : Nat) : a.setVN r L n x = { a with vregs := (a.setVN r L n x).vregs } := by
  induction n generalizing a r x with
  | zero => rfl
  | succ n ih =>
    simp only [Agent.setVN]
    rw [ih]; rw [Agent.setV_eq]

theorem Agent.setVN_nregs (a : Agent) (r L n x : Nat) : (a.setVN r L n x).nregs = a.nregs := by
  rw [Agent.setVN_eq]

theorem wordAt_succ (x k : Nat) : wordAt (x / 2 ^ 32) k = wordAt x (k + 1) := by
  unfold wordAt; rw [Nat.div_div_eq_div_mul, ← Nat.pow_add]; congr 3; omega

/-- Registers read after n of them are written. -/
theorem Agent.v_setVN (a : Agent) (r L n x q M : Nat) (hL : L < 64) (hM : M < 64) :
    (a.setVN r L n x).v q M = if M = L ∧ r ≤ q ∧ q < r + n ∧ q < a.nregs then wordAt x (q - r) else a.v q M := by
  induction n generalizing a r x with
  | zero => simp only [Agent.setVN]; split <;> first | omega | rfl
  | succ n ih =>
    simp only [Agent.setVN, ih, Agent.setV_nregs, Agent.v_setV _ _ _ _ _ _ hL hM, wordAt_succ]
    by_cases h : q = r
    · subst h
      have h1 : ¬(M = L ∧ q + 1 ≤ q ∧ q < q + 1 + n ∧ q < a.nregs) := by omega
      simp only [h1, if_false]
      by_cases h2 : M = L ∧ q < a.nregs
      · simp [h2, wordAt]
      · grind
    · by_cases h2 : M = L ∧ r + 1 ≤ q ∧ q < r + 1 + n ∧ q < a.nregs
      · have e : q - (r + 1) + 1 = q - r := by omega
        have h3 : M = L ∧ r ≤ q ∧ q < r + (n + 1) ∧ q < a.nregs := by omega
        simp only [h2, h3, if_true, and_self, e]
      · have h3 : ¬(M = L ∧ r ≤ q ∧ q < r + (n + 1) ∧ q < a.nregs) := by omega
        simp only [h2, h3, h, if_false, false_and]

/-! Where paths go. -/

theorem Agent.onlyMoved_refl (a : Agent) : a.onlyMoved a := rfl

theorem Agent.onlyMoved_trans {a b c : Agent} (h : a.onlyMoved b) (k : b.onlyMoved c) : a.onlyMoved c := by
  unfold Agent.onlyMoved at *; rw [k, h]

theorem Agent.onlyMoved_setSlot (a : Agent) (b : Bool) (x : Slot) : a.onlyMoved (a.setSlot b x) := by cases b <;> rfl
theorem Agent.onlyMoved_setPath (a : Agent) (b : Bool) (p : Option Path) : a.onlyMoved (a.setPath b p) := a.onlyMoved_setSlot b _
theorem Agent.onlyMoved_take (a : Agent) (b : Bool) (p : Path) (w : Wait) (st : Bool) (r : Nat) : a.onlyMoved (a.take b p w st r) := a.onlyMoved_setSlot b _
theorem Agent.onlyMoved_endPath (a : Agent) (j : Jix) : a.onlyMoved (a.endPath j) := by cases j <;> rfl
theorem Agent.onlyMoved_stack (a : Agent) (st : List Entry) : a.onlyMoved { a with stack := st } := rfl

theorem Agent.onlyMoved_complete (a : Agent) (i r : Nat) : a.onlyMoved (a.complete i r) := by
  unfold Agent.complete; split
  · exact a.onlyMoved_refl
  · dsimp only; split
    · exact Agent.onlyMoved_trans (a.onlyMoved_stack _) (Agent.onlyMoved_endPath _ _)
    · split
      · exact Agent.onlyMoved_trans (a.onlyMoved_stack _) (Agent.onlyMoved_take _ _ _ _ _ _)
      · exact a.onlyMoved_stack _

theorem Agent.onlyMoved_settle1 (a a' : Agent) (r : Nat) (h : a.settle1 r = some a') : a.onlyMoved a' := by
  unfold Agent.settle1 at h
  split at h
  · cases h; exact Agent.onlyMoved_trans (a.onlyMoved_setPath _ _) (Agent.onlyMoved_endPath _ _)
  split at h
  · cases h; exact Agent.onlyMoved_trans (a.onlyMoved_setPath _ _) (Agent.onlyMoved_endPath _ _)
  split at h
  · cases h; exact a.onlyMoved_complete _ _
  split at h
  · cases h; exact Agent.onlyMoved_trans (a.onlyMoved_stack _) (Agent.onlyMoved_endPath _ _)
  split at h
  · split at h
    · cases h; exact Agent.onlyMoved_trans (a.onlyMoved_stack _) (Agent.onlyMoved_take _ _ _ _ _ _)
    · cases h
  · cases h

/-- Where paths go, nothing else of the agent changes. -/
theorem Agent.onlyMoved_settle (a : Agent) (r fuel : Nat) : a.onlyMoved (a.settle r fuel) := by
  induction fuel generalizing a with
  | zero => exact a.onlyMoved_refl
  | succ n ih =>
    simp only [Agent.settle]; split
    · exact Agent.onlyMoved_trans (a.onlyMoved_settle1 _ _ ‹_›) (ih _)
    · exact a.onlyMoved_refl

/-- A stack whose records are records of another, at the same places and positions. -/
def stackLe (x y : List Entry) : Prop :=
  ∀ (i : Nat) (e : Entry), x[i]? = some e → (e.kind = .join ∨ e.kind = .call) → ∃ f : Entry, y[i]? = some f ∧ f.kind = e.kind ∧ f.pos.hdr = e.pos.hdr

theorem stackLe_refl (x : List Entry) : stackLe x x := fun _ e h _ => ⟨e, h, rfl, rfl⟩
theorem stackLe_trans {x y z : List Entry} (h : stackLe x y) (k : stackLe y z) : stackLe x z := by
  intro i e he hk
  obtain ⟨f, hf, fk, fp⟩ := h i e he hk
  obtain ⟨g, hg, gk, gp⟩ := k i f hf (by rw [fk]; exact hk)
  exact ⟨g, hg, gk.trans fk, gp.trans fp⟩

theorem stackLe_modEntry (st : List Entry) (i : Nat) (f : Entry → Entry)
    (hf : ∀ e, ((f e).kind = .join ∨ (f e).kind = .call) → e.kind = (f e).kind ∧ e.pos.hdr = (f e).pos.hdr) : stackLe (modEntry st i f) st := by
  intro j e he hk
  simp only [modEntry, List.getElem?_modify] at he
  cases h : st[j]? with
  | none => simp [h] at he
  | some g =>
    simp only [h, Option.map_eq_map, Option.map_some, Option.some.injEq] at he
    by_cases hij : i = j
    · simp only [hij, if_true] at he; subst he; exact ⟨g, rfl, hf g hk⟩
    · simp only [hij, if_false] at he; subst he; exact ⟨_, rfl, rfl, rfl⟩

theorem stackLe_trimStack (st : List Entry) : stackLe (trimStack st) st := by
  intro i e he _
  have hp : trimStack st <+: st := by
    unfold trimStack
    have := (List.dropWhile_suffix (fun e : Entry => e.kind == EntryKind.retired) (l := st.reverse))
    simpa using List.reverse_prefix.mpr this
  obtain ⟨r, hr⟩ := hp
  refine ⟨e, ?_, rfl, rfl⟩
  rw [← hr]
  rw [List.getElem?_append_left (by exact (List.getElem?_eq_some_iff.mp he).1)]
  exact he

theorem Agent.arrives_le {a a' : Agent} (p : Path) (h : stackLe a'.stack a.stack) (w : a.arrives p = false) : a'.arrives p = false := by
  unfold Agent.arrives at *
  split <;> try rfl
  rename_i i _
  split
  · rename_i e he
    by_cases hk : e.kind = .join ∨ e.kind = .call
    · obtain ⟨f, hf, fk, fp⟩ := h i e he hk
      simp only [*] at w; first | exact w | (rw [← fk, ← fp]; exact w)
    · have : (e.kind == .join || e.kind == .call) = false := by simpa using hk
      simp [this]
  · rfl

/-- A slot that holds a path which does not arrive. -/
def Agent.keepsSlot (a : Agent) (b : Bool) (x : Slot) (p : Path) : Prop := a.slot b = x ∧ x.path = some p ∧ a.arrives p = false

theorem Agent.slot_setSlot_same (a : Agent) (b : Bool) (x : Slot) : (a.setSlot b x).slot b = x := by cases b <;> rfl
theorem Agent.slot_setSlot_other (a : Agent) (b c : Bool) (x : Slot) (h : b ≠ c) : (a.setSlot b x).slot c = a.slot c := by
  cases b <;> cases c <;> first | rfl | exact absurd rfl h
theorem Agent.stack_setSlot (a : Agent) (b : Bool) (x : Slot) : (a.setSlot b x).stack = a.stack := by cases b <;> rfl
theorem Agent.slot_endPath (a : Agent) (j : Jix) (b : Bool) : (a.endPath j).slot b = a.slot b := by cases j <;> rfl
theorem Agent.stackLe_endPath (a : Agent) (j : Jix) : stackLe (a.endPath j).stack a.stack := by
  cases j <;> first | exact stackLe_refl _ | exact stackLe_modEntry _ _ _ (fun e _ => ⟨rfl, rfl⟩)

theorem Agent.keepsSlot_endPath {a : Agent} {b : Bool} {x : Slot} {p : Path} (j : Jix) (h : a.keepsSlot b x p) : (a.endPath j).keepsSlot b x p :=
  ⟨by rw [Agent.slot_endPath]; exact h.1, h.2.1, Agent.arrives_le p (a.stackLe_endPath j) h.2.2⟩
theorem Agent.keepsSlot_setSlot {a : Agent} {b c : Bool} {x : Slot} {p : Path} (y : Slot) (hc : c ≠ b) (h : a.keepsSlot b x p) : (a.setSlot c y).keepsSlot b x p :=
  ⟨by rw [Agent.slot_setSlot_other _ _ _ _ hc]; exact h.1, h.2.1, Agent.arrives_le p (by rw [Agent.stack_setSlot]; exact stackLe_refl _) h.2.2⟩
theorem Agent.keepsSlot_stack {a : Agent} {b : Bool} {x : Slot} {p : Path} (st : List Entry) (hs : stackLe st a.stack) (h : a.keepsSlot b x p) :
    ({ a with stack := st } : Agent).keepsSlot b x p :=
  ⟨by cases b <;> exact h.1, h.2.1, Agent.arrives_le p hs h.2.2⟩

theorem stackLe_retire (st : List Entry) (i : Nat) : stackLe (modEntry st i Entry.retire) st :=
  stackLe_modEntry _ _ _ (fun e h => by simp [Entry.retire] at h)
theorem stackLe_trim_retire (st : List Entry) (i : Nat) : stackLe (trimStack (modEntry st i Entry.retire)) st :=
  stackLe_trans (stackLe_trimStack _) (stackLe_retire _ _)

theorem Agent.freeSlot_ne {a : Agent} {b c : Bool} {p : Path} (h : a.freeSlot = some c) (k : (a.slot b).path = some p) : c ≠ b := by
  unfold Agent.freeSlot at h; rintro rfl
  cases c <;> simp_all [Agent.slot]

theorem Agent.keepsSlot_complete {a : Agent} {b : Bool} {x : Slot} {p : Path} (i r : Nat) (h : a.keepsSlot b x p) : (a.complete i r).keepsSlot b x p := by
  unfold Agent.complete; split
  · exact h
  · dsimp only; split
    · exact Agent.keepsSlot_endPath _ (Agent.keepsSlot_stack _ (stackLe_trim_retire _ _) h)
    · split
      · rename_i c hc
        exact Agent.keepsSlot_setSlot _ (Agent.freeSlot_ne hc (h.1 ▸ h.2.1)) (Agent.keepsSlot_stack _ (stackLe_trim_retire _ _) h)
      · exact Agent.keepsSlot_stack _ (stackLe_modEntry _ _ _ (fun e h => by simp at h)) h

theorem Agent.ends_ne {a : Agent} {b c : Bool} {x : Slot} {p : Path} {j : Jix} (hm : p.mask ≠ 0) (h : a.keepsSlot b x p) (k : a.ends c = some j) : c ≠ b := by
  rintro rfl
  unfold Agent.ends at k
  rw [h.1, h.2.1] at k
  simp [h.2.2] at k; exact hm k.1

theorem Agent.keepsSlot_settle1 {a a' : Agent} {b : Bool} {x : Slot} {p : Path} (r : Nat) (hm : p.mask ≠ 0) (h : a.keepsSlot b x p)
    (k : a.settle1 r = some a') : a'.keepsSlot b x p := by
  unfold Agent.settle1 at k
  split at k
  · cases k; exact Agent.keepsSlot_endPath _ (Agent.keepsSlot_setSlot _ (Agent.ends_ne hm h ‹_›) h)
  split at k
  · cases k; exact Agent.keepsSlot_endPath _ (Agent.keepsSlot_setSlot _ (Agent.ends_ne hm h ‹_›) h)
  split at k
  · cases k; exact Agent.keepsSlot_complete _ _ h
  split at k
  · cases k; exact Agent.keepsSlot_endPath _ (Agent.keepsSlot_stack _ (stackLe_trim_retire _ _) h)
  split at k
  · split at k
    · cases k
      exact Agent.keepsSlot_setSlot _ (Agent.freeSlot_ne ‹_› (h.1 ▸ h.2.1)) (Agent.keepsSlot_stack _ (stackLe_trim_retire _ _) h)
    · cases k
  · cases k

theorem Agent.keepsSlot_settle {a : Agent} {b : Bool} {x : Slot} {p : Path} (r fuel : Nat) (hm : p.mask ≠ 0) (h : a.keepsSlot b x p) :
    (a.settle r fuel).keepsSlot b x p := by
  induction fuel generalizing a with
  | zero => exact h
  | succ n ih =>
    simp only [Agent.settle]; split
    · exact ih (Agent.keepsSlot_settle1 r hm h ‹_›)
    · exact h

/-! Finishing an instruction. -/

theorem State.running_spec {s : State} {id : Nat} {b : Bool} {a : Agent} {p : Path} (h : s.running = some (id, b, a, p)) :
    s.cur = some ⟨id, b⟩ ∧ s.agent? id = some a ∧ (a.slot b).path = some p := by
  unfold State.running at h
  split at h
  · cases h
  · split at h
    · cases h
    · split at h
      · cases h
      · simp only [Option.some.injEq, Prod.mk.injEq] at h
        obtain ⟨rfl, rfl, rfl, rfl⟩ := h
        exact ⟨‹_›, ‹_›, ‹_›⟩

theorem State.onPath_running {s : State} {id : Nat} {b : Bool} {a : Agent} {p : Path} (k : Nat → Bool → Agent → Path → Host.Outcome State Fault Refusal)
    (h : s.running = some (id, b, a, p)) : s.onPath k = k id b a p := by
  unfold State.onPath; rw [h]

theorem Agent.arrives_congr {a a' : Agent} (p : Path) (h : a'.stack = a.stack) : a'.arrives p = a.arrives p := by
  unfold Agent.arrives; rw [h]

/-- What finishing an instruction does to an agent c whose path stands in the slot: it is counted, its registers stay, and its path moves past the instruction. -/
theorem State.finish_spec (s : State) (id : Nat) (b : Bool) (i : Instr) (c : Agent) (p : Path) (hp : (c.slot b).path = some p) :
    ∃ a', s.finish id b i c = s.setAgent id a' ∧
      a' = { c with insn := c.insn + 1, wdc := 0, bankWait := c.bankWait + Config.bankGap s.fresh, slotA := a'.slotA, slotB := a'.slotB, stack := a'.stack }
      ∧ c.movedPast b p i a' := by
  have hp' : ((c.issued s).slot b).path = some p := by cases b <;> exact hp
  refine ⟨(((c.issued s).setPath b (some (p.past (instrBytes i)))).settle s.tail ((c.issued s).setPath b (some (p.past (instrBytes i)))).settleFuel), ?_, ?_, ?_⟩
  · unfold State.finish; dsimp only; rw [hp']; rfl
  · have h := Agent.onlyMoved_trans ((c.issued s).onlyMoved_setPath b (some (p.past (instrBytes i)))) (Agent.onlyMoved_settle _ s.tail ((c.issued s).setPath b (some (p.past (instrBytes i)))).settleFuel)
    unfold Agent.onlyMoved at h; exact h
  · intro hm ha
    refine (Agent.keepsSlot_settle _ _ (by unfold Path.past; split; exact hm; split <;> exact hm) ⟨?_, rfl, ?_⟩).1
    · unfold Agent.setPath; rw [Agent.slot_setSlot_same]; cases b <;> rfl
    · rw [Agent.arrives_congr (a := c)]; exact ha
      unfold Agent.setPath; rw [Agent.stack_setSlot]; rfl

end Sys2Proof.Machine
end

