-- ==== Sys2Proof/Laws/Alu.lean ====
section
/-! SUPPORT. What the shared frames of synchronous instructions answer: a result per active lane, a predicate, or one result for the warp. -/

namespace Sys2Proof.Machine

theorem mem_lanesOf (m : Mask) (L : Nat) : L ∈ lanesOf m ↔ L < 64 ∧ m.getLsbD L = true := by simp [lanesOf]
theorem nodup_lanesOf (m : Mask) : (lanesOf m).Nodup := (List.nodup_range).filter _

@[simp] theorem Agent.account_vregs (a : Agent) (s : State) (i : Instr) : (a.account s i).vregs = a.vregs := rfl
@[simp] theorem Agent.account_nregs (a : Agent) (s : State) (i : Instr) : (a.account s i).nregs = a.nregs := rfl
@[simp] theorem Agent.account_fpc (a : Agent) (s : State) (i : Instr) : (a.account s i).fpc = a.fpc := rfl
@[simp] theorem Agent.account_slot (a : Agent) (s : State) (i : Instr) (b : Bool) : (a.account s i).slot b = a.slot b := rfl

/-- One lane's result written. -/
def Agent.writeLane (a : Agent) (d n : Nat) (L : Nat) (r : Res) : Agent := (a.setVN d L n r.1).raise r.2

theorem Agent.writeLane_eq (a : Agent) (d n L : Nat) (r : Res) :
    a.writeLane d n L r = { a with vregs := (a.writeLane d n L r).vregs, fpc := a.fpc ||| r.2.zeroExtend 32 } := by
  unfold Agent.writeLane Agent.raise; rw [Agent.setVN_eq]
theorem Agent.writeLane_v (a : Agent) (d n L : Nat) (r : Res) (q M : Nat) :
    (a.writeLane d n L r).v q M = (a.setVN d L n r.1).v q M := rfl

/-- The lanes of a list, each once, written in turn. -/
theorem writeLanes_spec (d n : Nat) (f : Nat → Res) (ls : List Nat) (hn : ls.Nodup) (hb : ∀ L ∈ ls, L < 64) (a : Agent) :
    let a' := ls.foldl (fun x L => x.writeLane d n L (f L)) a
    a' = { a with vregs := a'.vregs, fpc := a'.fpc }
      ∧ a'.fpc = a.fpc ||| (ls.foldl (fun x L => x ||| (f L).2) (0 : FFlags)).zeroExtend 32
      ∧ ∀ q M, M < 64 → a'.v q M = if M ∈ ls ∧ d ≤ q ∧ q < d + n ∧ q < a.nregs then wordAt (f M).1 (q - d) else a.v q M := by
  induction ls generalizing a with
  | nil => simp
  | cons L r ih =>
    have hL : L < 64 := hb L (by simp)
    obtain ⟨h1, h2, h3⟩ := ih (List.nodup_cons.mp hn).2 (fun M hM => hb M (by simp [hM])) (a.writeLane d n L (f L))
    have e := a.writeLane_eq d n L (f L)
    have en : (a.writeLane d n L (f L)).nregs = a.nregs := by rw [e]
    have ef : (a.writeLane d n L (f L)).fpc = a.fpc ||| (f L).2.zeroExtend 32 := by rw [e]
    simp only [List.foldl_cons]
    refine ⟨?_, ?_, ?_⟩
    · rw [h1]; rw [e]
    · rw [h2, ef]
      have key : ∀ (l : List Nat) (x : FFlags), l.foldl (fun x L => x ||| (f L).2) x = x ||| l.foldl (fun x L => x ||| (f L).2) (0 : FFlags) := by
        intro l; induction l with
        | nil => simp
        | cons y l ih => intro x; simp only [List.foldl_cons]; rw [ih, ih (0 ||| _)]; ext i; simp [Bool.or_assoc]
      rw [key r (0 ||| _)]; ext i; simp; grind
    · intro q M hM
      rw [h3 q M hM, en, Agent.writeLane_v, Agent.v_setVN _ _ _ _ _ _ _ hL hM]
      have hr : L ∉ r := (List.nodup_cons.mp hn).1
      by_cases hML : M = L
      · subst hML; simp [hr]
      · simp [hML]

/-- What a synchronous vector instruction with some active lane answers. -/
theorem vecOp_spec (i : Instr) (o : MOps) (n : Nat) (f : State → Agent → Nat → Res) {s : State} {id : Nat} {b : Bool} {a : Agent} {p : Path}
    (h : s.running = some (id, b, a, p)) (ha : a.active p o.g ≠ 0) :
    ∃ a', vecOp i o n f s = .next (s.setAgent id a') ∧ (a.account s i).counted s a' ∧ (a.account s i).movedPast b p i a'
      ∧ a.vWritten (a.active p o.g) o.d.toNat n (fun L => (f s a L).1) a'
      ∧ a'.fpc = a.fpc ||| (flagsOver (a.active p o.g) (fun L => (f s a L).2)).zeroExtend 32
      ∧ a'.sregs = a.sregs ∧ a'.preds = a.preds := by
  obtain ⟨_, _, hp⟩ := State.running_spec h
  have hw := writeLanes_spec o.d.toNat n (fun L => f s a L) (lanesOf (a.active p o.g)) (nodup_lanesOf _) (fun L hL => ((mem_lanesOf _ _).mp hL).1) (a.account s i)
  generalize hc : (lanesOf (a.active p o.g)).foldl (fun x L => x.writeLane o.d.toNat n L (f s a L)) (a.account s i) = c at hw
  obtain ⟨h1, h2, h3⟩ := hw
  have hcp : (c.slot b).path = some p := by rw [h1]; cases b <;> exact hp
  obtain ⟨a', e, ea, em⟩ := State.finish_spec s id b i c p hcp
  refine ⟨a', ?_, ?_, ?_, ?_, ?_, ?_, ?_⟩
  · unfold vecOp; rw [State.onPath_running _ h]
    simp only [ha, if_false, List.foldl_map]
    rw [← e, ← hc]; rfl
  · unfold Agent.counted; rw [ea, h1]
  · intro hm har; rw [em hm (by rw [Agent.arrives_congr (a := a.account s i)]; exact har; rw [h1]), show c.slot b = (a.account s i).slot b by rw [h1]; cases b <;> rfl]
  · have hv : ∀ q M, a'.v q M = c.v q M := by intro q M; rw [ea]; rfl
    constructor
    · intro L k hL hk hn
      rw [hv, h3 _ _ hL]
      by_cases hr : o.d.toNat + k < a.nregs
      · simp [mem_lanesOf, hL, hk, hn, hr]
      · have : ∀ x : Agent, x.nregs = a.nregs → x.v (o.d.toNat + k) L = 0 := by intro x hx; unfold Agent.v; rw [hx]; simp [hr]
        simp [hr]; exact this _ rfl
    · intro L r hL hr
      rw [hv, h3 _ _ hL]
      have : ¬ (L ∈ lanesOf (a.active p o.g) ∧ o.d.toNat ≤ r ∧ r < o.d.toNat + n ∧ r < (a.account s i).nregs) := by
        rw [mem_lanesOf]; rcases hr with h | h | h
        · simp [h]
        · omega
        · omega
      simp only [this, if_false]; rfl
  · rw [ea]; rw [h2]; rfl
  · rw [ea, h1]; rfl
  · rw [ea, h1]; rfl

theorem foldl_raise (a : Agent) (ls : List Nat) (f : Nat → FFlags) :
    ls.foldl (fun x L => x.raise (f L)) a = { a with fpc := a.fpc ||| (ls.foldl (fun x L => x ||| f L) (0 : FFlags)).zeroExtend 32 } := by
  have key : ∀ (l : List Nat) (x : FFlags), l.foldl (fun x L => x ||| f L) x = x ||| l.foldl (fun x L => x ||| f L) (0 : FFlags) := by
    intro l; induction l with
    | nil => simp
    | cons y l ih => intro x; simp only [List.foldl_cons]; rw [ih, ih (0 ||| _)]; ext i; simp [Bool.or_assoc]
  induction ls generalizing a with
  | nil => simp
  | cons L r ih =>
    simp only [List.foldl_cons]; rw [ih, key r (0 ||| _)]; unfold Agent.raise
    simp only [Agent.mk.injEq, and_true, true_and]
    ext i; simp; grind

theorem getLsbD_laneBit (L M : Nat) (h : M < 64) : (laneBit L).getLsbD M = decide (M = L) := by
  unfold laneBit
  rw [BitVec.getLsbD_ofNat]
  simp [h, Nat.testBit_two_pow]; grind

theorem foldl_lanes_getLsbD (ls : List Nat) (f : Nat → Bool) (m : Mask) (M : Nat) (h : M < 64) :
    (ls.foldl (fun m L => if f L then m ||| laneBit L else m) m).getLsbD M = (m.getLsbD M || decide (M ∈ ls ∧ f M = true)) := by
  induction ls generalizing m with
  | nil => simp
  | cons L r ih =>
    simp only [List.foldl_cons, ih]
    by_cases hf : f L
    · simp only [hf, if_true, BitVec.getLsbD_or, getLsbD_laneBit L M h]
      by_cases hM : M = L
      · subst hM; simp [hf]
      · simp [hM]
    · simp only [hf]
      by_cases hM : M = L
      · subst hM; simp [hf]
      · simp [hM]

/-- What a synchronous instruction with a predicate destination and some active lane answers. -/
theorem predOp_spec (i : Instr) (o : MOps) (f : State → Agent → Nat → Bool × FFlags) {s : State} {id : Nat} {b : Bool} {a : Agent} {p : Path}
    (h : s.running = some (id, b, a, p)) (ha : a.active p o.g ≠ 0) :
    ∃ a', predOp i o f s = .next (s.setAgent id a') ∧ (a.account s i).counted s a' ∧ (a.account s i).movedPast b p i a'
      ∧ (∀ q L, L < 64 → (a'.p q).getLsbD L =
          if q = 0 then true else if q = o.d.toNat ∧ (a.active p o.g).getLsbD L = true then (f s a L).1 else (a.p q).getLsbD L)
      ∧ a'.fpc = a.fpc ||| (flagsOver (a.active p o.g) (fun L => (f s a L).2)).zeroExtend 32
      ∧ a'.vregs = a.vregs ∧ a'.sregs = a.sregs := by
  obtain ⟨_, _, hp⟩ := State.running_spec h
  generalize hact : a.active p o.g = act at *
  let val : Mask := (lanesOf act).foldl (fun m L => if (f s a L).1 then m ||| laneBit L else m) 0
  let c : Agent := ({ a.account s i with fpc := a.fpc ||| (flagsOver act (fun L => (f s a L).2)).zeroExtend 32 } : Agent).setP o.d.toNat act val
  have h1 : c = { a.account s i with preds := c.preds, fpc := a.fpc ||| (flagsOver act (fun L => (f s a L).2)).zeroExtend 32 } := by
    show Agent.setP _ _ _ _ = _; unfold c Agent.setP; split <;> rfl
  have hcp : (c.slot b).path = some p := by rw [h1]; cases b <;> exact hp
  obtain ⟨a', e, ea, em⟩ := State.finish_spec s id b i c p hcp
  refine ⟨a', ?_, ?_, ?_, ?_, ?_, ?_, ?_⟩
  · unfold predOp; rw [State.onPath_running _ h]
    simp only [hact, ha, if_false, List.foldl_map]
    rw [← e, foldl_raise]; rfl
  · unfold Agent.counted; rw [ea, h1]
  · intro hm har; rw [em hm (by rw [Agent.arrives_congr (a := a.account s i)]; exact har; rw [h1]), show c.slot b = (a.account s i).slot b by rw [h1]; cases b <;> rfl]
  · intro q L hL
    have hq : a'.p q = c.p q := by rw [ea]; rfl
    rw [hq]
    by_cases q0 : q = 0
    · subst q0; unfold Agent.p; rw [if_pos rfl, if_pos rfl, BitVec.getLsbD_allOnes]; exact decide_eq_true hL
    · simp only [q0, if_false]
      unfold c Agent.setP
      by_cases d0 : o.d.toNat = 0
      · simp only [d0, if_true, q0, false_and, if_false]; rfl
      · simp only [d0, if_false]
        unfold Agent.p; simp only [q0, if_false, mapGetD_mapPut]
        by_cases hd : q = o.d.toNat
        · subst hd
          have hv : val.getLsbD L = (act.getLsbD L && (f s a L).1) := by
            show (List.foldl _ _ _ : Mask).getLsbD L = _
            rw [foldl_lanes_getLsbD _ _ _ _ hL]; simp [mem_lanesOf, hL]
          simp only [if_true, d0, if_false, BitVec.getLsbD_or, BitVec.getLsbD_and, BitVec.getLsbD_not, hL, hv, true_and]
          cases act.getLsbD L <;> simp <;> rfl
        · simp only [hd, if_false, false_and]; rfl
  · rw [ea, h1]
  · rw [ea, h1]; rfl
  · rw [ea, h1]; rfl

theorem Agent.setSN_eq (a : Agent) (r n x : Nat) : a.setSN r n x = { a with sregs := (a.setSN r n x).sregs } := by
  induction n generalizing a r x with
  | zero => rfl
  | succ n ih => simp only [Agent.setSN]; rw [ih]; rfl

/-- Scalar registers read after n of them are written. -/
theorem Agent.s_setSN (a : Agent) (r n x q : Nat) :
    (a.setSN r n x).s q = if r ≤ q ∧ q < r + n then wordAt x (q - r) else a.s q := by
  induction n generalizing a r x with
  | zero => simp only [Agent.setSN]; split <;> first | omega | rfl
  | succ n ih =>
    simp only [Agent.setSN, ih, wordAt_succ]
    have hs : ∀ y : Word, (a.setS r y).s q = if q = r then y else a.s q := by
      intro y; unfold Agent.setS Agent.s; simp only [mapGetD_mapPut]
    rw [hs]
    by_cases h : q = r
    · subst h
      have h3 : ¬(q + 1 ≤ q ∧ q < q + 1 + n) := by omega
      simp only [h3, if_false, if_true, Nat.sub_self]
      rw [if_pos ⟨Nat.le_refl _, by omega⟩]; simp [wordAt]
    · by_cases h2 : r + 1 ≤ q ∧ q < r + 1 + n
      · have h3 : r ≤ q ∧ q < r + (n + 1) := by omega
        have e : q - (r + 1) + 1 = q - r := by omega
        simp only [h2, h3, and_self, if_true, e]
      · have h3 : ¬(r ≤ q ∧ q < r + (n + 1)) := by omega
        simp only [h2, h3, h, if_false]

/-- What an instruction of the scalar group that executes answers. -/
theorem scalOp_spec (i : Instr) (o : MOps) (n : Nat) (f : State → Agent → Path → Res) {s : State} {id : Nat} {b : Bool} {a : Agent} {p : Path}
    (h : s.running = some (id, b, a, p)) (hg : o.g.neg = false) :
    ∃ a', scalOp i o n f s = .next (s.setAgent id a') ∧ (a.account s i).counted s a' ∧ (a.account s i).movedPast b p i a'
      ∧ a.sWritten o.d.toNat n (f s a p).1 a' ∧ a'.fpc = a.fpc ||| (f s a p).2.zeroExtend 32
      ∧ a'.vregs = a.vregs ∧ a'.preds = a.preds := by
  obtain ⟨_, _, hp⟩ := State.running_spec h
  generalize hc : (((a.account s i).setSN o.d.toNat n (f s a p).1).raise (f s a p).2) = c
  have h1 : c = { a.account s i with sregs := ((a.account s i).setSN o.d.toNat n (f s a p).1).sregs, fpc := a.fpc ||| (f s a p).2.zeroExtend 32 } := by
    rw [← hc]; unfold Agent.raise; rw [Agent.setSN_eq]; rfl
  have hcp : (c.slot b).path = some p := by rw [h1]; cases b <;> exact hp
  obtain ⟨a', e, ea, em⟩ := State.finish_spec s id b i c p hcp
  refine ⟨a', ?_, ?_, ?_, ?_, ?_, ?_, ?_⟩
  · unfold scalOp; rw [State.onPath_running _ h]
    simp only [guardAlways, hg]; rw [← e, ← hc]; rfl
  · unfold Agent.counted; rw [ea, h1]
  · intro hm har; rw [em hm (by rw [Agent.arrives_congr (a := a.account s i)]; exact har; rw [h1]), show c.slot b = (a.account s i).slot b by rw [h1]; cases b <;> rfl]
  · have hv : ∀ q, a'.s q = ((a.account s i).setSN o.d.toNat n (f s a p).1).s q := by
      intro q; unfold Agent.s; rw [ea, h1]
    constructor
    · intro k hk; rw [hv, Agent.s_setSN]; simp [hk]
    · intro r hr; rw [hv, Agent.s_setSN]
      have : ¬(o.d.toNat ≤ r ∧ r < o.d.toNat + n) := by omega
      simp only [this, if_false]; rfl
  · rw [ea, h1]
  · rw [ea, h1]; rfl
  · rw [ea, h1]; rfl

/-- An instruction that only finishes changes nothing but the counters and the path. -/
theorem finish_nothing (i : Instr) {s : State} {id : Nat} {b : Bool} {a : Agent} {p : Path} (h : s.running = some (id, b, a, p)) :
    ∃ a', s.finish id b i a = s.setAgent id a' ∧ a.counted s a' ∧ a.movedPast b p i a'
      ∧ a'.vregs = a.vregs ∧ a'.sregs = a.sregs ∧ a'.preds = a.preds ∧ a'.fpc = a.fpc := by
  obtain ⟨_, _, hp⟩ := State.running_spec h
  obtain ⟨a', e, ea, em⟩ := State.finish_spec s id b i a p hp
  exact ⟨a', e, by unfold Agent.counted; rw [ea], em, by rw [ea], by rw [ea], by rw [ea], by rw [ea]⟩

end Sys2Proof.Machine
end

