-- ==== Sys2Proof/Laws/Memory.lean ====
section
/-! SUPPORT. The laws of byte memory: a byte read after a write, and the canonical form kept by every memory operation. -/

namespace Sys2Proof.Machine

theorem memGet_memSet (m : List Host.Cell) (k j : Nat) (b : Byte) : memGet (memSet m k b) j = if j = k then b else memGet m j := by
  simp [memGet, memSet, mapGetD_mapPut]

/-- A byte after a write of bytes: the byte written there, else what was there. -/
theorem memGet_memWrite (m : List Host.Cell) (k j : Nat) (bs : List Byte) :
    memGet (memWrite m k bs) j = if k ≤ j ∧ j < k + bs.length then bs.getD (j - k) 0 else memGet m j := by
  induction bs generalizing m k with
  | nil => simp only [memWrite, List.length_nil]; split <;> first | omega | rfl
  | cons b r ih =>
    simp only [memWrite, ih, memGet_memSet, List.length_cons]
    by_cases h : j = k
    · subst h; simp <;> omega
    · by_cases h2 : k ≤ j
      · obtain ⟨n, rfl⟩ : ∃ n, j = k + 1 + n := ⟨j - (k + 1), by omega⟩
        have e : k + 1 + n - (k + 1) = n := by omega
        have e2 : k + 1 + n - k = n + 1 := by omega
        simp [e, e2]; grind
      · grind

theorem length_memRead (m : List Host.Cell) (k n : Nat) : (memRead m k n).length = n := by
  induction n generalizing k with
  | zero => rfl
  | succ n ih => simp [memRead, ih]

/-- Bytes read where they were written are the bytes written. -/
theorem memRead_memWrite (m : List Host.Cell) (k : Nat) (bs : List Byte) : memRead (memWrite m k bs) k bs.length = bs := by
  induction bs generalizing m k with
  | nil => rfl
  | cons b r ih =>
    simp only [memWrite, List.length_cons, memRead, ih, memGet_memWrite, memGet_memSet]
    simp <;> omega

theorem wf_memSet (m : List Host.Cell) (k : Nat) (b : Byte) (w : Memory.wf m = true) : Memory.wf (memSet m k b) = true := by
  simp only [Memory.wf, Bool.and_eq_true, List.all_eq_true] at *
  refine ⟨mapWf_mapPut _ _ _ _ w.1, fun x hx => ?_⟩
  unfold memSet mapPut at hx
  split at hx
  · exact w.2 _ (mem_mapErase _ _ _ hx)
  · rcases mem_mapSet _ _ _ _ hx with rfl | h
    · simpa using ‹¬b = 0›
    · exact w.2 _ h

theorem wf_memWrite (m : List Host.Cell) (k : Nat) (bs : List Byte) (w : Memory.wf m = true) : Memory.wf (memWrite m k bs) = true := by
  induction bs generalizing m k with
  | nil => exact w
  | cons b r ih => exact ih _ _ (wf_memSet m k b w)

theorem wf_filter (m : List Host.Cell) (p : Host.Cell → Bool) (w : Memory.wf m = true) : Memory.wf (m.filter p) = true := by
  simp only [Memory.wf, Bool.and_eq_true, List.all_eq_true] at *
  exact ⟨keysFrom_filter m p w.1, fun x hx => w.2 x (List.mem_filter.mp hx).1⟩

theorem wf_memClear (m : List Host.Cell) (lo n : Nat) (w : Memory.wf m = true) : Memory.wf (memClear m lo n) = true := wf_filter m _ w

end Sys2Proof.Machine
end

