-- ==== Sys2Proof/Laws/Access.lean ====
section
/-! SUPPORT. What the shared operations of memory instructions do: issuing an operation, alignment, translation, making tasks irrevocable. -/

namespace Sys2Proof.Machine

/-- Issuing an operation finishes the instruction over the agent with the operation counted. -/
theorem State.issueOp_eq (s : State) (id : Nat) (b : Bool) (i : Instr) (a : Agent) (op : Outstanding) :
    s.issueOp id b i a op = State.finish { s with nextId := s.nextId + 1 } id b i ((a.account s i).startOp op) := rfl

theorem Agent.slot_startOp (a : Agent) (op : Outstanding) (b : Bool) : (a.startOp op).slot b = a.slot b := by
  unfold Agent.startOp Agent.setFlag
  cases op.flag <;> cases b <;> rfl
theorem Agent.slot_account (a : Agent) (s : State) (i : Instr) (b : Bool) : (a.account s i).slot b = a.slot b := by
  unfold Agent.account; cases b <;> rfl

/-- Aligned accesses go on. -/
theorem State.alignAll_ok (s : State) (id : Nat) (b : Bool) (p : Path) (l : List Acc) (k : State) (h : ∀ x ∈ l, x.va % x.n = 0) :
    s.alignAll id b p l k = k := by
  have : l.filter (fun x => decide (x.va % x.n ≠ 0)) = [] := by
    rw [List.filter_eq_nil_iff]; intro x hx; simp [h x hx]
  unfold State.alignAll; simp only [this]; rfl

/-- Accesses whose translations are all usable plan to go on, each with its location. -/
theorem State.plan_go (s : State) (who : Waiter) (caches : List Nat) (vf pasid : Nat) (need : Need) (l : List Acc) (loc : Acc → Loc)
    (h : ∀ x ∈ l, ∃ w, s.xlate who caches vf pasid x.va need = .ok (loc x) w) :
    s.plan who caches vf pasid need l = .go (l.map (fun x => (x, loc x))) := by
  have hm : l.map (fun x => (x, s.xlate who caches vf pasid x.va need))
      = l.map (fun x => (x, Xl.ok (loc x) (match s.xlate who caches vf pasid x.va need with | .ok _ w => w | _ => none))) := by
    apply List.map_congr_left; intro x hx
    obtain ⟨w, hw⟩ := h x hx
    rw [hw]
  unfold State.plan; dsimp only; rw [hm]
  simp [List.filterMap_map, Function.comp_def]

/-- Accesses that all reach their locations go on with them, and the slot's waits are forgotten. -/
theorem State.access_go (s : State) (id : Nat) (b : Bool) (a : Agent) (p : Path) (need : Need) (l : List Acc) (k : State → List (Acc × Loc) → State) (loc : Acc → Loc)
    (h : ∀ x ∈ l, (∃ w, s.xlate (.slot id b) a.caches a.vf (s.pasidOf a.vf a.ctx) x.va need = .ok (loc x) w) ∧ s.heldLoc (loc x) = false) :
    s.access id b a p need l k = k (s.forget (.slot id b)) (l.map (fun x => (x, loc x))) := by
  unfold State.access
  dsimp only
  rw [State.plan_go _ _ _ _ _ _ _ loc (fun x hx => (h x hx).1)]
  dsimp only
  have : ((l.map (fun x => (x, loc x))).any fun x => s.heldLoc x.2) = false := by
    rw [List.any_eq_false]; intro y hy
    obtain ⟨x, hx, rfl⟩ := List.mem_map.mp hy
    simp [(h x hx).2]
  rw [this]; rfl

/-- Forgetting a waiter changes what is waited for and what has failed, and nothing else. -/
theorem State.forget_eq (s : State) (w : Waiter) : s.forget w = { s with waits := (s.forget w).waits, fails := (s.forget w).fails } := by
  unfold State.forget; split <;> rfl

/-- No task has to become irrevocable. -/
theorem State.makeIrrev_none (s : State) (id : Nat) : s.makeIrrev id 0 = (s, true) := by
  unfold State.makeIrrev; split
  · rfl
  · split
    · rfl
    · have : lanesOf (0 : Mask) = [] := by decide
      dsimp only; rw [this]; rfl
/-- An instruction none of whose tasks must become irrevocable goes on at once in an agent that is no wave. -/
theorem State.irrevThen_none (s : State) (id : Nat) (b : Bool) (k : State → Agent → Path → State) (a : Agent) (p : Path)
    (ha : s.agent? id = some a) (hp : (a.slot b).path = some p) (m : Mask) (hw : a.isWave = false) : s.irrevThen id b m 0 k = k s a p := by
  unfold State.irrevThen State.pendingLanes
  have h0 : (0 : Mask) ||| 0 = 0 := by decide
  simp only [ha, hw, Bool.false_eq_true, if_false, h0]
  rw [State.makeIrrev_none]
  simp [ha, hp]

theorem getLsbD_maskOf (f : Nat → Bool) (M : Nat) (h : M < 64) : (maskOf f).getLsbD M = f M := by
  unfold maskOf; rw [foldl_lanes_getLsbD _ _ _ _ h]; simp [h]
theorem maskOf_getLsbD (m : Mask) : maskOf (fun L => m.getLsbD L) = m := by
  apply BitVec.eq_of_getLsbD_eq; intro i hi; rw [getLsbD_maskOf _ _ hi]
theorem maskOf_eq (m : Mask) (f : Nat → Bool) (h : ∀ L, L < 64 → f L = m.getLsbD L) : maskOf f = m := by
  apply BitVec.eq_of_getLsbD_eq; intro i hi; rw [getLsbD_maskOf _ _ hi, h i hi]
theorem maskOf_none (f : Nat → Bool) (h : ∀ L, L < 64 → f L = false) : maskOf f = 0 := by
  apply BitVec.eq_of_getLsbD_eq; intro i hi; rw [getLsbD_maskOf _ _ hi, h i hi]; simp

/-- Lanes none of which writes to a buffer do not overflow one. -/
theorem State.overflow_none (s : State) (a : Agent) (m : Mask) (e : Nat → BufEntry) (h : s.softLanes a m = 0) : s.overflow a m e = 0 := by
  unfold State.overflow; rw [h]; exact maskOf_none _ (fun L _ => by simp)

end Sys2Proof.Machine
end

