-- ==== Sys2Proof/Laws/State.lean ====
section
/-! SUPPORT. What each update of the state and of an agent leaves as it was, one lemma for each field. -/

namespace Sys2Proof.Machine

@[simp] theorem State.setAgent_cur (s : State) (id : Nat) (a : Agent) : (s.setAgent id a).cur = s.cur := rfl
@[simp] theorem State.setAgent_fresh (s : State) (id : Nat) (a : Agent) : (s.setAgent id a).fresh = s.fresh := rfl
@[simp] theorem State.setAgent_time (s : State) (id : Nat) (a : Agent) : (s.setAgent id a).time = s.time := rfl
@[simp] theorem State.setAgent_groups (s : State) (id : Nat) (a : Agent) : (s.setAgent id a).groups = s.groups := rfl
@[simp] theorem State.setAgent_rings (s : State) (id : Nat) (a : Agent) : (s.setAgent id a).rings = s.rings := rfl
@[simp] theorem State.setAgent_mus (s : State) (id : Nat) (a : Agent) : (s.setAgent id a).mus = s.mus := rfl
@[simp] theorem State.setAgent_recs (s : State) (id : Nat) (a : Agent) : (s.setAgent id a).recs = s.recs := rfl
@[simp] theorem State.setAgent_launches (s : State) (id : Nat) (a : Agent) : (s.setAgent id a).launches = s.launches := rfl
@[simp] theorem State.setAgent_packets (s : State) (id : Nat) (a : Agent) : (s.setAgent id a).packets = s.packets := rfl
@[simp] theorem State.setAgent_parts (s : State) (id : Nat) (a : Agent) : (s.setAgent id a).parts = s.parts := rfl
@[simp] theorem State.setAgent_mem (s : State) (id : Nat) (a : Agent) : (s.setAgent id a).mem = s.mem := rfl
@[simp] theorem State.setAgent_hostMem (s : State) (id : Nat) (a : Agent) : (s.setAgent id a).hostMem = s.hostMem := rfl
@[simp] theorem State.setAgent_dirty (s : State) (id : Nat) (a : Agent) : (s.setAgent id a).dirty = s.dirty := rfl
@[simp] theorem State.setAgent_poison (s : State) (id : Nat) (a : Agent) : (s.setAgent id a).poison = s.poison := rfl
@[simp] theorem State.setAgent_vfs (s : State) (id : Nat) (a : Agent) : (s.setAgent id a).vfs = s.vfs := rfl
@[simp] theorem State.setAgent_chiplets (s : State) (id : Nat) (a : Agent) : (s.setAgent id a).chiplets = s.chiplets := rfl
@[simp] theorem State.setAgent_purses (s : State) (id : Nat) (a : Agent) : (s.setAgent id a).purses = s.purses := rfl
@[simp] theorem State.setAgent_engines (s : State) (id : Nat) (a : Agent) : (s.setAgent id a).engines = s.engines := rfl
@[simp] theorem State.setAgent_nextId (s : State) (id : Nat) (a : Agent) : (s.setAgent id a).nextId = s.nextId := rfl
@[simp] theorem State.setAgent_journal (s : State) (id : Nat) (a : Agent) : (s.setAgent id a).journal = s.journal := rfl
@[simp] theorem State.setAgent_sent (s : State) (id : Nat) (a : Agent) : (s.setAgent id a).sent = s.sent := rfl
@[simp] theorem State.setAgent_events (s : State) (id : Nat) (a : Agent) : (s.setAgent id a).events = s.events := rfl
@[simp] theorem State.setAgent_counters (s : State) (id : Nat) (a : Agent) : (s.setAgent id a).counters = s.counters := rfl
@[simp] theorem State.setAgent_nodes (s : State) (id : Nat) (a : Agent) : (s.setAgent id a).nodes = s.nodes := rfl
@[simp] theorem State.setAgent_broken (s : State) (id : Nat) (a : Agent) : (s.setAgent id a).broken = s.broken := rfl
@[simp] theorem State.setAgent_tlb (s : State) (id : Nat) (a : Agent) : (s.setAgent id a).tlb = s.tlb := rfl
@[simp] theorem State.setAgent_ats (s : State) (id : Nat) (a : Agent) : (s.setAgent id a).ats = s.ats := rfl
@[simp] theorem State.setAgent_waits (s : State) (id : Nat) (a : Agent) : (s.setAgent id a).waits = s.waits := rfl
@[simp] theorem State.setAgent_windows (s : State) (id : Nat) (a : Agent) : (s.setAgent id a).windows = s.windows := rfl
@[simp] theorem State.setAgent_extents (s : State) (id : Nat) (a : Agent) : (s.setAgent id a).extents = s.extents := rfl
@[simp] theorem State.setAgent_peerMem (s : State) (id : Nat) (a : Agent) : (s.setAgent id a).peerMem = s.peerMem := rfl
@[simp] theorem State.setAgent_credits (s : State) (id : Nat) (a : Agent) : (s.setAgent id a).credits = s.credits := rfl
@[simp] theorem State.setAgent_disps (s : State) (id : Nat) (a : Agent) : (s.setAgent id a).disps = s.disps := rfl
@[simp] theorem State.setAgent_saddle (s : State) (id : Nat) (a : Agent) : (s.setAgent id a).saddle = s.saddle := rfl
@[simp] theorem State.setAgent_amax (s : State) (id : Nat) (a : Agent) : (s.setAgent id a).amax = s.amax := rfl
@[simp] theorem State.setAgent_ringsOut (s : State) (id : Nat) (a : Agent) : (s.setAgent id a).ringsOut = s.ringsOut := rfl
@[simp] theorem State.setAgent_agenda (s : State) (id : Nat) (a : Agent) : (s.setAgent id a).agenda = s.agenda := rfl
@[simp] theorem State.setAgent_turns (s : State) (id : Nat) (a : Agent) : (s.setAgent id a).turns = s.turns := rfl

@[simp] theorem State.modAgent_cur (s : State) (id : Nat) (f : Agent → Agent) : (s.modAgent id f).cur = s.cur := rfl
@[simp] theorem State.modAgent_fresh (s : State) (id : Nat) (f : Agent → Agent) : (s.modAgent id f).fresh = s.fresh := rfl
@[simp] theorem State.modAgent_time (s : State) (id : Nat) (f : Agent → Agent) : (s.modAgent id f).time = s.time := rfl
@[simp] theorem State.modAgent_groups (s : State) (id : Nat) (f : Agent → Agent) : (s.modAgent id f).groups = s.groups := rfl
@[simp] theorem State.modAgent_rings (s : State) (id : Nat) (f : Agent → Agent) : (s.modAgent id f).rings = s.rings := rfl
@[simp] theorem State.modAgent_mus (s : State) (id : Nat) (f : Agent → Agent) : (s.modAgent id f).mus = s.mus := rfl
@[simp] theorem State.modAgent_recs (s : State) (id : Nat) (f : Agent → Agent) : (s.modAgent id f).recs = s.recs := rfl
@[simp] theorem State.modAgent_launches (s : State) (id : Nat) (f : Agent → Agent) : (s.modAgent id f).launches = s.launches := rfl
@[simp] theorem State.modAgent_packets (s : State) (id : Nat) (f : Agent → Agent) : (s.modAgent id f).packets = s.packets := rfl
@[simp] theorem State.modAgent_parts (s : State) (id : Nat) (f : Agent → Agent) : (s.modAgent id f).parts = s.parts := rfl
@[simp] theorem State.modAgent_mem (s : State) (id : Nat) (f : Agent → Agent) : (s.modAgent id f).mem = s.mem := rfl
@[simp] theorem State.modAgent_hostMem (s : State) (id : Nat) (f : Agent → Agent) : (s.modAgent id f).hostMem = s.hostMem := rfl
@[simp] theorem State.modAgent_dirty (s : State) (id : Nat) (f : Agent → Agent) : (s.modAgent id f).dirty = s.dirty := rfl
@[simp] theorem State.modAgent_poison (s : State) (id : Nat) (f : Agent → Agent) : (s.modAgent id f).poison = s.poison := rfl
@[simp] theorem State.modAgent_vfs (s : State) (id : Nat) (f : Agent → Agent) : (s.modAgent id f).vfs = s.vfs := rfl
@[simp] theorem State.modAgent_chiplets (s : State) (id : Nat) (f : Agent → Agent) : (s.modAgent id f).chiplets = s.chiplets := rfl
@[simp] theorem State.modAgent_purses (s : State) (id : Nat) (f : Agent → Agent) : (s.modAgent id f).purses = s.purses := rfl
@[simp] theorem State.modAgent_engines (s : State) (id : Nat) (f : Agent → Agent) : (s.modAgent id f).engines = s.engines := rfl
@[simp] theorem State.modAgent_nextId (s : State) (id : Nat) (f : Agent → Agent) : (s.modAgent id f).nextId = s.nextId := rfl
@[simp] theorem State.modAgent_journal (s : State) (id : Nat) (f : Agent → Agent) : (s.modAgent id f).journal = s.journal := rfl
@[simp] theorem State.modAgent_sent (s : State) (id : Nat) (f : Agent → Agent) : (s.modAgent id f).sent = s.sent := rfl
@[simp] theorem State.modAgent_events (s : State) (id : Nat) (f : Agent → Agent) : (s.modAgent id f).events = s.events := rfl
@[simp] theorem State.modAgent_counters (s : State) (id : Nat) (f : Agent → Agent) : (s.modAgent id f).counters = s.counters := rfl
@[simp] theorem State.modAgent_nodes (s : State) (id : Nat) (f : Agent → Agent) : (s.modAgent id f).nodes = s.nodes := rfl
@[simp] theorem State.modAgent_broken (s : State) (id : Nat) (f : Agent → Agent) : (s.modAgent id f).broken = s.broken := rfl
@[simp] theorem State.modAgent_tlb (s : State) (id : Nat) (f : Agent → Agent) : (s.modAgent id f).tlb = s.tlb := rfl
@[simp] theorem State.modAgent_ats (s : State) (id : Nat) (f : Agent → Agent) : (s.modAgent id f).ats = s.ats := rfl
@[simp] theorem State.modAgent_waits (s : State) (id : Nat) (f : Agent → Agent) : (s.modAgent id f).waits = s.waits := rfl
@[simp] theorem State.modAgent_windows (s : State) (id : Nat) (f : Agent → Agent) : (s.modAgent id f).windows = s.windows := rfl
@[simp] theorem State.modAgent_extents (s : State) (id : Nat) (f : Agent → Agent) : (s.modAgent id f).extents = s.extents := rfl
@[simp] theorem State.modAgent_peerMem (s : State) (id : Nat) (f : Agent → Agent) : (s.modAgent id f).peerMem = s.peerMem := rfl
@[simp] theorem State.modAgent_credits (s : State) (id : Nat) (f : Agent → Agent) : (s.modAgent id f).credits = s.credits := rfl
@[simp] theorem State.modAgent_disps (s : State) (id : Nat) (f : Agent → Agent) : (s.modAgent id f).disps = s.disps := rfl
@[simp] theorem State.modAgent_saddle (s : State) (id : Nat) (f : Agent → Agent) : (s.modAgent id f).saddle = s.saddle := rfl
@[simp] theorem State.modAgent_amax (s : State) (id : Nat) (f : Agent → Agent) : (s.modAgent id f).amax = s.amax := rfl
@[simp] theorem State.modAgent_ringsOut (s : State) (id : Nat) (f : Agent → Agent) : (s.modAgent id f).ringsOut = s.ringsOut := rfl
@[simp] theorem State.modAgent_agenda (s : State) (id : Nat) (f : Agent → Agent) : (s.modAgent id f).agenda = s.agenda := rfl
@[simp] theorem State.modAgent_turns (s : State) (id : Nat) (f : Agent → Agent) : (s.modAgent id f).turns = s.turns := rfl

@[simp] theorem State.settle_cur (s : State) (id : Nat) (a : Agent) : (s.settle id a).cur = s.cur := rfl
@[simp] theorem State.settle_fresh (s : State) (id : Nat) (a : Agent) : (s.settle id a).fresh = s.fresh := rfl
@[simp] theorem State.settle_time (s : State) (id : Nat) (a : Agent) : (s.settle id a).time = s.time := rfl
@[simp] theorem State.settle_groups (s : State) (id : Nat) (a : Agent) : (s.settle id a).groups = s.groups := rfl
@[simp] theorem State.settle_rings (s : State) (id : Nat) (a : Agent) : (s.settle id a).rings = s.rings := rfl
@[simp] theorem State.settle_mus (s : State) (id : Nat) (a : Agent) : (s.settle id a).mus = s.mus := rfl
@[simp] theorem State.settle_recs (s : State) (id : Nat) (a : Agent) : (s.settle id a).recs = s.recs := rfl
@[simp] theorem State.settle_launches (s : State) (id : Nat) (a : Agent) : (s.settle id a).launches = s.launches := rfl
@[simp] theorem State.settle_packets (s : State) (id : Nat) (a : Agent) : (s.settle id a).packets = s.packets := rfl
@[simp] theorem State.settle_parts (s : State) (id : Nat) (a : Agent) : (s.settle id a).parts = s.parts := rfl
@[simp] theorem State.settle_mem (s : State) (id : Nat) (a : Agent) : (s.settle id a).mem = s.mem := rfl
@[simp] theorem State.settle_hostMem (s : State) (id : Nat) (a : Agent) : (s.settle id a).hostMem = s.hostMem := rfl
@[simp] theorem State.settle_dirty (s : State) (id : Nat) (a : Agent) : (s.settle id a).dirty = s.dirty := rfl
@[simp] theorem State.settle_poison (s : State) (id : Nat) (a : Agent) : (s.settle id a).poison = s.poison := rfl
@[simp] theorem State.settle_vfs (s : State) (id : Nat) (a : Agent) : (s.settle id a).vfs = s.vfs := rfl
@[simp] theorem State.settle_chiplets (s : State) (id : Nat) (a : Agent) : (s.settle id a).chiplets = s.chiplets := rfl
@[simp] theorem State.settle_purses (s : State) (id : Nat) (a : Agent) : (s.settle id a).purses = s.purses := rfl
@[simp] theorem State.settle_engines (s : State) (id : Nat) (a : Agent) : (s.settle id a).engines = s.engines := rfl
@[simp] theorem State.settle_nextId (s : State) (id : Nat) (a : Agent) : (s.settle id a).nextId = s.nextId := rfl
@[simp] theorem State.settle_journal (s : State) (id : Nat) (a : Agent) : (s.settle id a).journal = s.journal := rfl
@[simp] theorem State.settle_sent (s : State) (id : Nat) (a : Agent) : (s.settle id a).sent = s.sent := rfl
@[simp] theorem State.settle_events (s : State) (id : Nat) (a : Agent) : (s.settle id a).events = s.events := rfl
@[simp] theorem State.settle_counters (s : State) (id : Nat) (a : Agent) : (s.settle id a).counters = s.counters := rfl
@[simp] theorem State.settle_nodes (s : State) (id : Nat) (a : Agent) : (s.settle id a).nodes = s.nodes := rfl
@[simp] theorem State.settle_broken (s : State) (id : Nat) (a : Agent) : (s.settle id a).broken = s.broken := rfl
@[simp] theorem State.settle_tlb (s : State) (id : Nat) (a : Agent) : (s.settle id a).tlb = s.tlb := rfl
@[simp] theorem State.settle_ats (s : State) (id : Nat) (a : Agent) : (s.settle id a).ats = s.ats := rfl
@[simp] theorem State.settle_waits (s : State) (id : Nat) (a : Agent) : (s.settle id a).waits = s.waits := rfl
@[simp] theorem State.settle_windows (s : State) (id : Nat) (a : Agent) : (s.settle id a).windows = s.windows := rfl
@[simp] theorem State.settle_extents (s : State) (id : Nat) (a : Agent) : (s.settle id a).extents = s.extents := rfl
@[simp] theorem State.settle_peerMem (s : State) (id : Nat) (a : Agent) : (s.settle id a).peerMem = s.peerMem := rfl
@[simp] theorem State.settle_credits (s : State) (id : Nat) (a : Agent) : (s.settle id a).credits = s.credits := rfl
@[simp] theorem State.settle_disps (s : State) (id : Nat) (a : Agent) : (s.settle id a).disps = s.disps := rfl
@[simp] theorem State.settle_saddle (s : State) (id : Nat) (a : Agent) : (s.settle id a).saddle = s.saddle := rfl
@[simp] theorem State.settle_amax (s : State) (id : Nat) (a : Agent) : (s.settle id a).amax = s.amax := rfl
@[simp] theorem State.settle_ringsOut (s : State) (id : Nat) (a : Agent) : (s.settle id a).ringsOut = s.ringsOut := rfl
@[simp] theorem State.settle_agenda (s : State) (id : Nat) (a : Agent) : (s.settle id a).agenda = s.agenda := rfl
@[simp] theorem State.settle_turns (s : State) (id : Nat) (a : Agent) : (s.settle id a).turns = s.turns := rfl

@[simp] theorem State.emit_cur (s : State) (m : PortMsg) : (s.emit m).cur = s.cur := rfl
@[simp] theorem State.emit_fresh (s : State) (m : PortMsg) : (s.emit m).fresh = s.fresh := rfl
@[simp] theorem State.emit_time (s : State) (m : PortMsg) : (s.emit m).time = s.time := rfl
@[simp] theorem State.emit_agents (s : State) (m : PortMsg) : (s.emit m).agents = s.agents := rfl
@[simp] theorem State.emit_groups (s : State) (m : PortMsg) : (s.emit m).groups = s.groups := rfl
@[simp] theorem State.emit_rings (s : State) (m : PortMsg) : (s.emit m).rings = s.rings := rfl
@[simp] theorem State.emit_mus (s : State) (m : PortMsg) : (s.emit m).mus = s.mus := rfl
@[simp] theorem State.emit_recs (s : State) (m : PortMsg) : (s.emit m).recs = s.recs := rfl
@[simp] theorem State.emit_launches (s : State) (m : PortMsg) : (s.emit m).launches = s.launches := rfl
@[simp] theorem State.emit_packets (s : State) (m : PortMsg) : (s.emit m).packets = s.packets := rfl
@[simp] theorem State.emit_parts (s : State) (m : PortMsg) : (s.emit m).parts = s.parts := rfl
@[simp] theorem State.emit_mem (s : State) (m : PortMsg) : (s.emit m).mem = s.mem := rfl
@[simp] theorem State.emit_hostMem (s : State) (m : PortMsg) : (s.emit m).hostMem = s.hostMem := rfl
@[simp] theorem State.emit_dirty (s : State) (m : PortMsg) : (s.emit m).dirty = s.dirty := rfl
@[simp] theorem State.emit_poison (s : State) (m : PortMsg) : (s.emit m).poison = s.poison := rfl
@[simp] theorem State.emit_vfs (s : State) (m : PortMsg) : (s.emit m).vfs = s.vfs := rfl
@[simp] theorem State.emit_chiplets (s : State) (m : PortMsg) : (s.emit m).chiplets = s.chiplets := rfl
@[simp] theorem State.emit_purses (s : State) (m : PortMsg) : (s.emit m).purses = s.purses := rfl
@[simp] theorem State.emit_engines (s : State) (m : PortMsg) : (s.emit m).engines = s.engines := rfl
@[simp] theorem State.emit_nextId (s : State) (m : PortMsg) : (s.emit m).nextId = s.nextId := rfl
@[simp] theorem State.emit_journal (s : State) (m : PortMsg) : (s.emit m).journal = s.journal := rfl
@[simp] theorem State.emit_events (s : State) (m : PortMsg) : (s.emit m).events = s.events := rfl
@[simp] theorem State.emit_counters (s : State) (m : PortMsg) : (s.emit m).counters = s.counters := rfl
@[simp] theorem State.emit_nodes (s : State) (m : PortMsg) : (s.emit m).nodes = s.nodes := rfl
@[simp] theorem State.emit_broken (s : State) (m : PortMsg) : (s.emit m).broken = s.broken := rfl
@[simp] theorem State.emit_tlb (s : State) (m : PortMsg) : (s.emit m).tlb = s.tlb := rfl
@[simp] theorem State.emit_ats (s : State) (m : PortMsg) : (s.emit m).ats = s.ats := rfl
@[simp] theorem State.emit_waits (s : State) (m : PortMsg) : (s.emit m).waits = s.waits := rfl
@[simp] theorem State.emit_windows (s : State) (m : PortMsg) : (s.emit m).windows = s.windows := rfl
@[simp] theorem State.emit_extents (s : State) (m : PortMsg) : (s.emit m).extents = s.extents := rfl
@[simp] theorem State.emit_peerMem (s : State) (m : PortMsg) : (s.emit m).peerMem = s.peerMem := rfl
@[simp] theorem State.emit_credits (s : State) (m : PortMsg) : (s.emit m).credits = s.credits := rfl
@[simp] theorem State.emit_disps (s : State) (m : PortMsg) : (s.emit m).disps = s.disps := rfl
@[simp] theorem State.emit_saddle (s : State) (m : PortMsg) : (s.emit m).saddle = s.saddle := rfl
@[simp] theorem State.emit_amax (s : State) (m : PortMsg) : (s.emit m).amax = s.amax := rfl
@[simp] theorem State.emit_ringsOut (s : State) (m : PortMsg) : (s.emit m).ringsOut = s.ringsOut := rfl
@[simp] theorem State.emit_agenda (s : State) (m : PortMsg) : (s.emit m).agenda = s.agenda := rfl
@[simp] theorem State.emit_turns (s : State) (m : PortMsg) : (s.emit m).turns = s.turns := rfl

@[simp] theorem State.setVf_cur (s : State) (v : Nat) (x : Vf) : (s.setVf v x).cur = s.cur := rfl
@[simp] theorem State.setVf_fresh (s : State) (v : Nat) (x : Vf) : (s.setVf v x).fresh = s.fresh := rfl
@[simp] theorem State.setVf_time (s : State) (v : Nat) (x : Vf) : (s.setVf v x).time = s.time := rfl
@[simp] theorem State.setVf_agents (s : State) (v : Nat) (x : Vf) : (s.setVf v x).agents = s.agents := rfl
@[simp] theorem State.setVf_groups (s : State) (v : Nat) (x : Vf) : (s.setVf v x).groups = s.groups := rfl
@[simp] theorem State.setVf_rings (s : State) (v : Nat) (x : Vf) : (s.setVf v x).rings = s.rings := rfl
@[simp] theorem State.setVf_mus (s : State) (v : Nat) (x : Vf) : (s.setVf v x).mus = s.mus := rfl
@[simp] theorem State.setVf_recs (s : State) (v : Nat) (x : Vf) : (s.setVf v x).recs = s.recs := rfl
@[simp] theorem State.setVf_launches (s : State) (v : Nat) (x : Vf) : (s.setVf v x).launches = s.launches := rfl
@[simp] theorem State.setVf_packets (s : State) (v : Nat) (x : Vf) : (s.setVf v x).packets = s.packets := rfl
@[simp] theorem State.setVf_parts (s : State) (v : Nat) (x : Vf) : (s.setVf v x).parts = s.parts := rfl
@[simp] theorem State.setVf_mem (s : State) (v : Nat) (x : Vf) : (s.setVf v x).mem = s.mem := rfl
@[simp] theorem State.setVf_hostMem (s : State) (v : Nat) (x : Vf) : (s.setVf v x).hostMem = s.hostMem := rfl
@[simp] theorem State.setVf_dirty (s : State) (v : Nat) (x : Vf) : (s.setVf v x).dirty = s.dirty := rfl
@[simp] theorem State.setVf_poison (s : State) (v : Nat) (x : Vf) : (s.setVf v x).poison = s.poison := rfl
@[simp] theorem State.setVf_chiplets (s : State) (v : Nat) (x : Vf) : (s.setVf v x).chiplets = s.chiplets := rfl
@[simp] theorem State.setVf_purses (s : State) (v : Nat) (x : Vf) : (s.setVf v x).purses = s.purses := rfl
@[simp] theorem State.setVf_engines (s : State) (v : Nat) (x : Vf) : (s.setVf v x).engines = s.engines := rfl
@[simp] theorem State.setVf_nextId (s : State) (v : Nat) (x : Vf) : (s.setVf v x).nextId = s.nextId := rfl
@[simp] theorem State.setVf_journal (s : State) (v : Nat) (x : Vf) : (s.setVf v x).journal = s.journal := rfl
@[simp] theorem State.setVf_sent (s : State) (v : Nat) (x : Vf) : (s.setVf v x).sent = s.sent := rfl
@[simp] theorem State.setVf_events (s : State) (v : Nat) (x : Vf) : (s.setVf v x).events = s.events := rfl
@[simp] theorem State.setVf_counters (s : State) (v : Nat) (x : Vf) : (s.setVf v x).counters = s.counters := rfl
@[simp] theorem State.setVf_nodes (s : State) (v : Nat) (x : Vf) : (s.setVf v x).nodes = s.nodes := rfl
@[simp] theorem State.setVf_broken (s : State) (v : Nat) (x : Vf) : (s.setVf v x).broken = s.broken := rfl
@[simp] theorem State.setVf_tlb (s : State) (v : Nat) (x : Vf) : (s.setVf v x).tlb = s.tlb := rfl
@[simp] theorem State.setVf_ats (s : State) (v : Nat) (x : Vf) : (s.setVf v x).ats = s.ats := rfl
@[simp] theorem State.setVf_waits (s : State) (v : Nat) (x : Vf) : (s.setVf v x).waits = s.waits := rfl
@[simp] theorem State.setVf_windows (s : State) (v : Nat) (x : Vf) : (s.setVf v x).windows = s.windows := rfl
@[simp] theorem State.setVf_extents (s : State) (v : Nat) (x : Vf) : (s.setVf v x).extents = s.extents := rfl
@[simp] theorem State.setVf_peerMem (s : State) (v : Nat) (x : Vf) : (s.setVf v x).peerMem = s.peerMem := rfl
@[simp] theorem State.setVf_credits (s : State) (v : Nat) (x : Vf) : (s.setVf v x).credits = s.credits := rfl
@[simp] theorem State.setVf_disps (s : State) (v : Nat) (x : Vf) : (s.setVf v x).disps = s.disps := rfl
@[simp] theorem State.setVf_saddle (s : State) (v : Nat) (x : Vf) : (s.setVf v x).saddle = s.saddle := rfl
@[simp] theorem State.setVf_amax (s : State) (v : Nat) (x : Vf) : (s.setVf v x).amax = s.amax := rfl
@[simp] theorem State.setVf_ringsOut (s : State) (v : Nat) (x : Vf) : (s.setVf v x).ringsOut = s.ringsOut := rfl
@[simp] theorem State.setVf_agenda (s : State) (v : Nat) (x : Vf) : (s.setVf v x).agenda = s.agenda := rfl
@[simp] theorem State.setVf_turns (s : State) (v : Nat) (x : Vf) : (s.setVf v x).turns = s.turns := rfl

@[simp] theorem State.modVf_cur (s : State) (v : Nat) (f : Vf → Vf) : (s.modVf v f).cur = s.cur := rfl
@[simp] theorem State.modVf_fresh (s : State) (v : Nat) (f : Vf → Vf) : (s.modVf v f).fresh = s.fresh := rfl
@[simp] theorem State.modVf_time (s : State) (v : Nat) (f : Vf → Vf) : (s.modVf v f).time = s.time := rfl
@[simp] theorem State.modVf_agents (s : State) (v : Nat) (f : Vf → Vf) : (s.modVf v f).agents = s.agents := rfl
@[simp] theorem State.modVf_groups (s : State) (v : Nat) (f : Vf → Vf) : (s.modVf v f).groups = s.groups := rfl
@[simp] theorem State.modVf_rings (s : State) (v : Nat) (f : Vf → Vf) : (s.modVf v f).rings = s.rings := rfl
@[simp] theorem State.modVf_mus (s : State) (v : Nat) (f : Vf → Vf) : (s.modVf v f).mus = s.mus := rfl
@[simp] theorem State.modVf_recs (s : State) (v : Nat) (f : Vf → Vf) : (s.modVf v f).recs = s.recs := rfl
@[simp] theorem State.modVf_launches (s : State) (v : Nat) (f : Vf → Vf) : (s.modVf v f).launches = s.launches := rfl
@[simp] theorem State.modVf_packets (s : State) (v : Nat) (f : Vf → Vf) : (s.modVf v f).packets = s.packets := rfl
@[simp] theorem State.modVf_parts (s : State) (v : Nat) (f : Vf → Vf) : (s.modVf v f).parts = s.parts := rfl
@[simp] theorem State.modVf_mem (s : State) (v : Nat) (f : Vf → Vf) : (s.modVf v f).mem = s.mem := rfl
@[simp] theorem State.modVf_hostMem (s : State) (v : Nat) (f : Vf → Vf) : (s.modVf v f).hostMem = s.hostMem := rfl
@[simp] theorem State.modVf_dirty (s : State) (v : Nat) (f : Vf → Vf) : (s.modVf v f).dirty = s.dirty := rfl
@[simp] theorem State.modVf_poison (s : State) (v : Nat) (f : Vf → Vf) : (s.modVf v f).poison = s.poison := rfl
@[simp] theorem State.modVf_chiplets (s : State) (v : Nat) (f : Vf → Vf) : (s.modVf v f).chiplets = s.chiplets := rfl
@[simp] theorem State.modVf_purses (s : State) (v : Nat) (f : Vf → Vf) : (s.modVf v f).purses = s.purses := rfl
@[simp] theorem State.modVf_engines (s : State) (v : Nat) (f : Vf → Vf) : (s.modVf v f).engines = s.engines := rfl
@[simp] theorem State.modVf_nextId (s : State) (v : Nat) (f : Vf → Vf) : (s.modVf v f).nextId = s.nextId := rfl
@[simp] theorem State.modVf_journal (s : State) (v : Nat) (f : Vf → Vf) : (s.modVf v f).journal = s.journal := rfl
@[simp] theorem State.modVf_sent (s : State) (v : Nat) (f : Vf → Vf) : (s.modVf v f).sent = s.sent := rfl
@[simp] theorem State.modVf_events (s : State) (v : Nat) (f : Vf → Vf) : (s.modVf v f).events = s.events := rfl
@[simp] theorem State.modVf_counters (s : State) (v : Nat) (f : Vf → Vf) : (s.modVf v f).counters = s.counters := rfl
@[simp] theorem State.modVf_nodes (s : State) (v : Nat) (f : Vf → Vf) : (s.modVf v f).nodes = s.nodes := rfl
@[simp] theorem State.modVf_broken (s : State) (v : Nat) (f : Vf → Vf) : (s.modVf v f).broken = s.broken := rfl
@[simp] theorem State.modVf_tlb (s : State) (v : Nat) (f : Vf → Vf) : (s.modVf v f).tlb = s.tlb := rfl
@[simp] theorem State.modVf_ats (s : State) (v : Nat) (f : Vf → Vf) : (s.modVf v f).ats = s.ats := rfl
@[simp] theorem State.modVf_waits (s : State) (v : Nat) (f : Vf → Vf) : (s.modVf v f).waits = s.waits := rfl
@[simp] theorem State.modVf_windows (s : State) (v : Nat) (f : Vf → Vf) : (s.modVf v f).windows = s.windows := rfl
@[simp] theorem State.modVf_extents (s : State) (v : Nat) (f : Vf → Vf) : (s.modVf v f).extents = s.extents := rfl
@[simp] theorem State.modVf_peerMem (s : State) (v : Nat) (f : Vf → Vf) : (s.modVf v f).peerMem = s.peerMem := rfl
@[simp] theorem State.modVf_credits (s : State) (v : Nat) (f : Vf → Vf) : (s.modVf v f).credits = s.credits := rfl
@[simp] theorem State.modVf_disps (s : State) (v : Nat) (f : Vf → Vf) : (s.modVf v f).disps = s.disps := rfl
@[simp] theorem State.modVf_saddle (s : State) (v : Nat) (f : Vf → Vf) : (s.modVf v f).saddle = s.saddle := rfl
@[simp] theorem State.modVf_amax (s : State) (v : Nat) (f : Vf → Vf) : (s.modVf v f).amax = s.amax := rfl
@[simp] theorem State.modVf_ringsOut (s : State) (v : Nat) (f : Vf → Vf) : (s.modVf v f).ringsOut = s.ringsOut := rfl
@[simp] theorem State.modVf_agenda (s : State) (v : Nat) (f : Vf → Vf) : (s.modVf v f).agenda = s.agenda := rfl
@[simp] theorem State.modVf_turns (s : State) (v : Nat) (f : Vf → Vf) : (s.modVf v f).turns = s.turns := rfl

@[simp] theorem State.modGroup_cur (s : State) (g : Nat) (f : Group → Group) : (s.modGroup g f).cur = s.cur := rfl
@[simp] theorem State.modGroup_fresh (s : State) (g : Nat) (f : Group → Group) : (s.modGroup g f).fresh = s.fresh := rfl
@[simp] theorem State.modGroup_time (s : State) (g : Nat) (f : Group → Group) : (s.modGroup g f).time = s.time := rfl
@[simp] theorem State.modGroup_agents (s : State) (g : Nat) (f : Group → Group) : (s.modGroup g f).agents = s.agents := rfl
@[simp] theorem State.modGroup_rings (s : State) (g : Nat) (f : Group → Group) : (s.modGroup g f).rings = s.rings := rfl
@[simp] theorem State.modGroup_mus (s : State) (g : Nat) (f : Group → Group) : (s.modGroup g f).mus = s.mus := rfl
@[simp] theorem State.modGroup_recs (s : State) (g : Nat) (f : Group → Group) : (s.modGroup g f).recs = s.recs := rfl
@[simp] theorem State.modGroup_launches (s : State) (g : Nat) (f : Group → Group) : (s.modGroup g f).launches = s.launches := rfl
@[simp] theorem State.modGroup_packets (s : State) (g : Nat) (f : Group → Group) : (s.modGroup g f).packets = s.packets := rfl
@[simp] theorem State.modGroup_parts (s : State) (g : Nat) (f : Group → Group) : (s.modGroup g f).parts = s.parts := rfl
@[simp] theorem State.modGroup_mem (s : State) (g : Nat) (f : Group → Group) : (s.modGroup g f).mem = s.mem := rfl
@[simp] theorem State.modGroup_hostMem (s : State) (g : Nat) (f : Group → Group) : (s.modGroup g f).hostMem = s.hostMem := rfl
@[simp] theorem State.modGroup_dirty (s : State) (g : Nat) (f : Group → Group) : (s.modGroup g f).dirty = s.dirty := rfl
@[simp] theorem State.modGroup_poison (s : State) (g : Nat) (f : Group → Group) : (s.modGroup g f).poison = s.poison := rfl
@[simp] theorem State.modGroup_vfs (s : State) (g : Nat) (f : Group → Group) : (s.modGroup g f).vfs = s.vfs := rfl
@[simp] theorem State.modGroup_chiplets (s : State) (g : Nat) (f : Group → Group) : (s.modGroup g f).chiplets = s.chiplets := rfl
@[simp] theorem State.modGroup_purses (s : State) (g : Nat) (f : Group → Group) : (s.modGroup g f).purses = s.purses := rfl
@[simp] theorem State.modGroup_engines (s : State) (g : Nat) (f : Group → Group) : (s.modGroup g f).engines = s.engines := rfl
@[simp] theorem State.modGroup_nextId (s : State) (g : Nat) (f : Group → Group) : (s.modGroup g f).nextId = s.nextId := rfl
@[simp] theorem State.modGroup_journal (s : State) (g : Nat) (f : Group → Group) : (s.modGroup g f).journal = s.journal := rfl
@[simp] theorem State.modGroup_sent (s : State) (g : Nat) (f : Group → Group) : (s.modGroup g f).sent = s.sent := rfl
@[simp] theorem State.modGroup_events (s : State) (g : Nat) (f : Group → Group) : (s.modGroup g f).events = s.events := rfl
@[simp] theorem State.modGroup_counters (s : State) (g : Nat) (f : Group → Group) : (s.modGroup g f).counters = s.counters := rfl
@[simp] theorem State.modGroup_nodes (s : State) (g : Nat) (f : Group → Group) : (s.modGroup g f).nodes = s.nodes := rfl
@[simp] theorem State.modGroup_broken (s : State) (g : Nat) (f : Group → Group) : (s.modGroup g f).broken = s.broken := rfl
@[simp] theorem State.modGroup_tlb (s : State) (g : Nat) (f : Group → Group) : (s.modGroup g f).tlb = s.tlb := rfl
@[simp] theorem State.modGroup_ats (s : State) (g : Nat) (f : Group → Group) : (s.modGroup g f).ats = s.ats := rfl
@[simp] theorem State.modGroup_waits (s : State) (g : Nat) (f : Group → Group) : (s.modGroup g f).waits = s.waits := rfl
@[simp] theorem State.modGroup_windows (s : State) (g : Nat) (f : Group → Group) : (s.modGroup g f).windows = s.windows := rfl
@[simp] theorem State.modGroup_extents (s : State) (g : Nat) (f : Group → Group) : (s.modGroup g f).extents = s.extents := rfl
@[simp] theorem State.modGroup_peerMem (s : State) (g : Nat) (f : Group → Group) : (s.modGroup g f).peerMem = s.peerMem := rfl
@[simp] theorem State.modGroup_credits (s : State) (g : Nat) (f : Group → Group) : (s.modGroup g f).credits = s.credits := rfl
@[simp] theorem State.modGroup_disps (s : State) (g : Nat) (f : Group → Group) : (s.modGroup g f).disps = s.disps := rfl
@[simp] theorem State.modGroup_saddle (s : State) (g : Nat) (f : Group → Group) : (s.modGroup g f).saddle = s.saddle := rfl
@[simp] theorem State.modGroup_amax (s : State) (g : Nat) (f : Group → Group) : (s.modGroup g f).amax = s.amax := rfl
@[simp] theorem State.modGroup_ringsOut (s : State) (g : Nat) (f : Group → Group) : (s.modGroup g f).ringsOut = s.ringsOut := rfl
@[simp] theorem State.modGroup_agenda (s : State) (g : Nat) (f : Group → Group) : (s.modGroup g f).agenda = s.agenda := rfl
@[simp] theorem State.modGroup_turns (s : State) (g : Nat) (f : Group → Group) : (s.modGroup g f).turns = s.turns := rfl

@[simp] theorem State.modLaunch_cur (s : State) (l : Nat) (f : Launch → Launch) : (s.modLaunch l f).cur = s.cur := rfl
@[simp] theorem State.modLaunch_fresh (s : State) (l : Nat) (f : Launch → Launch) : (s.modLaunch l f).fresh = s.fresh := rfl
@[simp] theorem State.modLaunch_time (s : State) (l : Nat) (f : Launch → Launch) : (s.modLaunch l f).time = s.time := rfl
@[simp] theorem State.modLaunch_agents (s : State) (l : Nat) (f : Launch → Launch) : (s.modLaunch l f).agents = s.agents := rfl
@[simp] theorem State.modLaunch_groups (s : State) (l : Nat) (f : Launch → Launch) : (s.modLaunch l f).groups = s.groups := rfl
@[simp] theorem State.modLaunch_rings (s : State) (l : Nat) (f : Launch → Launch) : (s.modLaunch l f).rings = s.rings := rfl
@[simp] theorem State.modLaunch_mus (s : State) (l : Nat) (f : Launch → Launch) : (s.modLaunch l f).mus = s.mus := rfl
@[simp] theorem State.modLaunch_recs (s : State) (l : Nat) (f : Launch → Launch) : (s.modLaunch l f).recs = s.recs := rfl
@[simp] theorem State.modLaunch_packets (s : State) (l : Nat) (f : Launch → Launch) : (s.modLaunch l f).packets = s.packets := rfl
@[simp] theorem State.modLaunch_parts (s : State) (l : Nat) (f : Launch → Launch) : (s.modLaunch l f).parts = s.parts := rfl
@[simp] theorem State.modLaunch_mem (s : State) (l : Nat) (f : Launch → Launch) : (s.modLaunch l f).mem = s.mem := rfl
@[simp] theorem State.modLaunch_hostMem (s : State) (l : Nat) (f : Launch → Launch) : (s.modLaunch l f).hostMem = s.hostMem := rfl
@[simp] theorem State.modLaunch_dirty (s : State) (l : Nat) (f : Launch → Launch) : (s.modLaunch l f).dirty = s.dirty := rfl
@[simp] theorem State.modLaunch_poison (s : State) (l : Nat) (f : Launch → Launch) : (s.modLaunch l f).poison = s.poison := rfl
@[simp] theorem State.modLaunch_vfs (s : State) (l : Nat) (f : Launch → Launch) : (s.modLaunch l f).vfs = s.vfs := rfl
@[simp] theorem State.modLaunch_chiplets (s : State) (l : Nat) (f : Launch → Launch) : (s.modLaunch l f).chiplets = s.chiplets := rfl
@[simp] theorem State.modLaunch_purses (s : State) (l : Nat) (f : Launch → Launch) : (s.modLaunch l f).purses = s.purses := rfl
@[simp] theorem State.modLaunch_engines (s : State) (l : Nat) (f : Launch → Launch) : (s.modLaunch l f).engines = s.engines := rfl
@[simp] theorem State.modLaunch_nextId (s : State) (l : Nat) (f : Launch → Launch) : (s.modLaunch l f).nextId = s.nextId := rfl
@[simp] theorem State.modLaunch_journal (s : State) (l : Nat) (f : Launch → Launch) : (s.modLaunch l f).journal = s.journal := rfl
@[simp] theorem State.modLaunch_sent (s : State) (l : Nat) (f : Launch → Launch) : (s.modLaunch l f).sent = s.sent := rfl
@[simp] theorem State.modLaunch_events (s : State) (l : Nat) (f : Launch → Launch) : (s.modLaunch l f).events = s.events := rfl
@[simp] theorem State.modLaunch_counters (s : State) (l : Nat) (f : Launch → Launch) : (s.modLaunch l f).counters = s.counters := rfl
@[simp] theorem State.modLaunch_nodes (s : State) (l : Nat) (f : Launch → Launch) : (s.modLaunch l f).nodes = s.nodes := rfl
@[simp] theorem State.modLaunch_broken (s : State) (l : Nat) (f : Launch → Launch) : (s.modLaunch l f).broken = s.broken := rfl
@[simp] theorem State.modLaunch_tlb (s : State) (l : Nat) (f : Launch → Launch) : (s.modLaunch l f).tlb = s.tlb := rfl
@[simp] theorem State.modLaunch_ats (s : State) (l : Nat) (f : Launch → Launch) : (s.modLaunch l f).ats = s.ats := rfl
@[simp] theorem State.modLaunch_waits (s : State) (l : Nat) (f : Launch → Launch) : (s.modLaunch l f).waits = s.waits := rfl
@[simp] theorem State.modLaunch_windows (s : State) (l : Nat) (f : Launch → Launch) : (s.modLaunch l f).windows = s.windows := rfl
@[simp] theorem State.modLaunch_extents (s : State) (l : Nat) (f : Launch → Launch) : (s.modLaunch l f).extents = s.extents := rfl
@[simp] theorem State.modLaunch_peerMem (s : State) (l : Nat) (f : Launch → Launch) : (s.modLaunch l f).peerMem = s.peerMem := rfl
@[simp] theorem State.modLaunch_credits (s : State) (l : Nat) (f : Launch → Launch) : (s.modLaunch l f).credits = s.credits := rfl
@[simp] theorem State.modLaunch_disps (s : State) (l : Nat) (f : Launch → Launch) : (s.modLaunch l f).disps = s.disps := rfl
@[simp] theorem State.modLaunch_saddle (s : State) (l : Nat) (f : Launch → Launch) : (s.modLaunch l f).saddle = s.saddle := rfl
@[simp] theorem State.modLaunch_amax (s : State) (l : Nat) (f : Launch → Launch) : (s.modLaunch l f).amax = s.amax := rfl
@[simp] theorem State.modLaunch_ringsOut (s : State) (l : Nat) (f : Launch → Launch) : (s.modLaunch l f).ringsOut = s.ringsOut := rfl
@[simp] theorem State.modLaunch_agenda (s : State) (l : Nat) (f : Launch → Launch) : (s.modLaunch l f).agenda = s.agenda := rfl
@[simp] theorem State.modLaunch_turns (s : State) (l : Nat) (f : Launch → Launch) : (s.modLaunch l f).turns = s.turns := rfl

@[simp] theorem State.modRec_cur (s : State) (k : Nat) (f : TaskRec → TaskRec) : (s.modRec k f).cur = s.cur := rfl
@[simp] theorem State.modRec_fresh (s : State) (k : Nat) (f : TaskRec → TaskRec) : (s.modRec k f).fresh = s.fresh := rfl
@[simp] theorem State.modRec_time (s : State) (k : Nat) (f : TaskRec → TaskRec) : (s.modRec k f).time = s.time := rfl
@[simp] theorem State.modRec_agents (s : State) (k : Nat) (f : TaskRec → TaskRec) : (s.modRec k f).agents = s.agents := rfl
@[simp] theorem State.modRec_groups (s : State) (k : Nat) (f : TaskRec → TaskRec) : (s.modRec k f).groups = s.groups := rfl
@[simp] theorem State.modRec_rings (s : State) (k : Nat) (f : TaskRec → TaskRec) : (s.modRec k f).rings = s.rings := rfl
@[simp] theorem State.modRec_mus (s : State) (k : Nat) (f : TaskRec → TaskRec) : (s.modRec k f).mus = s.mus := rfl
@[simp] theorem State.modRec_launches (s : State) (k : Nat) (f : TaskRec → TaskRec) : (s.modRec k f).launches = s.launches := rfl
@[simp] theorem State.modRec_packets (s : State) (k : Nat) (f : TaskRec → TaskRec) : (s.modRec k f).packets = s.packets := rfl
@[simp] theorem State.modRec_parts (s : State) (k : Nat) (f : TaskRec → TaskRec) : (s.modRec k f).parts = s.parts := rfl
@[simp] theorem State.modRec_mem (s : State) (k : Nat) (f : TaskRec → TaskRec) : (s.modRec k f).mem = s.mem := rfl
@[simp] theorem State.modRec_hostMem (s : State) (k : Nat) (f : TaskRec → TaskRec) : (s.modRec k f).hostMem = s.hostMem := rfl
@[simp] theorem State.modRec_dirty (s : State) (k : Nat) (f : TaskRec → TaskRec) : (s.modRec k f).dirty = s.dirty := rfl
@[simp] theorem State.modRec_poison (s : State) (k : Nat) (f : TaskRec → TaskRec) : (s.modRec k f).poison = s.poison := rfl
@[simp] theorem State.modRec_vfs (s : State) (k : Nat) (f : TaskRec → TaskRec) : (s.modRec k f).vfs = s.vfs := rfl
@[simp] theorem State.modRec_chiplets (s : State) (k : Nat) (f : TaskRec → TaskRec) : (s.modRec k f).chiplets = s.chiplets := rfl
@[simp] theorem State.modRec_purses (s : State) (k : Nat) (f : TaskRec → TaskRec) : (s.modRec k f).purses = s.purses := rfl
@[simp] theorem State.modRec_engines (s : State) (k : Nat) (f : TaskRec → TaskRec) : (s.modRec k f).engines = s.engines := rfl
@[simp] theorem State.modRec_nextId (s : State) (k : Nat) (f : TaskRec → TaskRec) : (s.modRec k f).nextId = s.nextId := rfl
@[simp] theorem State.modRec_journal (s : State) (k : Nat) (f : TaskRec → TaskRec) : (s.modRec k f).journal = s.journal := rfl
@[simp] theorem State.modRec_sent (s : State) (k : Nat) (f : TaskRec → TaskRec) : (s.modRec k f).sent = s.sent := rfl
@[simp] theorem State.modRec_events (s : State) (k : Nat) (f : TaskRec → TaskRec) : (s.modRec k f).events = s.events := rfl
@[simp] theorem State.modRec_counters (s : State) (k : Nat) (f : TaskRec → TaskRec) : (s.modRec k f).counters = s.counters := rfl
@[simp] theorem State.modRec_nodes (s : State) (k : Nat) (f : TaskRec → TaskRec) : (s.modRec k f).nodes = s.nodes := rfl
@[simp] theorem State.modRec_broken (s : State) (k : Nat) (f : TaskRec → TaskRec) : (s.modRec k f).broken = s.broken := rfl
@[simp] theorem State.modRec_tlb (s : State) (k : Nat) (f : TaskRec → TaskRec) : (s.modRec k f).tlb = s.tlb := rfl
@[simp] theorem State.modRec_ats (s : State) (k : Nat) (f : TaskRec → TaskRec) : (s.modRec k f).ats = s.ats := rfl
@[simp] theorem State.modRec_waits (s : State) (k : Nat) (f : TaskRec → TaskRec) : (s.modRec k f).waits = s.waits := rfl
@[simp] theorem State.modRec_windows (s : State) (k : Nat) (f : TaskRec → TaskRec) : (s.modRec k f).windows = s.windows := rfl
@[simp] theorem State.modRec_extents (s : State) (k : Nat) (f : TaskRec → TaskRec) : (s.modRec k f).extents = s.extents := rfl
@[simp] theorem State.modRec_peerMem (s : State) (k : Nat) (f : TaskRec → TaskRec) : (s.modRec k f).peerMem = s.peerMem := rfl
@[simp] theorem State.modRec_credits (s : State) (k : Nat) (f : TaskRec → TaskRec) : (s.modRec k f).credits = s.credits := rfl
@[simp] theorem State.modRec_disps (s : State) (k : Nat) (f : TaskRec → TaskRec) : (s.modRec k f).disps = s.disps := rfl
@[simp] theorem State.modRec_saddle (s : State) (k : Nat) (f : TaskRec → TaskRec) : (s.modRec k f).saddle = s.saddle := rfl
@[simp] theorem State.modRec_amax (s : State) (k : Nat) (f : TaskRec → TaskRec) : (s.modRec k f).amax = s.amax := rfl
@[simp] theorem State.modRec_ringsOut (s : State) (k : Nat) (f : TaskRec → TaskRec) : (s.modRec k f).ringsOut = s.ringsOut := rfl
@[simp] theorem State.modRec_agenda (s : State) (k : Nat) (f : TaskRec → TaskRec) : (s.modRec k f).agenda = s.agenda := rfl
@[simp] theorem State.modRec_turns (s : State) (k : Nat) (f : TaskRec → TaskRec) : (s.modRec k f).turns = s.turns := rfl

@[simp] theorem State.setRing_cur (s : State) (c k : Nat) (r : Ring) : (s.setRing c k r).cur = s.cur := rfl
@[simp] theorem State.setRing_fresh (s : State) (c k : Nat) (r : Ring) : (s.setRing c k r).fresh = s.fresh := rfl
@[simp] theorem State.setRing_time (s : State) (c k : Nat) (r : Ring) : (s.setRing c k r).time = s.time := rfl
@[simp] theorem State.setRing_agents (s : State) (c k : Nat) (r : Ring) : (s.setRing c k r).agents = s.agents := rfl
@[simp] theorem State.setRing_groups (s : State) (c k : Nat) (r : Ring) : (s.setRing c k r).groups = s.groups := rfl
@[simp] theorem State.setRing_mus (s : State) (c k : Nat) (r : Ring) : (s.setRing c k r).mus = s.mus := rfl
@[simp] theorem State.setRing_recs (s : State) (c k : Nat) (r : Ring) : (s.setRing c k r).recs = s.recs := rfl
@[simp] theorem State.setRing_launches (s : State) (c k : Nat) (r : Ring) : (s.setRing c k r).launches = s.launches := rfl
@[simp] theorem State.setRing_packets (s : State) (c k : Nat) (r : Ring) : (s.setRing c k r).packets = s.packets := rfl
@[simp] theorem State.setRing_parts (s : State) (c k : Nat) (r : Ring) : (s.setRing c k r).parts = s.parts := rfl
@[simp] theorem State.setRing_mem (s : State) (c k : Nat) (r : Ring) : (s.setRing c k r).mem = s.mem := rfl
@[simp] theorem State.setRing_hostMem (s : State) (c k : Nat) (r : Ring) : (s.setRing c k r).hostMem = s.hostMem := rfl
@[simp] theorem State.setRing_dirty (s : State) (c k : Nat) (r : Ring) : (s.setRing c k r).dirty = s.dirty := rfl
@[simp] theorem State.setRing_poison (s : State) (c k : Nat) (r : Ring) : (s.setRing c k r).poison = s.poison := rfl
@[simp] theorem State.setRing_vfs (s : State) (c k : Nat) (r : Ring) : (s.setRing c k r).vfs = s.vfs := rfl
@[simp] theorem State.setRing_chiplets (s : State) (c k : Nat) (r : Ring) : (s.setRing c k r).chiplets = s.chiplets := rfl
@[simp] theorem State.setRing_purses (s : State) (c k : Nat) (r : Ring) : (s.setRing c k r).purses = s.purses := rfl
@[simp] theorem State.setRing_engines (s : State) (c k : Nat) (r : Ring) : (s.setRing c k r).engines = s.engines := rfl
@[simp] theorem State.setRing_nextId (s : State) (c k : Nat) (r : Ring) : (s.setRing c k r).nextId = s.nextId := rfl
@[simp] theorem State.setRing_journal (s : State) (c k : Nat) (r : Ring) : (s.setRing c k r).journal = s.journal := rfl
@[simp] theorem State.setRing_sent (s : State) (c k : Nat) (r : Ring) : (s.setRing c k r).sent = s.sent := rfl
@[simp] theorem State.setRing_events (s : State) (c k : Nat) (r : Ring) : (s.setRing c k r).events = s.events := rfl
@[simp] theorem State.setRing_counters (s : State) (c k : Nat) (r : Ring) : (s.setRing c k r).counters = s.counters := rfl
@[simp] theorem State.setRing_nodes (s : State) (c k : Nat) (r : Ring) : (s.setRing c k r).nodes = s.nodes := rfl
@[simp] theorem State.setRing_broken (s : State) (c k : Nat) (r : Ring) : (s.setRing c k r).broken = s.broken := rfl
@[simp] theorem State.setRing_tlb (s : State) (c k : Nat) (r : Ring) : (s.setRing c k r).tlb = s.tlb := rfl
@[simp] theorem State.setRing_ats (s : State) (c k : Nat) (r : Ring) : (s.setRing c k r).ats = s.ats := rfl
@[simp] theorem State.setRing_waits (s : State) (c k : Nat) (r : Ring) : (s.setRing c k r).waits = s.waits := rfl
@[simp] theorem State.setRing_windows (s : State) (c k : Nat) (r : Ring) : (s.setRing c k r).windows = s.windows := rfl
@[simp] theorem State.setRing_extents (s : State) (c k : Nat) (r : Ring) : (s.setRing c k r).extents = s.extents := rfl
@[simp] theorem State.setRing_peerMem (s : State) (c k : Nat) (r : Ring) : (s.setRing c k r).peerMem = s.peerMem := rfl
@[simp] theorem State.setRing_credits (s : State) (c k : Nat) (r : Ring) : (s.setRing c k r).credits = s.credits := rfl
@[simp] theorem State.setRing_disps (s : State) (c k : Nat) (r : Ring) : (s.setRing c k r).disps = s.disps := rfl
@[simp] theorem State.setRing_saddle (s : State) (c k : Nat) (r : Ring) : (s.setRing c k r).saddle = s.saddle := rfl
@[simp] theorem State.setRing_amax (s : State) (c k : Nat) (r : Ring) : (s.setRing c k r).amax = s.amax := rfl
@[simp] theorem State.setRing_ringsOut (s : State) (c k : Nat) (r : Ring) : (s.setRing c k r).ringsOut = s.ringsOut := rfl
@[simp] theorem State.setRing_agenda (s : State) (c k : Nat) (r : Ring) : (s.setRing c k r).agenda = s.agenda := rfl
@[simp] theorem State.setRing_turns (s : State) (c k : Nat) (r : Ring) : (s.setRing c k r).turns = s.turns := rfl

@[simp] theorem State.setMu_cur (s : State) (k : Nat) (m : Mu) : (s.setMu k m).cur = s.cur := rfl
@[simp] theorem State.setMu_fresh (s : State) (k : Nat) (m : Mu) : (s.setMu k m).fresh = s.fresh := rfl
@[simp] theorem State.setMu_time (s : State) (k : Nat) (m : Mu) : (s.setMu k m).time = s.time := rfl
@[simp] theorem State.setMu_agents (s : State) (k : Nat) (m : Mu) : (s.setMu k m).agents = s.agents := rfl
@[simp] theorem State.setMu_groups (s : State) (k : Nat) (m : Mu) : (s.setMu k m).groups = s.groups := rfl
@[simp] theorem State.setMu_rings (s : State) (k : Nat) (m : Mu) : (s.setMu k m).rings = s.rings := rfl
@[simp] theorem State.setMu_recs (s : State) (k : Nat) (m : Mu) : (s.setMu k m).recs = s.recs := rfl
@[simp] theorem State.setMu_launches (s : State) (k : Nat) (m : Mu) : (s.setMu k m).launches = s.launches := rfl
@[simp] theorem State.setMu_packets (s : State) (k : Nat) (m : Mu) : (s.setMu k m).packets = s.packets := rfl
@[simp] theorem State.setMu_parts (s : State) (k : Nat) (m : Mu) : (s.setMu k m).parts = s.parts := rfl
@[simp] theorem State.setMu_mem (s : State) (k : Nat) (m : Mu) : (s.setMu k m).mem = s.mem := rfl
@[simp] theorem State.setMu_hostMem (s : State) (k : Nat) (m : Mu) : (s.setMu k m).hostMem = s.hostMem := rfl
@[simp] theorem State.setMu_dirty (s : State) (k : Nat) (m : Mu) : (s.setMu k m).dirty = s.dirty := rfl
@[simp] theorem State.setMu_poison (s : State) (k : Nat) (m : Mu) : (s.setMu k m).poison = s.poison := rfl
@[simp] theorem State.setMu_vfs (s : State) (k : Nat) (m : Mu) : (s.setMu k m).vfs = s.vfs := rfl
@[simp] theorem State.setMu_chiplets (s : State) (k : Nat) (m : Mu) : (s.setMu k m).chiplets = s.chiplets := rfl
@[simp] theorem State.setMu_purses (s : State) (k : Nat) (m : Mu) : (s.setMu k m).purses = s.purses := rfl
@[simp] theorem State.setMu_engines (s : State) (k : Nat) (m : Mu) : (s.setMu k m).engines = s.engines := rfl
@[simp] theorem State.setMu_nextId (s : State) (k : Nat) (m : Mu) : (s.setMu k m).nextId = s.nextId := rfl
@[simp] theorem State.setMu_journal (s : State) (k : Nat) (m : Mu) : (s.setMu k m).journal = s.journal := rfl
@[simp] theorem State.setMu_sent (s : State) (k : Nat) (m : Mu) : (s.setMu k m).sent = s.sent := rfl
@[simp] theorem State.setMu_events (s : State) (k : Nat) (m : Mu) : (s.setMu k m).events = s.events := rfl
@[simp] theorem State.setMu_counters (s : State) (k : Nat) (m : Mu) : (s.setMu k m).counters = s.counters := rfl
@[simp] theorem State.setMu_nodes (s : State) (k : Nat) (m : Mu) : (s.setMu k m).nodes = s.nodes := rfl
@[simp] theorem State.setMu_broken (s : State) (k : Nat) (m : Mu) : (s.setMu k m).broken = s.broken := rfl
@[simp] theorem State.setMu_tlb (s : State) (k : Nat) (m : Mu) : (s.setMu k m).tlb = s.tlb := rfl
@[simp] theorem State.setMu_ats (s : State) (k : Nat) (m : Mu) : (s.setMu k m).ats = s.ats := rfl
@[simp] theorem State.setMu_waits (s : State) (k : Nat) (m : Mu) : (s.setMu k m).waits = s.waits := rfl
@[simp] theorem State.setMu_windows (s : State) (k : Nat) (m : Mu) : (s.setMu k m).windows = s.windows := rfl
@[simp] theorem State.setMu_extents (s : State) (k : Nat) (m : Mu) : (s.setMu k m).extents = s.extents := rfl
@[simp] theorem State.setMu_peerMem (s : State) (k : Nat) (m : Mu) : (s.setMu k m).peerMem = s.peerMem := rfl
@[simp] theorem State.setMu_credits (s : State) (k : Nat) (m : Mu) : (s.setMu k m).credits = s.credits := rfl
@[simp] theorem State.setMu_disps (s : State) (k : Nat) (m : Mu) : (s.setMu k m).disps = s.disps := rfl
@[simp] theorem State.setMu_saddle (s : State) (k : Nat) (m : Mu) : (s.setMu k m).saddle = s.saddle := rfl
@[simp] theorem State.setMu_amax (s : State) (k : Nat) (m : Mu) : (s.setMu k m).amax = s.amax := rfl
@[simp] theorem State.setMu_ringsOut (s : State) (k : Nat) (m : Mu) : (s.setMu k m).ringsOut = s.ringsOut := rfl
@[simp] theorem State.setMu_agenda (s : State) (k : Nat) (m : Mu) : (s.setMu k m).agenda = s.agenda := rfl
@[simp] theorem State.setMu_turns (s : State) (k : Nat) (m : Mu) : (s.setMu k m).turns = s.turns := rfl

@[simp] theorem State.setEngQ_cur (s : State) (c : Nat) (se : Bool) (q : List EngCmd) : (s.setEngQ c se q).cur = s.cur := rfl
@[simp] theorem State.setEngQ_fresh (s : State) (c : Nat) (se : Bool) (q : List EngCmd) : (s.setEngQ c se q).fresh = s.fresh := rfl
@[simp] theorem State.setEngQ_time (s : State) (c : Nat) (se : Bool) (q : List EngCmd) : (s.setEngQ c se q).time = s.time := rfl
@[simp] theorem State.setEngQ_agents (s : State) (c : Nat) (se : Bool) (q : List EngCmd) : (s.setEngQ c se q).agents = s.agents := rfl
@[simp] theorem State.setEngQ_groups (s : State) (c : Nat) (se : Bool) (q : List EngCmd) : (s.setEngQ c se q).groups = s.groups := rfl
@[simp] theorem State.setEngQ_rings (s : State) (c : Nat) (se : Bool) (q : List EngCmd) : (s.setEngQ c se q).rings = s.rings := rfl
@[simp] theorem State.setEngQ_mus (s : State) (c : Nat) (se : Bool) (q : List EngCmd) : (s.setEngQ c se q).mus = s.mus := rfl
@[simp] theorem State.setEngQ_recs (s : State) (c : Nat) (se : Bool) (q : List EngCmd) : (s.setEngQ c se q).recs = s.recs := rfl
@[simp] theorem State.setEngQ_launches (s : State) (c : Nat) (se : Bool) (q : List EngCmd) : (s.setEngQ c se q).launches = s.launches := rfl
@[simp] theorem State.setEngQ_packets (s : State) (c : Nat) (se : Bool) (q : List EngCmd) : (s.setEngQ c se q).packets = s.packets := rfl
@[simp] theorem State.setEngQ_parts (s : State) (c : Nat) (se : Bool) (q : List EngCmd) : (s.setEngQ c se q).parts = s.parts := rfl
@[simp] theorem State.setEngQ_mem (s : State) (c : Nat) (se : Bool) (q : List EngCmd) : (s.setEngQ c se q).mem = s.mem := rfl
@[simp] theorem State.setEngQ_hostMem (s : State) (c : Nat) (se : Bool) (q : List EngCmd) : (s.setEngQ c se q).hostMem = s.hostMem := rfl
@[simp] theorem State.setEngQ_dirty (s : State) (c : Nat) (se : Bool) (q : List EngCmd) : (s.setEngQ c se q).dirty = s.dirty := rfl
@[simp] theorem State.setEngQ_poison (s : State) (c : Nat) (se : Bool) (q : List EngCmd) : (s.setEngQ c se q).poison = s.poison := rfl
@[simp] theorem State.setEngQ_vfs (s : State) (c : Nat) (se : Bool) (q : List EngCmd) : (s.setEngQ c se q).vfs = s.vfs := rfl
@[simp] theorem State.setEngQ_chiplets (s : State) (c : Nat) (se : Bool) (q : List EngCmd) : (s.setEngQ c se q).chiplets = s.chiplets := rfl
@[simp] theorem State.setEngQ_purses (s : State) (c : Nat) (se : Bool) (q : List EngCmd) : (s.setEngQ c se q).purses = s.purses := rfl
@[simp] theorem State.setEngQ_nextId (s : State) (c : Nat) (se : Bool) (q : List EngCmd) : (s.setEngQ c se q).nextId = s.nextId := rfl
@[simp] theorem State.setEngQ_journal (s : State) (c : Nat) (se : Bool) (q : List EngCmd) : (s.setEngQ c se q).journal = s.journal := rfl
@[simp] theorem State.setEngQ_sent (s : State) (c : Nat) (se : Bool) (q : List EngCmd) : (s.setEngQ c se q).sent = s.sent := rfl
@[simp] theorem State.setEngQ_events (s : State) (c : Nat) (se : Bool) (q : List EngCmd) : (s.setEngQ c se q).events = s.events := rfl
@[simp] theorem State.setEngQ_counters (s : State) (c : Nat) (se : Bool) (q : List EngCmd) : (s.setEngQ c se q).counters = s.counters := rfl
@[simp] theorem State.setEngQ_nodes (s : State) (c : Nat) (se : Bool) (q : List EngCmd) : (s.setEngQ c se q).nodes = s.nodes := rfl
@[simp] theorem State.setEngQ_broken (s : State) (c : Nat) (se : Bool) (q : List EngCmd) : (s.setEngQ c se q).broken = s.broken := rfl
@[simp] theorem State.setEngQ_tlb (s : State) (c : Nat) (se : Bool) (q : List EngCmd) : (s.setEngQ c se q).tlb = s.tlb := rfl
@[simp] theorem State.setEngQ_ats (s : State) (c : Nat) (se : Bool) (q : List EngCmd) : (s.setEngQ c se q).ats = s.ats := rfl
@[simp] theorem State.setEngQ_waits (s : State) (c : Nat) (se : Bool) (q : List EngCmd) : (s.setEngQ c se q).waits = s.waits := rfl
@[simp] theorem State.setEngQ_windows (s : State) (c : Nat) (se : Bool) (q : List EngCmd) : (s.setEngQ c se q).windows = s.windows := rfl
@[simp] theorem State.setEngQ_extents (s : State) (c : Nat) (se : Bool) (q : List EngCmd) : (s.setEngQ c se q).extents = s.extents := rfl
@[simp] theorem State.setEngQ_peerMem (s : State) (c : Nat) (se : Bool) (q : List EngCmd) : (s.setEngQ c se q).peerMem = s.peerMem := rfl
@[simp] theorem State.setEngQ_credits (s : State) (c : Nat) (se : Bool) (q : List EngCmd) : (s.setEngQ c se q).credits = s.credits := rfl
@[simp] theorem State.setEngQ_disps (s : State) (c : Nat) (se : Bool) (q : List EngCmd) : (s.setEngQ c se q).disps = s.disps := rfl
@[simp] theorem State.setEngQ_saddle (s : State) (c : Nat) (se : Bool) (q : List EngCmd) : (s.setEngQ c se q).saddle = s.saddle := rfl
@[simp] theorem State.setEngQ_amax (s : State) (c : Nat) (se : Bool) (q : List EngCmd) : (s.setEngQ c se q).amax = s.amax := rfl
@[simp] theorem State.setEngQ_ringsOut (s : State) (c : Nat) (se : Bool) (q : List EngCmd) : (s.setEngQ c se q).ringsOut = s.ringsOut := rfl
@[simp] theorem State.setEngQ_agenda (s : State) (c : Nat) (se : Bool) (q : List EngCmd) : (s.setEngQ c se q).agenda = s.agenda := rfl
@[simp] theorem State.setEngQ_turns (s : State) (c : Nat) (se : Bool) (q : List EngCmd) : (s.setEngQ c se q).turns = s.turns := rfl

@[simp] theorem State.setChiplet_cur (s : State) (c : Nat) (x : Chiplet) : (s.setChiplet c x).cur = s.cur := rfl
@[simp] theorem State.setChiplet_fresh (s : State) (c : Nat) (x : Chiplet) : (s.setChiplet c x).fresh = s.fresh := rfl
@[simp] theorem State.setChiplet_time (s : State) (c : Nat) (x : Chiplet) : (s.setChiplet c x).time = s.time := rfl
@[simp] theorem State.setChiplet_agents (s : State) (c : Nat) (x : Chiplet) : (s.setChiplet c x).agents = s.agents := rfl
@[simp] theorem State.setChiplet_groups (s : State) (c : Nat) (x : Chiplet) : (s.setChiplet c x).groups = s.groups := rfl
@[simp] theorem State.setChiplet_rings (s : State) (c : Nat) (x : Chiplet) : (s.setChiplet c x).rings = s.rings := rfl
@[simp] theorem State.setChiplet_mus (s : State) (c : Nat) (x : Chiplet) : (s.setChiplet c x).mus = s.mus := rfl
@[simp] theorem State.setChiplet_recs (s : State) (c : Nat) (x : Chiplet) : (s.setChiplet c x).recs = s.recs := rfl
@[simp] theorem State.setChiplet_launches (s : State) (c : Nat) (x : Chiplet) : (s.setChiplet c x).launches = s.launches := rfl
@[simp] theorem State.setChiplet_packets (s : State) (c : Nat) (x : Chiplet) : (s.setChiplet c x).packets = s.packets := rfl
@[simp] theorem State.setChiplet_parts (s : State) (c : Nat) (x : Chiplet) : (s.setChiplet c x).parts = s.parts := rfl
@[simp] theorem State.setChiplet_mem (s : State) (c : Nat) (x : Chiplet) : (s.setChiplet c x).mem = s.mem := rfl
@[simp] theorem State.setChiplet_hostMem (s : State) (c : Nat) (x : Chiplet) : (s.setChiplet c x).hostMem = s.hostMem := rfl
@[simp] theorem State.setChiplet_dirty (s : State) (c : Nat) (x : Chiplet) : (s.setChiplet c x).dirty = s.dirty := rfl
@[simp] theorem State.setChiplet_poison (s : State) (c : Nat) (x : Chiplet) : (s.setChiplet c x).poison = s.poison := rfl
@[simp] theorem State.setChiplet_vfs (s : State) (c : Nat) (x : Chiplet) : (s.setChiplet c x).vfs = s.vfs := rfl
@[simp] theorem State.setChiplet_purses (s : State) (c : Nat) (x : Chiplet) : (s.setChiplet c x).purses = s.purses := rfl
@[simp] theorem State.setChiplet_engines (s : State) (c : Nat) (x : Chiplet) : (s.setChiplet c x).engines = s.engines := rfl
@[simp] theorem State.setChiplet_nextId (s : State) (c : Nat) (x : Chiplet) : (s.setChiplet c x).nextId = s.nextId := rfl
@[simp] theorem State.setChiplet_journal (s : State) (c : Nat) (x : Chiplet) : (s.setChiplet c x).journal = s.journal := rfl
@[simp] theorem State.setChiplet_sent (s : State) (c : Nat) (x : Chiplet) : (s.setChiplet c x).sent = s.sent := rfl
@[simp] theorem State.setChiplet_events (s : State) (c : Nat) (x : Chiplet) : (s.setChiplet c x).events = s.events := rfl
@[simp] theorem State.setChiplet_counters (s : State) (c : Nat) (x : Chiplet) : (s.setChiplet c x).counters = s.counters := rfl
@[simp] theorem State.setChiplet_nodes (s : State) (c : Nat) (x : Chiplet) : (s.setChiplet c x).nodes = s.nodes := rfl
@[simp] theorem State.setChiplet_broken (s : State) (c : Nat) (x : Chiplet) : (s.setChiplet c x).broken = s.broken := rfl
@[simp] theorem State.setChiplet_tlb (s : State) (c : Nat) (x : Chiplet) : (s.setChiplet c x).tlb = s.tlb := rfl
@[simp] theorem State.setChiplet_ats (s : State) (c : Nat) (x : Chiplet) : (s.setChiplet c x).ats = s.ats := rfl
@[simp] theorem State.setChiplet_waits (s : State) (c : Nat) (x : Chiplet) : (s.setChiplet c x).waits = s.waits := rfl
@[simp] theorem State.setChiplet_windows (s : State) (c : Nat) (x : Chiplet) : (s.setChiplet c x).windows = s.windows := rfl
@[simp] theorem State.setChiplet_extents (s : State) (c : Nat) (x : Chiplet) : (s.setChiplet c x).extents = s.extents := rfl
@[simp] theorem State.setChiplet_peerMem (s : State) (c : Nat) (x : Chiplet) : (s.setChiplet c x).peerMem = s.peerMem := rfl
@[simp] theorem State.setChiplet_credits (s : State) (c : Nat) (x : Chiplet) : (s.setChiplet c x).credits = s.credits := rfl
@[simp] theorem State.setChiplet_disps (s : State) (c : Nat) (x : Chiplet) : (s.setChiplet c x).disps = s.disps := rfl
@[simp] theorem State.setChiplet_saddle (s : State) (c : Nat) (x : Chiplet) : (s.setChiplet c x).saddle = s.saddle := rfl
@[simp] theorem State.setChiplet_amax (s : State) (c : Nat) (x : Chiplet) : (s.setChiplet c x).amax = s.amax := rfl
@[simp] theorem State.setChiplet_ringsOut (s : State) (c : Nat) (x : Chiplet) : (s.setChiplet c x).ringsOut = s.ringsOut := rfl
@[simp] theorem State.setChiplet_agenda (s : State) (c : Nat) (x : Chiplet) : (s.setChiplet c x).agenda = s.agenda := rfl
@[simp] theorem State.setChiplet_turns (s : State) (c : Nat) (x : Chiplet) : (s.setChiplet c x).turns = s.turns := rfl

@[simp] theorem State.setPurse_cur (s : State) (c q : Nat) (p : Purse) : (s.setPurse c q p).cur = s.cur := rfl
@[simp] theorem State.setPurse_fresh (s : State) (c q : Nat) (p : Purse) : (s.setPurse c q p).fresh = s.fresh := rfl
@[simp] theorem State.setPurse_time (s : State) (c q : Nat) (p : Purse) : (s.setPurse c q p).time = s.time := rfl
@[simp] theorem State.setPurse_agents (s : State) (c q : Nat) (p : Purse) : (s.setPurse c q p).agents = s.agents := rfl
@[simp] theorem State.setPurse_groups (s : State) (c q : Nat) (p : Purse) : (s.setPurse c q p).groups = s.groups := rfl
@[simp] theorem State.setPurse_rings (s : State) (c q : Nat) (p : Purse) : (s.setPurse c q p).rings = s.rings := rfl
@[simp] theorem State.setPurse_mus (s : State) (c q : Nat) (p : Purse) : (s.setPurse c q p).mus = s.mus := rfl
@[simp] theorem State.setPurse_recs (s : State) (c q : Nat) (p : Purse) : (s.setPurse c q p).recs = s.recs := rfl
@[simp] theorem State.setPurse_launches (s : State) (c q : Nat) (p : Purse) : (s.setPurse c q p).launches = s.launches := rfl
@[simp] theorem State.setPurse_packets (s : State) (c q : Nat) (p : Purse) : (s.setPurse c q p).packets = s.packets := rfl
@[simp] theorem State.setPurse_parts (s : State) (c q : Nat) (p : Purse) : (s.setPurse c q p).parts = s.parts := rfl
@[simp] theorem State.setPurse_mem (s : State) (c q : Nat) (p : Purse) : (s.setPurse c q p).mem = s.mem := rfl
@[simp] theorem State.setPurse_hostMem (s : State) (c q : Nat) (p : Purse) : (s.setPurse c q p).hostMem = s.hostMem := rfl
@[simp] theorem State.setPurse_dirty (s : State) (c q : Nat) (p : Purse) : (s.setPurse c q p).dirty = s.dirty := rfl
@[simp] theorem State.setPurse_poison (s : State) (c q : Nat) (p : Purse) : (s.setPurse c q p).poison = s.poison := rfl
@[simp] theorem State.setPurse_vfs (s : State) (c q : Nat) (p : Purse) : (s.setPurse c q p).vfs = s.vfs := rfl
@[simp] theorem State.setPurse_chiplets (s : State) (c q : Nat) (p : Purse) : (s.setPurse c q p).chiplets = s.chiplets := rfl
@[simp] theorem State.setPurse_engines (s : State) (c q : Nat) (p : Purse) : (s.setPurse c q p).engines = s.engines := rfl
@[simp] theorem State.setPurse_nextId (s : State) (c q : Nat) (p : Purse) : (s.setPurse c q p).nextId = s.nextId := rfl
@[simp] theorem State.setPurse_journal (s : State) (c q : Nat) (p : Purse) : (s.setPurse c q p).journal = s.journal := rfl
@[simp] theorem State.setPurse_sent (s : State) (c q : Nat) (p : Purse) : (s.setPurse c q p).sent = s.sent := rfl
@[simp] theorem State.setPurse_events (s : State) (c q : Nat) (p : Purse) : (s.setPurse c q p).events = s.events := rfl
@[simp] theorem State.setPurse_counters (s : State) (c q : Nat) (p : Purse) : (s.setPurse c q p).counters = s.counters := rfl
@[simp] theorem State.setPurse_nodes (s : State) (c q : Nat) (p : Purse) : (s.setPurse c q p).nodes = s.nodes := rfl
@[simp] theorem State.setPurse_broken (s : State) (c q : Nat) (p : Purse) : (s.setPurse c q p).broken = s.broken := rfl
@[simp] theorem State.setPurse_tlb (s : State) (c q : Nat) (p : Purse) : (s.setPurse c q p).tlb = s.tlb := rfl
@[simp] theorem State.setPurse_ats (s : State) (c q : Nat) (p : Purse) : (s.setPurse c q p).ats = s.ats := rfl
@[simp] theorem State.setPurse_waits (s : State) (c q : Nat) (p : Purse) : (s.setPurse c q p).waits = s.waits := rfl
@[simp] theorem State.setPurse_windows (s : State) (c q : Nat) (p : Purse) : (s.setPurse c q p).windows = s.windows := rfl
@[simp] theorem State.setPurse_extents (s : State) (c q : Nat) (p : Purse) : (s.setPurse c q p).extents = s.extents := rfl
@[simp] theorem State.setPurse_peerMem (s : State) (c q : Nat) (p : Purse) : (s.setPurse c q p).peerMem = s.peerMem := rfl
@[simp] theorem State.setPurse_credits (s : State) (c q : Nat) (p : Purse) : (s.setPurse c q p).credits = s.credits := rfl
@[simp] theorem State.setPurse_disps (s : State) (c q : Nat) (p : Purse) : (s.setPurse c q p).disps = s.disps := rfl
@[simp] theorem State.setPurse_saddle (s : State) (c q : Nat) (p : Purse) : (s.setPurse c q p).saddle = s.saddle := rfl
@[simp] theorem State.setPurse_amax (s : State) (c q : Nat) (p : Purse) : (s.setPurse c q p).amax = s.amax := rfl
@[simp] theorem State.setPurse_ringsOut (s : State) (c q : Nat) (p : Purse) : (s.setPurse c q p).ringsOut = s.ringsOut := rfl
@[simp] theorem State.setPurse_agenda (s : State) (c q : Nat) (p : Purse) : (s.setPurse c q p).agenda = s.agenda := rfl
@[simp] theorem State.setPurse_turns (s : State) (c q : Nat) (p : Purse) : (s.setPurse c q p).turns = s.turns := rfl

@[simp] theorem Agent.setSlot_kind (a : Agent) (b : Bool) (x : Slot) : (a.setSlot b x).kind = a.kind := by cases b <;> rfl
@[simp] theorem Agent.setSlot_vf (a : Agent) (b : Bool) (x : Slot) : (a.setSlot b x).vf = a.vf := by cases b <;> rfl
@[simp] theorem Agent.setSlot_ctx (a : Agent) (b : Bool) (x : Slot) : (a.setSlot b x).ctx = a.ctx := by cases b <;> rfl
@[simp] theorem Agent.setSlot_launch (a : Agent) (b : Bool) (x : Slot) : (a.setSlot b x).launch = a.launch := by cases b <;> rfl
@[simp] theorem Agent.setSlot_group (a : Agent) (b : Bool) (x : Slot) : (a.setSlot b x).group = a.group := by cases b <;> rfl
@[simp] theorem Agent.setSlot_warp (a : Agent) (b : Bool) (x : Slot) : (a.setSlot b x).warp = a.warp := by cases b <;> rfl
@[simp] theorem Agent.setSlot_cluster (a : Agent) (b : Bool) (x : Slot) : (a.setSlot b x).cluster = a.cluster := by cases b <;> rfl
@[simp] theorem Agent.setSlot_core (a : Agent) (b : Bool) (x : Slot) : (a.setSlot b x).core = a.core := by cases b <;> rfl
@[simp] theorem Agent.setSlot_width (a : Agent) (b : Bool) (x : Slot) : (a.setSlot b x).width = a.width := by cases b <;> rfl
@[simp] theorem Agent.setSlot_live (a : Agent) (b : Bool) (x : Slot) : (a.setSlot b x).live = a.live := by cases b <;> rfl
@[simp] theorem Agent.setSlot_nregs (a : Agent) (b : Bool) (x : Slot) : (a.setSlot b x).nregs = a.nregs := by cases b <;> rfl
@[simp] theorem Agent.setSlot_vregs (a : Agent) (b : Bool) (x : Slot) : (a.setSlot b x).vregs = a.vregs := by cases b <;> rfl
@[simp] theorem Agent.setSlot_sregs (a : Agent) (b : Bool) (x : Slot) : (a.setSlot b x).sregs = a.sregs := by cases b <;> rfl
@[simp] theorem Agent.setSlot_preds (a : Agent) (b : Bool) (x : Slot) : (a.setSlot b x).preds = a.preds := by cases b <;> rfl
@[simp] theorem Agent.setSlot_flags (a : Agent) (b : Bool) (x : Slot) : (a.setSlot b x).flags = a.flags := by cases b <;> rfl
@[simp] theorem Agent.setSlot_fpc (a : Agent) (b : Bool) (x : Slot) : (a.setSlot b x).fpc = a.fpc := by cases b <;> rfl
@[simp] theorem Agent.setSlot_dsb (a : Agent) (b : Bool) (x : Slot) : (a.setSlot b x).dsb = a.dsb := by cases b <;> rfl
@[simp] theorem Agent.setSlot_dsn (a : Agent) (b : Bool) (x : Slot) : (a.setSlot b x).dsn = a.dsn := by cases b <;> rfl
@[simp] theorem Agent.setSlot_handler (a : Agent) (b : Bool) (x : Slot) : (a.setSlot b x).handler = a.handler := by cases b <;> rfl
@[simp] theorem Agent.setSlot_ops (a : Agent) (b : Bool) (x : Slot) : (a.setSlot b x).ops = a.ops := by cases b <;> rfl
@[simp] theorem Agent.setSlot_traps (a : Agent) (b : Bool) (x : Slot) : (a.setSlot b x).traps = a.traps := by cases b <;> rfl
@[simp] theorem Agent.setSlot_granules (a : Agent) (b : Bool) (x : Slot) : (a.setSlot b x).granules = a.granules := by cases b <;> rfl
@[simp] theorem Agent.setSlot_units (a : Agent) (b : Bool) (x : Slot) : (a.setSlot b x).units = a.units := by cases b <;> rfl
@[simp] theorem Agent.setSlot_staging (a : Agent) (b : Bool) (x : Slot) : (a.setSlot b x).staging = a.staging := by cases b <;> rfl
@[simp] theorem Agent.setSlot_cyc (a : Agent) (b : Bool) (x : Slot) : (a.setSlot b x).cyc = a.cyc := by cases b <;> rfl
@[simp] theorem Agent.setSlot_begun (a : Agent) (b : Bool) (x : Slot) : (a.setSlot b x).begun = a.begun := by cases b <;> rfl
@[simp] theorem Agent.setSlot_asked (a : Agent) (b : Bool) (x : Slot) : (a.setSlot b x).asked = a.asked := by cases b <;> rfl
@[simp] theorem Agent.setSlot_owed (a : Agent) (b : Bool) (x : Slot) : (a.setSlot b x).owed = a.owed := by cases b <;> rfl
@[simp] theorem Agent.setSlot_tasks (a : Agent) (b : Bool) (x : Slot) : (a.setSlot b x).tasks = a.tasks := by cases b <;> rfl
@[simp] theorem Agent.setSlot_halted (a : Agent) (b : Bool) (x : Slot) : (a.setSlot b x).halted = a.halted := by cases b <;> rfl
@[simp] theorem Agent.setSlot_spilt (a : Agent) (b : Bool) (x : Slot) : (a.setSlot b x).spilt = a.spilt := by cases b <;> rfl
@[simp] theorem Agent.setSlot_unfilled (a : Agent) (b : Bool) (x : Slot) : (a.setSlot b x).unfilled = a.unfilled := by cases b <;> rfl
@[simp] theorem Agent.setSlot_saved (a : Agent) (b : Bool) (x : Slot) : (a.setSlot b x).saved = a.saved := by cases b <;> rfl

@[simp] theorem Agent.setPath_kind (a : Agent) (b : Bool) (p : Option Path) : (a.setPath b p).kind = a.kind := by cases b <;> rfl
@[simp] theorem Agent.setPath_vf (a : Agent) (b : Bool) (p : Option Path) : (a.setPath b p).vf = a.vf := by cases b <;> rfl
@[simp] theorem Agent.setPath_ctx (a : Agent) (b : Bool) (p : Option Path) : (a.setPath b p).ctx = a.ctx := by cases b <;> rfl
@[simp] theorem Agent.setPath_launch (a : Agent) (b : Bool) (p : Option Path) : (a.setPath b p).launch = a.launch := by cases b <;> rfl
@[simp] theorem Agent.setPath_group (a : Agent) (b : Bool) (p : Option Path) : (a.setPath b p).group = a.group := by cases b <;> rfl
@[simp] theorem Agent.setPath_warp (a : Agent) (b : Bool) (p : Option Path) : (a.setPath b p).warp = a.warp := by cases b <;> rfl
@[simp] theorem Agent.setPath_cluster (a : Agent) (b : Bool) (p : Option Path) : (a.setPath b p).cluster = a.cluster := by cases b <;> rfl
@[simp] theorem Agent.setPath_core (a : Agent) (b : Bool) (p : Option Path) : (a.setPath b p).core = a.core := by cases b <;> rfl
@[simp] theorem Agent.setPath_width (a : Agent) (b : Bool) (p : Option Path) : (a.setPath b p).width = a.width := by cases b <;> rfl
@[simp] theorem Agent.setPath_live (a : Agent) (b : Bool) (p : Option Path) : (a.setPath b p).live = a.live := by cases b <;> rfl
@[simp] theorem Agent.setPath_nregs (a : Agent) (b : Bool) (p : Option Path) : (a.setPath b p).nregs = a.nregs := by cases b <;> rfl
@[simp] theorem Agent.setPath_vregs (a : Agent) (b : Bool) (p : Option Path) : (a.setPath b p).vregs = a.vregs := by cases b <;> rfl
@[simp] theorem Agent.setPath_sregs (a : Agent) (b : Bool) (p : Option Path) : (a.setPath b p).sregs = a.sregs := by cases b <;> rfl
@[simp] theorem Agent.setPath_preds (a : Agent) (b : Bool) (p : Option Path) : (a.setPath b p).preds = a.preds := by cases b <;> rfl
@[simp] theorem Agent.setPath_flags (a : Agent) (b : Bool) (p : Option Path) : (a.setPath b p).flags = a.flags := by cases b <;> rfl
@[simp] theorem Agent.setPath_fpc (a : Agent) (b : Bool) (p : Option Path) : (a.setPath b p).fpc = a.fpc := by cases b <;> rfl
@[simp] theorem Agent.setPath_stack (a : Agent) (b : Bool) (p : Option Path) : (a.setPath b p).stack = a.stack := by cases b <;> rfl
@[simp] theorem Agent.setPath_dsb (a : Agent) (b : Bool) (p : Option Path) : (a.setPath b p).dsb = a.dsb := by cases b <;> rfl
@[simp] theorem Agent.setPath_dsn (a : Agent) (b : Bool) (p : Option Path) : (a.setPath b p).dsn = a.dsn := by cases b <;> rfl
@[simp] theorem Agent.setPath_handler (a : Agent) (b : Bool) (p : Option Path) : (a.setPath b p).handler = a.handler := by cases b <;> rfl
@[simp] theorem Agent.setPath_ops (a : Agent) (b : Bool) (p : Option Path) : (a.setPath b p).ops = a.ops := by cases b <;> rfl
@[simp] theorem Agent.setPath_traps (a : Agent) (b : Bool) (p : Option Path) : (a.setPath b p).traps = a.traps := by cases b <;> rfl
@[simp] theorem Agent.setPath_granules (a : Agent) (b : Bool) (p : Option Path) : (a.setPath b p).granules = a.granules := by cases b <;> rfl
@[simp] theorem Agent.setPath_units (a : Agent) (b : Bool) (p : Option Path) : (a.setPath b p).units = a.units := by cases b <;> rfl
@[simp] theorem Agent.setPath_staging (a : Agent) (b : Bool) (p : Option Path) : (a.setPath b p).staging = a.staging := by cases b <;> rfl
@[simp] theorem Agent.setPath_cyc (a : Agent) (b : Bool) (p : Option Path) : (a.setPath b p).cyc = a.cyc := by cases b <;> rfl
@[simp] theorem Agent.setPath_begun (a : Agent) (b : Bool) (p : Option Path) : (a.setPath b p).begun = a.begun := by cases b <;> rfl
@[simp] theorem Agent.setPath_asked (a : Agent) (b : Bool) (p : Option Path) : (a.setPath b p).asked = a.asked := by cases b <;> rfl
@[simp] theorem Agent.setPath_owed (a : Agent) (b : Bool) (p : Option Path) : (a.setPath b p).owed = a.owed := by cases b <;> rfl
@[simp] theorem Agent.setPath_tasks (a : Agent) (b : Bool) (p : Option Path) : (a.setPath b p).tasks = a.tasks := by cases b <;> rfl
@[simp] theorem Agent.setPath_halted (a : Agent) (b : Bool) (p : Option Path) : (a.setPath b p).halted = a.halted := by cases b <;> rfl
@[simp] theorem Agent.setPath_spilt (a : Agent) (b : Bool) (p : Option Path) : (a.setPath b p).spilt = a.spilt := by cases b <;> rfl
@[simp] theorem Agent.setPath_unfilled (a : Agent) (b : Bool) (p : Option Path) : (a.setPath b p).unfilled = a.unfilled := by cases b <;> rfl
@[simp] theorem Agent.setPath_saved (a : Agent) (b : Bool) (p : Option Path) : (a.setPath b p).saved = a.saved := by cases b <;> rfl

@[simp] theorem Agent.setS_kind (a : Agent) (r : Nat) (x : Word) : (a.setS r x).kind = a.kind := rfl
@[simp] theorem Agent.setS_vf (a : Agent) (r : Nat) (x : Word) : (a.setS r x).vf = a.vf := rfl
@[simp] theorem Agent.setS_ctx (a : Agent) (r : Nat) (x : Word) : (a.setS r x).ctx = a.ctx := rfl
@[simp] theorem Agent.setS_launch (a : Agent) (r : Nat) (x : Word) : (a.setS r x).launch = a.launch := rfl
@[simp] theorem Agent.setS_group (a : Agent) (r : Nat) (x : Word) : (a.setS r x).group = a.group := rfl
@[simp] theorem Agent.setS_warp (a : Agent) (r : Nat) (x : Word) : (a.setS r x).warp = a.warp := rfl
@[simp] theorem Agent.setS_cluster (a : Agent) (r : Nat) (x : Word) : (a.setS r x).cluster = a.cluster := rfl
@[simp] theorem Agent.setS_core (a : Agent) (r : Nat) (x : Word) : (a.setS r x).core = a.core := rfl
@[simp] theorem Agent.setS_width (a : Agent) (r : Nat) (x : Word) : (a.setS r x).width = a.width := rfl
@[simp] theorem Agent.setS_live (a : Agent) (r : Nat) (x : Word) : (a.setS r x).live = a.live := rfl
@[simp] theorem Agent.setS_nregs (a : Agent) (r : Nat) (x : Word) : (a.setS r x).nregs = a.nregs := rfl
@[simp] theorem Agent.setS_vregs (a : Agent) (r : Nat) (x : Word) : (a.setS r x).vregs = a.vregs := rfl
@[simp] theorem Agent.setS_preds (a : Agent) (r : Nat) (x : Word) : (a.setS r x).preds = a.preds := rfl
@[simp] theorem Agent.setS_flags (a : Agent) (r : Nat) (x : Word) : (a.setS r x).flags = a.flags := rfl
@[simp] theorem Agent.setS_fpc (a : Agent) (r : Nat) (x : Word) : (a.setS r x).fpc = a.fpc := rfl
@[simp] theorem Agent.setS_slotA (a : Agent) (r : Nat) (x : Word) : (a.setS r x).slotA = a.slotA := rfl
@[simp] theorem Agent.setS_slotB (a : Agent) (r : Nat) (x : Word) : (a.setS r x).slotB = a.slotB := rfl
@[simp] theorem Agent.setS_stack (a : Agent) (r : Nat) (x : Word) : (a.setS r x).stack = a.stack := rfl
@[simp] theorem Agent.setS_dsb (a : Agent) (r : Nat) (x : Word) : (a.setS r x).dsb = a.dsb := rfl
@[simp] theorem Agent.setS_dsn (a : Agent) (r : Nat) (x : Word) : (a.setS r x).dsn = a.dsn := rfl
@[simp] theorem Agent.setS_handler (a : Agent) (r : Nat) (x : Word) : (a.setS r x).handler = a.handler := rfl
@[simp] theorem Agent.setS_ops (a : Agent) (r : Nat) (x : Word) : (a.setS r x).ops = a.ops := rfl
@[simp] theorem Agent.setS_traps (a : Agent) (r : Nat) (x : Word) : (a.setS r x).traps = a.traps := rfl
@[simp] theorem Agent.setS_granules (a : Agent) (r : Nat) (x : Word) : (a.setS r x).granules = a.granules := rfl
@[simp] theorem Agent.setS_units (a : Agent) (r : Nat) (x : Word) : (a.setS r x).units = a.units := rfl
@[simp] theorem Agent.setS_staging (a : Agent) (r : Nat) (x : Word) : (a.setS r x).staging = a.staging := rfl
@[simp] theorem Agent.setS_cyc (a : Agent) (r : Nat) (x : Word) : (a.setS r x).cyc = a.cyc := rfl
@[simp] theorem Agent.setS_begun (a : Agent) (r : Nat) (x : Word) : (a.setS r x).begun = a.begun := rfl
@[simp] theorem Agent.setS_asked (a : Agent) (r : Nat) (x : Word) : (a.setS r x).asked = a.asked := rfl
@[simp] theorem Agent.setS_owed (a : Agent) (r : Nat) (x : Word) : (a.setS r x).owed = a.owed := rfl
@[simp] theorem Agent.setS_tasks (a : Agent) (r : Nat) (x : Word) : (a.setS r x).tasks = a.tasks := rfl
@[simp] theorem Agent.setS_halted (a : Agent) (r : Nat) (x : Word) : (a.setS r x).halted = a.halted := rfl
@[simp] theorem Agent.setS_spilt (a : Agent) (r : Nat) (x : Word) : (a.setS r x).spilt = a.spilt := rfl
@[simp] theorem Agent.setS_unfilled (a : Agent) (r : Nat) (x : Word) : (a.setS r x).unfilled = a.unfilled := rfl
@[simp] theorem Agent.setS_saved (a : Agent) (r : Nat) (x : Word) : (a.setS r x).saved = a.saved := rfl

@[simp] theorem Agent.setFlag_kind (a : Agent) (f n : Nat) : (a.setFlag f n).kind = a.kind := rfl
@[simp] theorem Agent.setFlag_vf (a : Agent) (f n : Nat) : (a.setFlag f n).vf = a.vf := rfl
@[simp] theorem Agent.setFlag_ctx (a : Agent) (f n : Nat) : (a.setFlag f n).ctx = a.ctx := rfl
@[simp] theorem Agent.setFlag_launch (a : Agent) (f n : Nat) : (a.setFlag f n).launch = a.launch := rfl
@[simp] theorem Agent.setFlag_group (a : Agent) (f n : Nat) : (a.setFlag f n).group = a.group := rfl
@[simp] theorem Agent.setFlag_warp (a : Agent) (f n : Nat) : (a.setFlag f n).warp = a.warp := rfl
@[simp] theorem Agent.setFlag_cluster (a : Agent) (f n : Nat) : (a.setFlag f n).cluster = a.cluster := rfl
@[simp] theorem Agent.setFlag_core (a : Agent) (f n : Nat) : (a.setFlag f n).core = a.core := rfl
@[simp] theorem Agent.setFlag_width (a : Agent) (f n : Nat) : (a.setFlag f n).width = a.width := rfl
@[simp] theorem Agent.setFlag_live (a : Agent) (f n : Nat) : (a.setFlag f n).live = a.live := rfl
@[simp] theorem Agent.setFlag_nregs (a : Agent) (f n : Nat) : (a.setFlag f n).nregs = a.nregs := rfl
@[simp] theorem Agent.setFlag_vregs (a : Agent) (f n : Nat) : (a.setFlag f n).vregs = a.vregs := rfl
@[simp] theorem Agent.setFlag_sregs (a : Agent) (f n : Nat) : (a.setFlag f n).sregs = a.sregs := rfl
@[simp] theorem Agent.setFlag_preds (a : Agent) (f n : Nat) : (a.setFlag f n).preds = a.preds := rfl
@[simp] theorem Agent.setFlag_fpc (a : Agent) (f n : Nat) : (a.setFlag f n).fpc = a.fpc := rfl
@[simp] theorem Agent.setFlag_slotA (a : Agent) (f n : Nat) : (a.setFlag f n).slotA = a.slotA := rfl
@[simp] theorem Agent.setFlag_slotB (a : Agent) (f n : Nat) : (a.setFlag f n).slotB = a.slotB := rfl
@[simp] theorem Agent.setFlag_stack (a : Agent) (f n : Nat) : (a.setFlag f n).stack = a.stack := rfl
@[simp] theorem Agent.setFlag_dsb (a : Agent) (f n : Nat) : (a.setFlag f n).dsb = a.dsb := rfl
@[simp] theorem Agent.setFlag_dsn (a : Agent) (f n : Nat) : (a.setFlag f n).dsn = a.dsn := rfl
@[simp] theorem Agent.setFlag_handler (a : Agent) (f n : Nat) : (a.setFlag f n).handler = a.handler := rfl
@[simp] theorem Agent.setFlag_ops (a : Agent) (f n : Nat) : (a.setFlag f n).ops = a.ops := rfl
@[simp] theorem Agent.setFlag_traps (a : Agent) (f n : Nat) : (a.setFlag f n).traps = a.traps := rfl
@[simp] theorem Agent.setFlag_granules (a : Agent) (f n : Nat) : (a.setFlag f n).granules = a.granules := rfl
@[simp] theorem Agent.setFlag_units (a : Agent) (f n : Nat) : (a.setFlag f n).units = a.units := rfl
@[simp] theorem Agent.setFlag_staging (a : Agent) (f n : Nat) : (a.setFlag f n).staging = a.staging := rfl
@[simp] theorem Agent.setFlag_cyc (a : Agent) (f n : Nat) : (a.setFlag f n).cyc = a.cyc := rfl
@[simp] theorem Agent.setFlag_begun (a : Agent) (f n : Nat) : (a.setFlag f n).begun = a.begun := rfl
@[simp] theorem Agent.setFlag_asked (a : Agent) (f n : Nat) : (a.setFlag f n).asked = a.asked := rfl
@[simp] theorem Agent.setFlag_owed (a : Agent) (f n : Nat) : (a.setFlag f n).owed = a.owed := rfl
@[simp] theorem Agent.setFlag_tasks (a : Agent) (f n : Nat) : (a.setFlag f n).tasks = a.tasks := rfl
@[simp] theorem Agent.setFlag_halted (a : Agent) (f n : Nat) : (a.setFlag f n).halted = a.halted := rfl
@[simp] theorem Agent.setFlag_spilt (a : Agent) (f n : Nat) : (a.setFlag f n).spilt = a.spilt := rfl
@[simp] theorem Agent.setFlag_unfilled (a : Agent) (f n : Nat) : (a.setFlag f n).unfilled = a.unfilled := rfl
@[simp] theorem Agent.setFlag_saved (a : Agent) (f n : Nat) : (a.setFlag f n).saved = a.saved := rfl

@[simp] theorem Agent.raise_kind (a : Agent) (f : FFlags) : (a.raise f).kind = a.kind := rfl
@[simp] theorem Agent.raise_vf (a : Agent) (f : FFlags) : (a.raise f).vf = a.vf := rfl
@[simp] theorem Agent.raise_ctx (a : Agent) (f : FFlags) : (a.raise f).ctx = a.ctx := rfl
@[simp] theorem Agent.raise_launch (a : Agent) (f : FFlags) : (a.raise f).launch = a.launch := rfl
@[simp] theorem Agent.raise_group (a : Agent) (f : FFlags) : (a.raise f).group = a.group := rfl
@[simp] theorem Agent.raise_warp (a : Agent) (f : FFlags) : (a.raise f).warp = a.warp := rfl
@[simp] theorem Agent.raise_cluster (a : Agent) (f : FFlags) : (a.raise f).cluster = a.cluster := rfl
@[simp] theorem Agent.raise_core (a : Agent) (f : FFlags) : (a.raise f).core = a.core := rfl
@[simp] theorem Agent.raise_width (a : Agent) (f : FFlags) : (a.raise f).width = a.width := rfl
@[simp] theorem Agent.raise_live (a : Agent) (f : FFlags) : (a.raise f).live = a.live := rfl
@[simp] theorem Agent.raise_nregs (a : Agent) (f : FFlags) : (a.raise f).nregs = a.nregs := rfl
@[simp] theorem Agent.raise_vregs (a : Agent) (f : FFlags) : (a.raise f).vregs = a.vregs := rfl
@[simp] theorem Agent.raise_sregs (a : Agent) (f : FFlags) : (a.raise f).sregs = a.sregs := rfl
@[simp] theorem Agent.raise_preds (a : Agent) (f : FFlags) : (a.raise f).preds = a.preds := rfl
@[simp] theorem Agent.raise_flags (a : Agent) (f : FFlags) : (a.raise f).flags = a.flags := rfl
@[simp] theorem Agent.raise_slotA (a : Agent) (f : FFlags) : (a.raise f).slotA = a.slotA := rfl
@[simp] theorem Agent.raise_slotB (a : Agent) (f : FFlags) : (a.raise f).slotB = a.slotB := rfl
@[simp] theorem Agent.raise_stack (a : Agent) (f : FFlags) : (a.raise f).stack = a.stack := rfl
@[simp] theorem Agent.raise_dsb (a : Agent) (f : FFlags) : (a.raise f).dsb = a.dsb := rfl
@[simp] theorem Agent.raise_dsn (a : Agent) (f : FFlags) : (a.raise f).dsn = a.dsn := rfl
@[simp] theorem Agent.raise_handler (a : Agent) (f : FFlags) : (a.raise f).handler = a.handler := rfl
@[simp] theorem Agent.raise_ops (a : Agent) (f : FFlags) : (a.raise f).ops = a.ops := rfl
@[simp] theorem Agent.raise_traps (a : Agent) (f : FFlags) : (a.raise f).traps = a.traps := rfl
@[simp] theorem Agent.raise_granules (a : Agent) (f : FFlags) : (a.raise f).granules = a.granules := rfl
@[simp] theorem Agent.raise_units (a : Agent) (f : FFlags) : (a.raise f).units = a.units := rfl
@[simp] theorem Agent.raise_staging (a : Agent) (f : FFlags) : (a.raise f).staging = a.staging := rfl
@[simp] theorem Agent.raise_cyc (a : Agent) (f : FFlags) : (a.raise f).cyc = a.cyc := rfl
@[simp] theorem Agent.raise_begun (a : Agent) (f : FFlags) : (a.raise f).begun = a.begun := rfl
@[simp] theorem Agent.raise_asked (a : Agent) (f : FFlags) : (a.raise f).asked = a.asked := rfl
@[simp] theorem Agent.raise_owed (a : Agent) (f : FFlags) : (a.raise f).owed = a.owed := rfl
@[simp] theorem Agent.raise_tasks (a : Agent) (f : FFlags) : (a.raise f).tasks = a.tasks := rfl
@[simp] theorem Agent.raise_halted (a : Agent) (f : FFlags) : (a.raise f).halted = a.halted := rfl
@[simp] theorem Agent.raise_spilt (a : Agent) (f : FFlags) : (a.raise f).spilt = a.spilt := rfl
@[simp] theorem Agent.raise_unfilled (a : Agent) (f : FFlags) : (a.raise f).unfilled = a.unfilled := rfl
@[simp] theorem Agent.raise_saved (a : Agent) (f : FFlags) : (a.raise f).saved = a.saved := rfl

@[simp] theorem Agent.issued_kind (a : Agent) (s : State) : (a.issued s).kind = a.kind := rfl
@[simp] theorem Agent.issued_vf (a : Agent) (s : State) : (a.issued s).vf = a.vf := rfl
@[simp] theorem Agent.issued_ctx (a : Agent) (s : State) : (a.issued s).ctx = a.ctx := rfl
@[simp] theorem Agent.issued_launch (a : Agent) (s : State) : (a.issued s).launch = a.launch := rfl
@[simp] theorem Agent.issued_group (a : Agent) (s : State) : (a.issued s).group = a.group := rfl
@[simp] theorem Agent.issued_warp (a : Agent) (s : State) : (a.issued s).warp = a.warp := rfl
@[simp] theorem Agent.issued_cluster (a : Agent) (s : State) : (a.issued s).cluster = a.cluster := rfl
@[simp] theorem Agent.issued_core (a : Agent) (s : State) : (a.issued s).core = a.core := rfl
@[simp] theorem Agent.issued_width (a : Agent) (s : State) : (a.issued s).width = a.width := rfl
@[simp] theorem Agent.issued_live (a : Agent) (s : State) : (a.issued s).live = a.live := rfl
@[simp] theorem Agent.issued_nregs (a : Agent) (s : State) : (a.issued s).nregs = a.nregs := rfl
@[simp] theorem Agent.issued_vregs (a : Agent) (s : State) : (a.issued s).vregs = a.vregs := rfl
@[simp] theorem Agent.issued_sregs (a : Agent) (s : State) : (a.issued s).sregs = a.sregs := rfl
@[simp] theorem Agent.issued_preds (a : Agent) (s : State) : (a.issued s).preds = a.preds := rfl
@[simp] theorem Agent.issued_flags (a : Agent) (s : State) : (a.issued s).flags = a.flags := rfl
@[simp] theorem Agent.issued_fpc (a : Agent) (s : State) : (a.issued s).fpc = a.fpc := rfl
@[simp] theorem Agent.issued_slotA (a : Agent) (s : State) : (a.issued s).slotA = a.slotA := rfl
@[simp] theorem Agent.issued_slotB (a : Agent) (s : State) : (a.issued s).slotB = a.slotB := rfl
@[simp] theorem Agent.issued_stack (a : Agent) (s : State) : (a.issued s).stack = a.stack := rfl
@[simp] theorem Agent.issued_dsb (a : Agent) (s : State) : (a.issued s).dsb = a.dsb := rfl
@[simp] theorem Agent.issued_dsn (a : Agent) (s : State) : (a.issued s).dsn = a.dsn := rfl
@[simp] theorem Agent.issued_handler (a : Agent) (s : State) : (a.issued s).handler = a.handler := rfl
@[simp] theorem Agent.issued_ops (a : Agent) (s : State) : (a.issued s).ops = a.ops := rfl
@[simp] theorem Agent.issued_traps (a : Agent) (s : State) : (a.issued s).traps = a.traps := rfl
@[simp] theorem Agent.issued_granules (a : Agent) (s : State) : (a.issued s).granules = a.granules := rfl
@[simp] theorem Agent.issued_units (a : Agent) (s : State) : (a.issued s).units = a.units := rfl
@[simp] theorem Agent.issued_staging (a : Agent) (s : State) : (a.issued s).staging = a.staging := rfl
@[simp] theorem Agent.issued_cyc (a : Agent) (s : State) : (a.issued s).cyc = a.cyc := rfl
@[simp] theorem Agent.issued_begun (a : Agent) (s : State) : (a.issued s).begun = a.begun := rfl
@[simp] theorem Agent.issued_asked (a : Agent) (s : State) : (a.issued s).asked = a.asked := rfl
@[simp] theorem Agent.issued_owed (a : Agent) (s : State) : (a.issued s).owed = a.owed := rfl
@[simp] theorem Agent.issued_tasks (a : Agent) (s : State) : (a.issued s).tasks = a.tasks := rfl
@[simp] theorem Agent.issued_halted (a : Agent) (s : State) : (a.issued s).halted = a.halted := rfl
@[simp] theorem Agent.issued_spilt (a : Agent) (s : State) : (a.issued s).spilt = a.spilt := rfl
@[simp] theorem Agent.issued_unfilled (a : Agent) (s : State) : (a.issued s).unfilled = a.unfilled := rfl
@[simp] theorem Agent.issued_saved (a : Agent) (s : State) : (a.issued s).saved = a.saved := rfl

@[simp] theorem Agent.account_kind (a : Agent) (s : State) (i : Instr) : (a.account s i).kind = a.kind := rfl
@[simp] theorem Agent.account_vf (a : Agent) (s : State) (i : Instr) : (a.account s i).vf = a.vf := rfl
@[simp] theorem Agent.account_ctx (a : Agent) (s : State) (i : Instr) : (a.account s i).ctx = a.ctx := rfl
@[simp] theorem Agent.account_launch (a : Agent) (s : State) (i : Instr) : (a.account s i).launch = a.launch := rfl
@[simp] theorem Agent.account_group (a : Agent) (s : State) (i : Instr) : (a.account s i).group = a.group := rfl
@[simp] theorem Agent.account_warp (a : Agent) (s : State) (i : Instr) : (a.account s i).warp = a.warp := rfl
@[simp] theorem Agent.account_cluster (a : Agent) (s : State) (i : Instr) : (a.account s i).cluster = a.cluster := rfl
@[simp] theorem Agent.account_core (a : Agent) (s : State) (i : Instr) : (a.account s i).core = a.core := rfl
@[simp] theorem Agent.account_width (a : Agent) (s : State) (i : Instr) : (a.account s i).width = a.width := rfl
@[simp] theorem Agent.account_live (a : Agent) (s : State) (i : Instr) : (a.account s i).live = a.live := rfl
@[simp] theorem Agent.account_sregs (a : Agent) (s : State) (i : Instr) : (a.account s i).sregs = a.sregs := rfl
@[simp] theorem Agent.account_preds (a : Agent) (s : State) (i : Instr) : (a.account s i).preds = a.preds := rfl
@[simp] theorem Agent.account_flags (a : Agent) (s : State) (i : Instr) : (a.account s i).flags = a.flags := rfl
@[simp] theorem Agent.account_slotA (a : Agent) (s : State) (i : Instr) : (a.account s i).slotA = a.slotA := rfl
@[simp] theorem Agent.account_slotB (a : Agent) (s : State) (i : Instr) : (a.account s i).slotB = a.slotB := rfl
@[simp] theorem Agent.account_stack (a : Agent) (s : State) (i : Instr) : (a.account s i).stack = a.stack := rfl
@[simp] theorem Agent.account_dsb (a : Agent) (s : State) (i : Instr) : (a.account s i).dsb = a.dsb := rfl
@[simp] theorem Agent.account_dsn (a : Agent) (s : State) (i : Instr) : (a.account s i).dsn = a.dsn := rfl
@[simp] theorem Agent.account_handler (a : Agent) (s : State) (i : Instr) : (a.account s i).handler = a.handler := rfl
@[simp] theorem Agent.account_ops (a : Agent) (s : State) (i : Instr) : (a.account s i).ops = a.ops := rfl
@[simp] theorem Agent.account_traps (a : Agent) (s : State) (i : Instr) : (a.account s i).traps = a.traps := rfl
@[simp] theorem Agent.account_granules (a : Agent) (s : State) (i : Instr) : (a.account s i).granules = a.granules := rfl
@[simp] theorem Agent.account_units (a : Agent) (s : State) (i : Instr) : (a.account s i).units = a.units := rfl
@[simp] theorem Agent.account_staging (a : Agent) (s : State) (i : Instr) : (a.account s i).staging = a.staging := rfl
@[simp] theorem Agent.account_cyc (a : Agent) (s : State) (i : Instr) : (a.account s i).cyc = a.cyc := rfl
@[simp] theorem Agent.account_begun (a : Agent) (s : State) (i : Instr) : (a.account s i).begun = a.begun := rfl
@[simp] theorem Agent.account_asked (a : Agent) (s : State) (i : Instr) : (a.account s i).asked = a.asked := rfl
@[simp] theorem Agent.account_owed (a : Agent) (s : State) (i : Instr) : (a.account s i).owed = a.owed := rfl
@[simp] theorem Agent.account_tasks (a : Agent) (s : State) (i : Instr) : (a.account s i).tasks = a.tasks := rfl
@[simp] theorem Agent.account_halted (a : Agent) (s : State) (i : Instr) : (a.account s i).halted = a.halted := rfl
@[simp] theorem Agent.account_spilt (a : Agent) (s : State) (i : Instr) : (a.account s i).spilt = a.spilt := rfl
@[simp] theorem Agent.account_unfilled (a : Agent) (s : State) (i : Instr) : (a.account s i).unfilled = a.unfilled := rfl
@[simp] theorem Agent.account_saved (a : Agent) (s : State) (i : Instr) : (a.account s i).saved = a.saved := rfl

@[simp] theorem Agent.startOp_kind (a : Agent) (op : Outstanding) : (a.startOp op).kind = a.kind := by unfold Agent.startOp; cases op.flag <;> rfl
@[simp] theorem Agent.startOp_vf (a : Agent) (op : Outstanding) : (a.startOp op).vf = a.vf := by unfold Agent.startOp; cases op.flag <;> rfl
@[simp] theorem Agent.startOp_ctx (a : Agent) (op : Outstanding) : (a.startOp op).ctx = a.ctx := by unfold Agent.startOp; cases op.flag <;> rfl
@[simp] theorem Agent.startOp_launch (a : Agent) (op : Outstanding) : (a.startOp op).launch = a.launch := by unfold Agent.startOp; cases op.flag <;> rfl
@[simp] theorem Agent.startOp_group (a : Agent) (op : Outstanding) : (a.startOp op).group = a.group := by unfold Agent.startOp; cases op.flag <;> rfl
@[simp] theorem Agent.startOp_warp (a : Agent) (op : Outstanding) : (a.startOp op).warp = a.warp := by unfold Agent.startOp; cases op.flag <;> rfl
@[simp] theorem Agent.startOp_cluster (a : Agent) (op : Outstanding) : (a.startOp op).cluster = a.cluster := by unfold Agent.startOp; cases op.flag <;> rfl
@[simp] theorem Agent.startOp_core (a : Agent) (op : Outstanding) : (a.startOp op).core = a.core := by unfold Agent.startOp; cases op.flag <;> rfl
@[simp] theorem Agent.startOp_width (a : Agent) (op : Outstanding) : (a.startOp op).width = a.width := by unfold Agent.startOp; cases op.flag <;> rfl
@[simp] theorem Agent.startOp_live (a : Agent) (op : Outstanding) : (a.startOp op).live = a.live := by unfold Agent.startOp; cases op.flag <;> rfl
@[simp] theorem Agent.startOp_nregs (a : Agent) (op : Outstanding) : (a.startOp op).nregs = a.nregs := by unfold Agent.startOp; cases op.flag <;> rfl
@[simp] theorem Agent.startOp_vregs (a : Agent) (op : Outstanding) : (a.startOp op).vregs = a.vregs := by unfold Agent.startOp; cases op.flag <;> rfl
@[simp] theorem Agent.startOp_sregs (a : Agent) (op : Outstanding) : (a.startOp op).sregs = a.sregs := by unfold Agent.startOp; cases op.flag <;> rfl
@[simp] theorem Agent.startOp_preds (a : Agent) (op : Outstanding) : (a.startOp op).preds = a.preds := by unfold Agent.startOp; cases op.flag <;> rfl
@[simp] theorem Agent.startOp_fpc (a : Agent) (op : Outstanding) : (a.startOp op).fpc = a.fpc := by unfold Agent.startOp; cases op.flag <;> rfl
@[simp] theorem Agent.startOp_slotA (a : Agent) (op : Outstanding) : (a.startOp op).slotA = a.slotA := by unfold Agent.startOp; cases op.flag <;> rfl
@[simp] theorem Agent.startOp_slotB (a : Agent) (op : Outstanding) : (a.startOp op).slotB = a.slotB := by unfold Agent.startOp; cases op.flag <;> rfl
@[simp] theorem Agent.startOp_stack (a : Agent) (op : Outstanding) : (a.startOp op).stack = a.stack := by unfold Agent.startOp; cases op.flag <;> rfl
@[simp] theorem Agent.startOp_dsb (a : Agent) (op : Outstanding) : (a.startOp op).dsb = a.dsb := by unfold Agent.startOp; cases op.flag <;> rfl
@[simp] theorem Agent.startOp_dsn (a : Agent) (op : Outstanding) : (a.startOp op).dsn = a.dsn := by unfold Agent.startOp; cases op.flag <;> rfl
@[simp] theorem Agent.startOp_handler (a : Agent) (op : Outstanding) : (a.startOp op).handler = a.handler := by unfold Agent.startOp; cases op.flag <;> rfl
@[simp] theorem Agent.startOp_traps (a : Agent) (op : Outstanding) : (a.startOp op).traps = a.traps := by unfold Agent.startOp; cases op.flag <;> rfl
@[simp] theorem Agent.startOp_granules (a : Agent) (op : Outstanding) : (a.startOp op).granules = a.granules := by unfold Agent.startOp; cases op.flag <;> rfl
@[simp] theorem Agent.startOp_units (a : Agent) (op : Outstanding) : (a.startOp op).units = a.units := by unfold Agent.startOp; cases op.flag <;> rfl
@[simp] theorem Agent.startOp_staging (a : Agent) (op : Outstanding) : (a.startOp op).staging = a.staging := by unfold Agent.startOp; cases op.flag <;> rfl
@[simp] theorem Agent.startOp_cyc (a : Agent) (op : Outstanding) : (a.startOp op).cyc = a.cyc := by unfold Agent.startOp; cases op.flag <;> rfl
@[simp] theorem Agent.startOp_begun (a : Agent) (op : Outstanding) : (a.startOp op).begun = a.begun := by unfold Agent.startOp; cases op.flag <;> rfl
@[simp] theorem Agent.startOp_asked (a : Agent) (op : Outstanding) : (a.startOp op).asked = a.asked := by unfold Agent.startOp; cases op.flag <;> rfl
@[simp] theorem Agent.startOp_owed (a : Agent) (op : Outstanding) : (a.startOp op).owed = a.owed := by unfold Agent.startOp; cases op.flag <;> rfl
@[simp] theorem Agent.startOp_tasks (a : Agent) (op : Outstanding) : (a.startOp op).tasks = a.tasks := by unfold Agent.startOp; cases op.flag <;> rfl
@[simp] theorem Agent.startOp_halted (a : Agent) (op : Outstanding) : (a.startOp op).halted = a.halted := by unfold Agent.startOp; cases op.flag <;> rfl
@[simp] theorem Agent.startOp_spilt (a : Agent) (op : Outstanding) : (a.startOp op).spilt = a.spilt := by unfold Agent.startOp; cases op.flag <;> rfl
@[simp] theorem Agent.startOp_unfilled (a : Agent) (op : Outstanding) : (a.startOp op).unfilled = a.unfilled := by unfold Agent.startOp; cases op.flag <;> rfl
@[simp] theorem Agent.startOp_saved (a : Agent) (op : Outstanding) : (a.startOp op).saved = a.saved := by unfold Agent.startOp; cases op.flag <;> rfl

/-! What each update writes. -/

@[simp] theorem State.agent?_setAgent (s : State) (id j : Nat) (a : Agent) : (s.setAgent id a).agent? j = if j = id then some a else s.agent? j := mapGet?_mapSet ..
@[simp] theorem State.agent?_modAgent (s : State) (id j : Nat) (f : Agent → Agent) : (s.modAgent id f).agent? j = if j = id then (s.agent? id).map f else s.agent? j := mapGet?_mapMod ..
@[simp] theorem State.emit_sent (s : State) (m : PortMsg) : (s.emit m).sent = s.sent ++ [m] := rfl
@[simp] theorem State.vf_setVf (s : State) (v w : Nat) (x : Vf) : (s.setVf v x).vf w = if w = v then x else s.vf w := mapGetD_mapPut ..
@[simp] theorem State.mu_setMu (s : State) (k j : Nat) (m : Mu) : (s.setMu k m).mu j = if j = k then m else s.mu j := mapGetD_mapPut ..
@[simp] theorem State.chiplet_setChiplet (s : State) (c j : Nat) (x : Chiplet) : (s.setChiplet c x).chiplet j = if j = c then x else s.chiplet j := mapGetD_mapPut ..
@[simp] theorem State.rec?_modRec (s : State) (k j : Nat) (f : TaskRec → TaskRec) : (s.modRec k f).rec? j = if j = k then (s.rec? k).map f else s.rec? j := mapGet?_mapMod ..
@[simp] theorem Agent.slot_setPath_same (a : Agent) (b : Bool) (p : Option Path) : ((a.setPath b p).slot b).path = p := by cases b <;> rfl
@[simp] theorem Agent.s_setS (a : Agent) (r q : Nat) (x : Word) : (a.setS r x).s q = if q = r then x else a.s q := mapGetD_mapPut ..
@[simp] theorem Agent.flag_setFlag (a : Agent) (f g n : Nat) : (a.setFlag f n).flag g = if g = f then n else a.flag g := mapGetD_mapPut ..
@[simp] theorem Agent.raise_fpc (a : Agent) (f : FFlags) : (a.raise f).fpc = a.fpc ||| f.zeroExtend 32 := rfl

end Sys2Proof.Machine
end

