-- ==== Sys2Proof/Laws/Stores.lean ====
section
/-! SUPPORT. What finishing an instruction, tracking a task's lines, and storing bytes do: each once, for the statements about memory. -/

open Sys2Proof Sys2Proof.Machine Sys2Proof.Claims

namespace Sys2Proof.Machine

/-- An instruction whose meaning ends in finish has the shape of next state that the statements name. -/
theorem becomes_of_finish {i : Instr} {s S : State} {id : Nat} {b : Bool} {c : Agent} {p : Path} (he : exec i s = .next (S.finish id b i c)) (hp : (c.slot b).path = some p) :
    becomes i s S id b c p := by
  obtain ⟨a', e, r⟩ := State.finish_spec S id b i c p hp
  exact ⟨a', by rw [he, e], r⟩

/-- Recording the lines that speculative tasks read changes the records alone (R309). -/
theorem State.trackLines_eq (s t : State) (a : Agent) (r : List (Nat × Nat)) (h : s.trackLines a r = some t) : t = { s with recs := t.recs } := by
  unfold State.trackLines at h
  dsimp only at h
  generalize lanesOf _ = ls at h
  have : ∀ (ls : List Nat) (acc : Option State), (∀ u, acc = some u → u = { s with recs := u.recs }) →
      ∀ t, ls.foldl (fun acc L =>
        match acc, a.recKey L with
        | some s, some k =>
          match s.rec? k with
          | some x =>
            let ls := (r.filter (fun x => x.1 == L)).foldl (fun l x => insertNat l x.2) x.lines
            if ls.length > 64 then none else some (s.modRec k (fun x => { x with lines := ls }))
          | none => some s
        | acc, _ => acc) acc = some t → t = { s with recs := t.recs } := by
    intro ls; induction ls with
    | nil => intro acc hacc t h; exact hacc t h
    | cons L ls ih =>
      intro acc hacc t h
      simp only [List.foldl_cons] at h
      refine ih _ ?_ t h
      intro u hu
      split at hu
      · rename_i v k _
        split at hu
        · split at hu
          · cases hu
          · cases hu; have := hacc v rfl; unfold State.modRec; dsimp only; rw [this]
        · cases hu; exact hacc _ rfl
      · exact hacc _ hu
  exact this ls (some s) (fun u hu => by cases hu; rfl) t h

@[simp] theorem State.sound_forget (s : State) (w l n) : (s.forget w).sound l n = s.sound l n := by rw [State.forget_eq]; rfl
@[simp] theorem State.load_forget (s : State) (w l n) : (s.forget w).load l n = s.load l n := by rw [State.forget_eq]; rfl

/-- The bytes that a write of a list of bytes leaves. -/
theorem memGet_memWrite_getElem (bs : List Byte) (k x : Nat) (m : List Host.Cell) :
    memGet (memWrite m k bs) x = ((if k ≤ x then bs[x - k]? else none)).getD (memGet m x) := by
  rw [memGet_memWrite]; split <;> rename_i h
  · rw [if_pos h.1]; have : x - k < bs.length := by omega
    simp [List.getElem?_eq_getElem this]
  · split
    · rename_i h1; have : bs.length ≤ x - k := by omega
      simp [List.getElem?_eq_none this]
    · rfl

/-- Nothing has changed but write-back marks and dirty-tracking marks (R384, R424). -/
def marksOnly (s S : State) : Prop := S = { s with dirty := S.dirty, vfs := S.vfs } ∧ ∀ v, S.vf v = { s.vf v with dirty := (S.vf v).dirty }
theorem marksOnly_refl (s : State) : marksOnly s s := ⟨rfl, fun _ => rfl⟩
theorem marksOnly_trans {a b c : State} (h : marksOnly a b) (k : marksOnly b c) : marksOnly a c :=
  ⟨by rw [k.1, h.1], fun v => by rw [k.2, h.2]⟩
theorem marksOnly_markDirty (s : State) (d : Nat) : marksOnly s (s.markDirty d) := by
  unfold State.markDirty
  split
  · exact marksOnly_refl s
  · split
    · split
      · refine ⟨rfl, fun v => ?_⟩
        unfold State.modVf; rw [State.vf_setVf]; split
        · rename_i h; rw [h]
        · rfl
      · exact marksOnly_refl s
    · exact marksOnly_refl s
theorem marksOnly_holdLine (s : State) (g : Nat) : marksOnly s (s.holdLine g) := by
  unfold State.holdLine; split
  · exact marksOnly_refl s
  · exact ⟨rfl, fun _ => rfl⟩

/-- A store writes its bytes, marks, and changes nothing else. -/
theorem State.store_frame (s : State) (l : Loc) (bs : List Byte) :
    (s.store l bs) = { s with mem := (s.store l bs).mem, hostMem := (s.store l bs).hostMem, dirty := (s.store l bs).dirty, vfs := (s.store l bs).vfs }
     ∧ (∀ v, (s.store l bs).vf v = { s.vf v with dirty := ((s.store l bs).vf v).dirty })
     ∧ (∀ x, (s.store l bs).peek x = (byteOver l bs x).getD (s.peek x)) := by
  unfold State.store
  split
  · rename_i d
    split
    · rename_i he
      have : bs = [] := by simpa using he
      subst this
      refine ⟨rfl, fun _ => rfl, fun x => ?_⟩
      cases x <;> simp [byteOver]
    · have hm : ∀ (ks : List Nat) (u : State), marksOnly u (ks.foldl (fun s k => (s.holdLine (granuleOf d + k)).markDirty (256 * (granuleOf d + k))) u) := by
        intro ks; induction ks with
        | nil => intro u; exact marksOnly_refl u
        | cons k ks ih => intro u; exact marksOnly_trans (marksOnly_trans (marksOnly_holdLine u _) (marksOnly_markDirty _ _)) (ih _)
      have := hm (List.range (granuleOf (d + bs.length - 1) + 1 - granuleOf d)) s
      dsimp only
      generalize (List.range (granuleOf (d + bs.length - 1) + 1 - granuleOf d)).foldl _ _ = S at this
      obtain ⟨h1, h2⟩ := this
      refine ⟨by rw [h1], fun v => h2 v, fun x => ?_⟩
      rw [h1]
      cases x with
      | dev y => exact memGet_memWrite_getElem ..
      | host t => rfl
  · refine ⟨rfl, fun _ => rfl, fun x => ?_⟩
    cases x with
    | dev y => rfl
    | host t => exact memGet_memWrite_getElem ..

/-- Without a running speculative task, no store conflicts (R309). -/
theorem State.conflict_none (s : State) (w : Nat) (ls : List Nat) (h : ∀ x ∈ s.recs, ¬(x.2.st = .running ∧ x.2.spec = true)) : s.conflict w ls = s := by
  unfold State.conflict
  have : (s.recs.filter (fun x => x.1 != w && x.2.st == .running && x.2.spec && x.2.lines.any (fun l => ls.contains l))) = [] := by
    rw [List.filter_eq_nil_iff]; intro x hx; have := h x hx; simp; intro _ h1 h2; exact absurd ⟨h1, h2⟩ this
  rw [this]; rfl

/-- A lane that does not buffer stores at once: one write, recorded as an event of its thread, and its bytes. -/
theorem State.storeLane_direct (s : State) (id : Nat) (a : Agent) (L : Nat) (c : Access) (l : Loc) (bs : List Byte) (h : a.isWave = true → ∀ x ∈ s.recs, ¬(x.2.st = .running ∧ x.2.spec = true)) :
    s.storeLane id a L c l bs = s.put { Ev.of (a.party id L) (s.accAt c l) with op := some (id, s.nextId) } l bs := by
  unfold State.storeLane State.clash; split
  · rename_i hw
    refine State.conflict_none _ _ _ ?_
    unfold State.put; rw [(State.store_frame _ l bs).1]; exact h hw
  · rfl

/-- Stores of several lanes in turn: in every byte, what the last lane that covers it stores. -/
theorem State.stores_frame (loc : Nat → Loc) (bs : Nat → List Byte) (ls : List Nat) (s : State) (S : State) (hS : S = ls.foldl (fun s L => s.store (loc L) (bs L)) s) :
    S = { s with mem := S.mem, hostMem := S.hostMem, dirty := S.dirty, vfs := S.vfs }
     ∧ (∀ v, S.vf v = { s.vf v with dirty := (S.vf v).dirty })
     ∧ (∀ x, S.peek x = (ls.reverse.findSome? (fun L => byteOver (loc L) (bs L) x)).getD (s.peek x)) := by
  subst hS
  induction ls generalizing s with
  | nil => exact ⟨rfl, fun _ => rfl, fun _ => rfl⟩
  | cons L ls ih =>
    simp only [List.foldl_cons]
    obtain ⟨h1, h2, h3⟩ := ih (s.store (loc L) (bs L))
    obtain ⟨k1, k2, k3⟩ := State.store_frame s (loc L) (bs L)
    generalize ls.foldl (fun s L => s.store (loc L) (bs L)) (s.store (loc L) (bs L)) = S at *
    refine ⟨by rw [h1, k1], fun v => by rw [h2, k2], fun x => ?_⟩
    rw [h3, k3, List.reverse_cons, List.findSome?_append]
    cases ls.reverse.findSome? _ <;> simp

end Sys2Proof.Machine
end

