-- ==== Sys2Proof/Tests/Litmus.lean ====
section
/-! SUPPORT. The litmus tables of spec/09_memory_model.md: each row's events up to the last read, and whether that read may return the initial value. -/

namespace Sys2Proof.Tests
open Sys2Proof.Machine
set_option Elab.async false

/-- A lane of a warp of its own on a cluster; two lanes of one group; the locations x and y. -/
def laneOn (w cluster : Nat) : Party := ⟨.lane w 0, 0, some 0, cluster, some w, w⟩
def mate (w : Nat) : Party := ⟨.lane w 0, 0, some 0, 0, some 9, w⟩
def locX : Spot := .glob (.dev 0)
def locY : Spot := .glob (.dev 64)
/-- A store of 1, a load that returned a write or the initial value, and a fence. -/
def wr (p : Party) (a : Access) (x : Spot) (v : Byte := 1) : Ev := { Ev.of p a with writes := [(x, 0, v)] }
def rd (p : Party) (a : Access) (x : Spot) (src : Option Nat) : Ev := { Ev.of p a with reads := [(x, src)] }
/-- After some events, each numbered by its place, the last read may return what it names. -/
def may (l : List Ev) (r : Ev) : Bool := let s := State.noteAll State.reset l; mayRead s.events (s.placed r)
def weak : Access := .weak
def strong : Access := .at 2
def sc (n : Nat) : Access := ⟨true, n, true, true, true⟩
def c0 : Party := laneOn 1 0
def c1 : Party := laneOn 2 1
def c2 : Party := laneOn 3 2
def c3 : Party := laneOn 4 3

/-- MP, all weak; release and acquire; fences; flag relaxed; acquire at `.grp` on another cluster; both at `.grp` in one group. -/
theorem test_litmus_mp :
    may [wr c0 weak locX, wr c0 weak locY, rd c1 weak locY (some 1)] (rd c1 weak locX none) = true
    ∧ may [wr c0 weak locX, wr c0 (.release 2) locY, rd c1 (.acquire 2) locY (some 1)] (rd c1 weak locX none) = false
    ∧ may [wr c0 weak locX, Ev.of c0 (.release 2), wr c0 strong locY, rd c1 strong locY (some 2), Ev.of c1 (.acquire 2)] (rd c1 weak locX none) = false
    ∧ may [wr c0 weak locX, wr c0 strong locY, rd c1 (.acquire 2) locY (some 1)] (rd c1 weak locX none) = true
    ∧ may [wr c0 weak locX, wr c0 (.release 2) locY, rd c1 (.acquire 1) locY (some 1)] (rd c1 weak locX none) = true
    ∧ may [wr (mate 1) weak locX, wr (mate 1) (.release 1) locY, rd (mate 2) (.acquire 1) locY (some 1)] (rd (mate 2) weak locX none) = false := by decide +kernel
/-- SB as written; with releases and acquires; with FENCE.SC at `.dev`; with FENCE.SC at `.grp`. -/
theorem test_litmus_sb :
    may [wr c0 strong locX, rd c0 strong locY none, wr c1 strong locY] (rd c1 strong locX none) = true
    ∧ may [wr c0 (.release 2) locX, rd c0 (.acquire 2) locY none, wr c1 (.release 2) locY] (rd c1 (.acquire 2) locX none) = true
    ∧ may [wr c0 strong locX, Ev.of c0 (sc 2), rd c0 strong locY none, wr c1 strong locY, Ev.of c1 (sc 2)] (rd c1 strong locX none) = false
    ∧ may [wr c0 strong locX, Ev.of c0 (sc 1), rd c0 strong locY none, wr c1 strong locY, Ev.of c1 (sc 1)] (rd c1 strong locX none) = true := by decide +kernel
/-- IRIW with acquire loads, and with FENCE.SC. -/
theorem test_litmus_iriw :
    may [wr c0 strong locX, wr c1 strong locY, rd c2 (.acquire 2) locX (some 0), rd c2 strong locY none, rd c3 (.acquire 2) locY (some 1)] (rd c3 strong locX none) = true
    ∧ may [wr c0 strong locX, wr c1 strong locY, rd c2 strong locX (some 0), Ev.of c2 (sc 2), rd c2 strong locY none, rd c3 strong locY (some 1), Ev.of c3 (sc 2)] (rd c3 strong locX none) = false := by
  decide +kernel
/-- CoRR with weak loads, strong ones, and strong ones at `.grp` on another cluster; CoWW of strong loads and of weak ones. -/
theorem test_litmus_coherence :
    may [wr c0 strong locX, rd c1 weak locX (some 0)] (rd c1 weak locX none) = true
    ∧ may [wr c0 strong locX, rd c1 strong locX (some 0)] (rd c1 strong locX none) = false
    ∧ may [wr c0 strong locX, rd c1 (.at 1) locX (some 0)] (rd c1 (.at 1) locX none) = true
    ∧ may [wr c0 weak locX, wr c0 weak locX 2, rd c1 strong locX (some 1)] (rd c1 strong locX (some 0)) = false
    ∧ may [wr c0 weak locX, wr c0 weak locX 2, rd c1 weak locX (some 1)] (rd c1 weak locX (some 0)) = true := by decide +kernel
/-- WRC with P1's release at `.grp` and at `.dev`. -/
theorem test_litmus_wrc :
    may [wr c0 strong locX, rd (laneOn 5 0) weak locX (some 0), wr (laneOn 5 0) (.release 1) locY, rd c2 (.acquire 2) locY (some 2)] (rd c2 weak locX none) = true
    ∧ may [wr c0 strong locX, rd (laneOn 5 0) weak locX (some 0), wr (laneOn 5 0) (.release 2) locY, rd c2 (.acquire 2) locY (some 2)] (rd c2 weak locX none) = false := by decide +kernel

/-- P0's CPY as a thread of its own, its events, and P0's wait on its flag. -/
def copier : Party := { c0 with tid := .cmd 7 1 (some 1) }
def byCopy (k : Nat) (e : Ev) : Ev := { e with rank := k, follows := [(.lane 1 0, 0)] }
def flagWait (n : Nat) : Ev := { Ev.of c0 weak with follows := [(.cmd 7 1 (some 1), n)] }
/-- MP through an engine command: as written; without release; without the wait. -/
theorem test_litmus_engine :
    may [byCopy 3 (wr copier weak locX), byCopy 5 (Ev.of copier (.release 2)), flagWait 2, wr c0 strong locY, rd c1 (.acquire 2) locY (some 3)] (rd c1 weak locX none) = false
    ∧ may [byCopy 3 (wr copier weak locX), flagWait 1, wr c0 strong locY, rd c1 (.acquire 2) locY (some 2)] (rd c1 weak locX none) = true
    ∧ may [byCopy 3 (wr copier weak locX), byCopy 5 (Ev.of copier (.release 2)), wr c0 strong locY, rd c1 (.acquire 2) locY (some 2)] (rd c1 weak locX none) = true := by decide +kernel
/-- MP through a window: WIN.PUB's fence and store; a release store behind a barrier and without one; a store without release; a read without acquire. -/
def pair (w : Nat) : Party := { mate 1 with tid := .lane 1 w }
/-- WIN.PUB's store, which follows the fences of every lane of the warp. -/
def publish : Ev := { wr (pair 0) (.at 3) locY with follows := [(.lane 1 0, 3), (.lane 1 1, 3)] }
def tenant : Party := { c3 with vf := 9 }
theorem test_litmus_window :
    may [wr (pair 1) weak locX, Ev.of (pair 0) (.release 3), Ev.of (pair 1) (.release 3), publish, rd tenant (.acquire 3) locY (some 3)] (rd tenant weak locX none) = false
    ∧ may [wr (pair 1) weak locX, Ev.of (pair 0) (.release 3), Ev.of (pair 1) (.release 3), publish, rd tenant (.at 3) locY (some 3)] (rd tenant weak locX none) = true
    ∧ may [wr (pair 1) weak locX, { Ev.of (pair 1) (.release 1) with gives := [.bar 9 0 0] }, { Ev.of (pair 0) (.acquire 1) with takes := [.bar 9 0 0] }, wr (pair 0) (.release 3) locY,
        rd tenant (.acquire 3) locY (some 3)] (rd tenant weak locX none) = false
    ∧ may [wr (pair 1) weak locX, wr (pair 0) (.release 3) locY, rd tenant (.acquire 3) locY (some 1)] (rd tenant weak locX none) = true
    ∧ may [wr (pair 1) weak locX, { Ev.of (pair 1) (.release 1) with gives := [.bar 9 0 0] }, { Ev.of (pair 0) (.acquire 1) with takes := [.bar 9 0 0] }, wr (pair 0) (.at 3) locY,
        rd tenant (.acquire 3) locY (some 3)] (rd tenant weak locX none) = true := by decide +kernel

end Sys2Proof.Tests
end

