-- ==== Sys2Proof/Tests/Slice0.lean ====
section
/-! SUPPORT. Tests: decoding of words worked out in the spec or by hand from R83 and R92, ill-formed terms that the check refuses, and single instructions with results worked out from the rules. -/

namespace Sys2Proof.Tests
set_option Elab.async false
open Sys2Proof Sys2Proof.Machine Sys2Proof.Claims

/-! Decoding: each word is worked out in the spec at the place named, or from the fields of R83. -/

-- the clause example of R74 to R92
theorem test_decode_clause : decodeWords [0x00FC4007] = some (.clause ⟨false, 3, 15, 1, 1⟩) := by decide
theorem test_decode_fma : decodeWords [0x8041008D, 0x008000C0] = some (.fmaFp (plainOps 0x08 4 (.vec 1) (.vec 2) 3)) := by decide
theorem test_decode_ld : decodeWords [0x01020201, 0x80024010] = some (.ldB32 (plainOps 0 8 (.scal 4) (.imm 0x40) 0)) := by decide
theorem test_decode_add_short : decodeWords [0xD0809018] = some (.addI32SImm ⟨⟨0, false⟩, 9, 8, 13⟩) := by decide
-- the compare and select example after R129
theorem test_decode_setp : decodeWords [0x014081C1, 0x00A20000] = some (.setp (plainOps 0x0A 2 (.vec 5) (.imm 0) 0)) := by decide
theorem test_decode_sel : decodeWords [0xC14181C5, 0x09800281] = some (.sel (plainOps 0x98 6 (.vec 5) (.vec 7) 0x0A)) := by decide
-- the group-memory counter example after R165
theorem test_decode_atom : decodeWords [0x01028281, 0x844202C0] = some (.atomAddInt (plainOps 0x44 10 (.vec 4) (.imm 0) 11)) := by decide
-- the exported side example after R196
theorem test_decode_bra :
    decodeWords [0x00040742, 0, 0x38] = some (.bra { plainOps 0 16 (.vec 0) (.vec 0) 0 with g := ⟨1, false⟩, lit := some 0x38 }) := by decide
-- the MMA example after R241
theorem test_decode_mma : decodeWords [0x02000301, 0x82204000] = some (.mma (plainOps 0x22 0 (.scal 8) (.vec 0) 0)) := by decide
-- the worked programs
theorem test_decode_bar : decodeWords [0x004002B9, 0x00008000] = some (.bar (plainOps 0 0 (.imm 1) (.vec 0) 0)) := by decide
theorem test_decode_ring_open : decodeWords [0x01000251, 0x00024148] = some (.ringOpen (plainOps 0 0 (.scal 4) (.imm 32) 5)) := by decide
theorem test_decode_ring_take : decodeWords [0x000A0261, 0x00080140] = some (.ringTake { plainOps 0 0x28 (.vec 0) (.vec 0) 5 with kd := true }) := by decide
theorem test_decode_sisect : decodeWords [0x060002CD, 0xC0004000] = some (.sisect { plainOps 0 0 (.scal 24) (.vec 0) 0 with fs := true }) := by decide
theorem test_decode_spawn : decodeWords [0x02028385, 0x00020400] = some (.spawn (plainOps 0 10 (.vec 8) (.imm 0) 16)) := by decide
theorem test_decode_dep_dec : decodeWords [0x0B00038D, 0xC0120000] = some (.depDec { plainOps 1 0 (.vec 44) (.imm 0) 0 with fs := true }) := by decide
theorem test_decode_acc_wr :
    decodeWords [0x09000312, 0x80844700, 0x6000] = some (.accWr { plainOps 8 0 (.scal 36) (.vec 0) 28 with kc := true, lit := some 0x6000 }) := by decide
-- by hand from R83: OP 0x30 (ADD.F16.RN v3, v1, v2), MOD = 0x03 * 8
theorem test_decode_packed : decodeWords [0x8040C0C1, 0x01800000] = some (.addPacked (plainOps 0x18 3 (.vec 1) (.vec 2) 0)) := by decide
-- OP 0x40 (CVT.D8.F32 v9, v3): MOD = 0x09 * 8, C = 0x01
theorem test_decode_cvt : decodeWords [0x00C24101, 0x04800040] = some (.cvt (plainOps 0x48 9 (.vec 3) (.vec 0) 1)) := by decide
-- OP 0x50 (XLANE.FLIP.B32 v2, v1, 1)
theorem test_decode_xlane : decodeWords [0x40408141, 0x00320000] = some (.xlane (plainOps 3 2 (.vec 1) (.imm 1) 0)) := by decide
-- OP 0x60 (SADD.I32 s3, s1, -1): KD = 1, KA = 01, KB = 10, B = 0xFF
theorem test_decode_sadd : decodeWords [0xC040C181, 0x090A403F] = some (.sadd { plainOps 0x90 3 (.scal 1) (.imm 0xFF) 0 with kd := true }) := by decide
-- OP 0x10 with a literal (AND.B32 v2, v1, 0xFF00FF00): KIND 10
theorem test_decode_literal :
    decodeWords [0x00408042, 0x09800000, 0xFF00FF00] = some (.andB { plainOps 0x98 2 (.vec 1) (.vec 0) 0 with lit := some 0xFF00FF00 }) := by decide
-- OP 0xF0 (SYSRD s4, FPC), OP 0xB0 (CPY, A = s8), OP 0x48 (SINPI.F32 v2, v1), OP 0xF4 (BKPT under !p3)
theorem test_decode_sysrd : decodeWords [0x000103C1, 0x00080000] = some (.sysrd { plainOps 0 4 (.vec 0) (.vec 0) 0 with kd := true }) := by decide
theorem test_decode_cpy : decodeWords [0x020002C1, 0x80004000] = some (.cpy (plainOps 0 0 (.scal 8) (.vec 0) 0)) := by decide
theorem test_decode_bkpt : decodeWords [0x00002FD1, 0] = some (.bkpt { plainOps 0 0 (.vec 0) (.vec 0) 0 with g := ⟨3, true⟩ }) := by decide
-- JMP.S with offset -1 (R94); with a guard field it is no instruction
theorem test_decode_jmp_s : decodeWords [0xFFFFF05C] = some (.jmpS (-1)) ∧ decodeWords [0xFFFFF45C] = none := by decide
-- reserved opcodes are no instruction (R93, R95)
theorem test_decode_reserved : decodeWords [0x00000064] = none ∧ decodeWords [0x0000015D, 0] = none := by decide

/-! Ill-formed terms: one for each check of R75, R85, R90, R97 and of the operand rules. -/

theorem test_wf_header_len : (Instr.clause ⟨false, 0, 15, 1, 1⟩).wf = false := by decide
theorem test_wf_header_flag : (Instr.clause ⟨false, 3, 15, 12, 1⟩).wf = false ∧ (Instr.clause ⟨false, 3, 14, 0, 1⟩).wf = false := by decide
theorem test_wf_header_same : (Instr.clause ⟨false, 3, 2, 2, 1⟩).wf = false ∧ (Instr.clause ⟨false, 3, 15, 15, 1⟩).wf = true := by decide
theorem test_wf_good : (Instr.fmaFp (plainOps 0x08 4 (.vec 1) (.vec 2) 3)).wf = true := by decide
theorem test_wf_type : (Instr.fmaFp (plainOps 0x90 4 (.vec 1) (.vec 2) 3)).wf = false := by decide
theorem test_wf_round : (Instr.fmaFp (plainOps 0x0D 4 (.vec 1) (.vec 2) 3)).wf = false := by decide
theorem test_wf_unused_operand : (Instr.notB (plainOps 0x98 4 (.vec 1) (.vec 2) 0)).wf = false := by decide
theorem test_wf_unused_third : (Instr.addInt (plainOps 0x90 4 (.vec 1) (.vec 2) 3)).wf = false := by decide
theorem test_wf_pair : (Instr.addInt (plainOps 0xA0 5 (.vec 2) (.vec 4) 0)).wf = false ∧ (Instr.addInt (plainOps 0xA0 6 (.vec 2) (.vec 3) 0)).wf = false := by decide
theorem test_wf_scalar_number : (Instr.addInt (plainOps 0x90 4 (.scal 128) (.vec 1) 0)).wf = false := by decide
theorem test_wf_special_number : (Instr.addInt (plainOps 0x90 4 (.spec 15) (.vec 1) 0)).wf = false := by decide
theorem test_wf_special_uniform : (Instr.sadd { plainOps 0x90 4 (.spec 0) (.imm 1) 0 with kd := true }).wf = false := by decide
theorem test_wf_destination_kind : (Instr.sadd (plainOps 0x90 4 (.scal 1) (.imm 1) 0)).wf = false := by decide
theorem test_wf_predicate_number : (Instr.setp (plainOps 0x0A 8 (.vec 5) (.imm 0) 0)).wf = false := by decide
theorem test_wf_immediate_range : (Instr.bar (plainOps 0 0 (.imm 16) (.vec 0) 0)).wf = false := by decide
theorem test_wf_block : (Instr.mma (plainOps 0x22 0 (.scal 6) (.vec 0) 0)).wf = false := by decide
theorem test_wf_guard : (Instr.sadd { plainOps 0x90 4 (.scal 1) (.imm 1) 0 with kd := true, g := ⟨1, false⟩ }).wf = false := by decide
theorem test_wf_flag_select : (Instr.sleep { plainOps 0 0 (.vec 0) (.imm 1) 0 with fs := true }).wf = false := by decide
theorem test_wf_stall : (Instr.ringTake { plainOps 0 0x28 (.vec 0) (.vec 0) 5 with kd := true, stall := 1 }).wf = false := by decide
theorem test_wf_literal_form : (Instr.notB { plainOps 0x98 4 (.vec 1) (.vec 0) 0 with lit := some 1 }).wf = false := by decide
theorem test_wf_literal_field : (Instr.addInt { plainOps 0x90 4 (.vec 1) (.vec 2) 0 with lit := some 1 }).wf = false := by decide
theorem test_wf_form : (Instr.jmp (plainOps 0 0 (.vec 0) (.vec 0) 0)).wf = false := by decide
theorem test_wf_short : (Instr.addI32S ⟨⟨0, false⟩, 1, 2, 1⟩).wf = false ∧ (Instr.nopS ⟨⟨0, false⟩, 1, 0, 0⟩).wf = false := by decide

/-! Single instructions. One lane is active; v1, v2 and v3 hold the operands, v4 receives the result. -/

/-- A warp at the placed instruction with one lane, and registers given by number. -/
def warp (v sc : List (Nat × Nat)) : Agent :=
  { placeWarp 1 2 false with
    vregs := v.map (fun x => (64 * x.1, BitVec.ofNat 32 x.2)), sregs := sc.map (fun x => (x.1, BitVec.ofNat 32 x.2))
    started := 1, live := 1
    slotA := Slot.of (some ⟨⟨BitVec.ofNat 64 placeAt, 0⟩, 1, .none, .body (BitVec.ofNat 64 (placeAt + 4)) placeHdr⟩) .none false 0 }
/-- The machine with one agent, which executes. -/
def alone (a : Agent) : State := { State.reset with agents := [(0, a)], cur := some ⟨0, false⟩ }
/-- The agent after an instruction. -/
def after (i : Instr) (a : Agent) : Agent := match exec i (alone a) with | .next t => (t.agent? 0).getD Agent.blank | _ => Agent.blank
/-- v4 after an instruction of v1, v2 and C. -/
def d32 (i : MOps → Instr) (mod : BitVec 8) (c : BitVec 8) (x y z : Nat) : Nat :=
  ((after (i (plainOps mod 4 (.vec 1) (.vec 2) c)) (warp [(1, x), (2, y), (3, z)] [])).v 4 0).toNat
/-- v4 and the flags of FPC. -/
def f32 (i : MOps → Instr) (mod : BitVec 8) (c : BitVec 8) (x y z : Nat) : Nat × Nat :=
  let a := after (i (plainOps mod 4 (.vec 1) (.vec 2) c)) (warp [(1, x), (2, y), (3, z)] [])
  ((a.v 4 0).toNat, a.fpc.toNat)
/-- s4 after a scalar instruction of s1 and s2. -/
def s32 (i : MOps → Instr) (mod c : BitVec 8) (kc : Bool) (x y : Nat) : Nat :=
  ((after (i { plainOps mod 4 (.scal 1) (.scal 2) c with kd := true, kc := kc }) (warp [] [(1, x), (2, y), (3, 0)])).s 4).toNat

-- R116, R117: n = 32, wrap and clamp by hand
theorem test_add_sat : f32 .addInt 0x91 0 0x7FFFFFFF 1 0 = (0x7FFFFFFF, 32) := by decide +kernel
theorem test_add_wraps : f32 .addInt 0x90 0 0x7FFFFFFF 1 0 = (0x80000000, 0) := by decide +kernel
theorem test_sub_wraps : d32 .subInt 0x98 0 0 1 0 = 0xFFFFFFFF := by decide +kernel
theorem test_mul_low : d32 .mulInt 0x90 0 0x10001 0x10001 0 = 0x00020001 := by decide +kernel
theorem test_mulhi_unsigned : d32 .mulhi 0x98 0 0xFFFFFFFF 0xFFFFFFFF 0 = 0xFFFFFFFE := by decide +kernel
theorem test_mad : d32 .mad 0x90 3 0xFFFFFFFE 3 1 = 0xFFFFFFFB := by decide +kernel
theorem test_madhi_floor : d32 .madhi 0x90 3 0xFFFFFFFF 1 0 = 0xFFFFFFFF := by decide +kernel
theorem test_div_truncates : d32 .divInt 0x90 0 0xFFFFFFF9 2 0 = 0xFFFFFFFD := by decide +kernel
theorem test_div_zero : f32 .divInt 0x98 0 7 0 0 = (0xFFFFFFFF, 0) := by decide +kernel
theorem test_rem_sign : d32 .rem 0x90 0 0xFFFFFFF9 2 0 = 0xFFFFFFFF := by decide +kernel
theorem test_min_signed : d32 .minInt 0x90 0 0xFFFFFFFF 1 0 = 0xFFFFFFFF := by decide +kernel
theorem test_max_unsigned : d32 .maxInt 0x98 0 0xFFFFFFFF 1 0 = 0xFFFFFFFF := by decide +kernel
theorem test_abs_min : f32 .absInt 0x91 0 0x80000000 0 0 = (0x7FFFFFFF, 32) := by decide +kernel
theorem test_neg : d32 .negInt 0x90 0 1 0 0 = 0xFFFFFFFF := by decide +kernel
theorem test_sad : d32 .sad 0x98 3 3 5 1 = 3 := by decide +kernel
theorem test_dp4_signed : d32 .dp4 0x90 3 0xFF020304 0x01010101 10 = 18 := by decide +kernel
theorem test_dp2_unsigned : d32 .dp2 0x98 3 0xFFFF0002 0x00010003 1 = 0x10006 := by decide +kernel
theorem test_lea_signed :
    (after (.lea (plainOps 0xA0 8 (.vec 2) (.vec 1) 3)) (warp [(1, 0xFFFFFFFF), (2, 0), (3, 1)] [])).vN 8 0 2 = 0xFFFFFFF8 := by decide +kernel

-- R118, R119
theorem test_and : d32 .andB 0x98 0 0xFF00FF00 0x0FF00FF0 0 = 0x0F000F00 := by decide +kernel
theorem test_or : d32 .orB 0x98 0 0xFF000000 0x0FF00000 0 = 0xFFF00000 := by decide +kernel
theorem test_xor : d32 .xor 0x98 0 0xFF00FF00 0x0FF00FF0 0 = 0xF0F0F0F0 := by decide +kernel
theorem test_not : d32 .notB 0x98 0 0x0F0F0F0F 0 0 = 0xF0F0F0F0 := by decide +kernel
theorem test_andn : d32 .andn 0x98 0 0xFFFF0000 0xFF00FF00 0 = 0x00FF0000 := by decide +kernel
-- the majority of A, B and the old D, as R118 says of lut 0xE8
theorem test_bitf_majority :
    ((after (.bitf (plainOps 0x98 3 (.vec 1) (.vec 2) 0xE8)) (warp [(1, 0b1100), (2, 0b1010), (3, 0b0110)] [])).v 3 0).toNat = 0b1110 := by decide +kernel
theorem test_shl_width : d32 .shl 0x98 0 1 32 0 = 0 := by decide +kernel
theorem test_shr_sign : d32 .shr 0x90 0 0x80000000 40 0 = 0xFFFFFFFF := by decide +kernel
theorem test_shf : d32 .shf 0x98 3 0x12345678 0x9ABCDEF0 68 = 0x01234567 := by decide +kernel
theorem test_rot : d32 .rot 0x98 0 0x80000001 33 0 = 0x00000003 := by decide +kernel
theorem test_popc : d32 .popc 0x98 0 0xF0F0F001 0 0 = 13 := by decide +kernel
theorem test_clz_zero : d32 .clz 0x98 0 0 0 0 = 32 := by decide +kernel
theorem test_brev : d32 .brev 0x98 0 0x00000013 0 0 = 0xC8000000 := by decide +kernel
theorem test_bfe_sign : d32 .bfe 0x90 0 0x00000080 0x0404 0 = 0xFFFFFFF8 := by decide +kernel
theorem test_bfi : d32 .bfi 0x98 3 0xFFFFFFFF 0 0x0804 = 0xFFFFF00F := by decide +kernel
theorem test_prmb : d32 .prmb 0x98 3 0x33221100 0x77665544 0x8407 = 0x00440077 := by decide +kernel

-- R120 to R123: FP32 codes by hand
theorem test_fadd_tie : f32 .addFp 0x08 0 0x4B800000 0x3F800000 0 = (0x4B800000, 1) := by decide +kernel
theorem test_fsub : d32 .subFp 0x08 0 0x3F800000 0x40000000 0 = 0xBF800000 := by decide +kernel
theorem test_fmul_overflow : f32 .mulFp 0x08 0 0x7F7FFFFF 0x40000000 0 = (0x7F800000, 5) := by decide +kernel
theorem test_fma : d32 .fmaFp 0x08 3 0x40000000 0x40400000 0x3F800000 = 0x40E00000 := by decide +kernel
theorem test_fdiv_zero : f32 .divFp 0x08 0 0x3F800000 0x80000000 0 = (0xFF800000, 8) := by decide +kernel
theorem test_fmin_zeros : d32 .minFp 0x08 0 0 0x80000000 0 = 0x80000000 := by decide +kernel
theorem test_fmax_nan : f32 .maxFp 0x08 0 0x7FC00000 0x3F800000 0 = (0x3F800000, 0) := by decide +kernel
theorem test_fabs_nan : f32 .absFp 0x08 0 0xFF812345 0 0 = (0x7F812345, 0) := by decide +kernel
theorem test_fneg : d32 .negFp 0x08 0 0x3F800000 0 0 = 0xBF800000 := by decide +kernel
theorem test_frc : d32 .frc 0x08 0 0x3FC00000 0 0 = 0x3F000000 := by decide +kernel
theorem test_rndi_even : f32 .rndi 0x08 0 0x40200000 0 0 = (0x40000000, 0) := by decide +kernel
theorem test_scalb : d32 .scalb 0x08 0 0x3F800000 3 0 = 0x41000000 := by decide +kernel
theorem test_getexp : d32 .getexp 0x08 0 0x41000000 0 0 = 0x40400000 := by decide +kernel
theorem test_getman : d32 .getman 0x08 0 0x41400000 0 0 = 0x3FC00000 := by decide +kernel
theorem test_fclamp : d32 .clampFp 0x08 3 0x41200000 0x40400000 0x40000000 = 0x40000000 := by decide +kernel

-- R124, R125: FP16 pairs
theorem test_packed_add : d32 .addPacked 0x18 0 0x3C004000 0x3C003C00 0 = 0x40004200 := by decide +kernel
theorem test_packed_sub : d32 .subPacked 0x18 0 0x3C004000 0x3C003C00 0 = 0x00003C00 := by decide +kernel
theorem test_packed_mul : d32 .mulPacked 0x18 0 0x40004200 0x40004000 0 = 0x44004600 := by decide +kernel
theorem test_packed_fma : d32 .fmaPacked 0x18 3 0x40004000 0x40003C00 0x3C003C00 = 0x45004200 := by decide +kernel
theorem test_packed_neg : d32 .negPacked 0x18 0 0x3C00BC00 0 0 = 0xBC003C00 := by decide +kernel
theorem test_dot2 : d32 .dot2 0x18 3 0x40003C00 0x42004000 0x3F800000 = 0x41100000 := by decide +kernel

-- R130 to R133; the first is the example of R130
theorem test_cvt_d8 : f32 .cvt 0x48 1 0x48742400 0 0 = (0x3D, 1) := by decide +kernel
-- the table of E4M3 results near the top: 300.0, 460.0 and 500.0
theorem test_cvt_e4m3 : f32 .cvt 0x20 1 0x43960000 0 0 = (0x79, 1) ∧ f32 .cvt 0x20 1 0x43FA0000 0 0 = (0x7E, 37) := by decide +kernel
theorem test_pack_element :
    ((after (.pack (plainOps 0x20 4 (.vec 1) (.imm 2) 1)) (warp [(1, 0x43E60000), (4, 0xAABBCCDD)] [])).v 4 0).toNat = 0xAA7ECCDD := by decide +kernel
theorem test_unpack_element : d32 .unpack 0x08 4 0x7E000000 3 0 = 0x43E00000 := by decide +kernel
-- 0.125 * 2^n with n = floor(log2(448 / rmax)) = 0 for an empty ring, which the VF does not own
theorem test_cvt_q : ((after (.cvtQ (plainOps 0x20 4 (.vec 1) (.imm 63) 1)) (warp [(1, 0x3F800000)] [])).v 4 0).toNat = 0x38 := by decide +kernel

-- R126 to R129, R143 to R147
/-- Predicate p2 of lane 0 after an instruction. -/
def p2 (i : MOps → Instr) (mod c : BitVec 8) (x y : Nat) : Bool := ((after (i (plainOps mod 2 (.vec 1) (.vec 2) c)) (warp [(1, x), (2, y)] [])).p 2).getLsbD 0
theorem test_setp_signed : p2 .setp 0x92 0 0xFFFFFFFF 0 = true ∧ p2 .setp 0x9A 0 0xFFFFFFFF 0 = false := by decide +kernel
theorem test_setp_zeros : p2 .setp 0x08 0 0x80000000 0 = true := by decide +kernel
theorem test_sel_negated : d32 .sel 0x98 0x0A 5 7 0 = 5 := by decide +kernel
theorem test_plop : ((after (.plop (plainOps 0x02 2 (.vec 1) (.vec 1) 0)) (warp [] [])).p 2).getLsbD 0 = true := by decide +kernel
theorem test_prd : d32 .prd 0 0 0 0 0 = 1 := by decide +kernel
theorem test_pwr : ((after (.pwr (plainOps 0 0 (.vec 1) (.vec 2) 0)) (warp [(1, 0xFF), (2, 0x05)] [])).p 2).getLsbD 0 = true := by decide +kernel
theorem test_mov_immediate : ((after (.mov (plainOps 0x98 4 (.imm 0xFF) (.vec 0) 0)) (warp [] [])).v 4 0).toNat = 0xFFFFFFFF := by decide +kernel
theorem test_class_subnormal : p2 .class 0x08 0 1 0x80 = true ∧ p2 .class 0x08 0 1 0x100 = false := by decide +kernel
theorem test_first : p2 .first 0 0 0 0 = true := by decide +kernel

/-- A warp with four lanes active, v1 given by lane. -/
def four (x : List Nat) : Agent :=
  { placeWarp 1 2 false with
    vregs := x.zipIdx.map (fun y => (64 + y.2, BitVec.ofNat 32 y.1)), width := 16
    slotA := Slot.of (some ⟨⟨BitVec.ofNat 64 placeAt, 0⟩, 0xF, .none, .body (BitVec.ofNat 64 (placeAt + 4)) placeHdr⟩) .none false 0 }
/-- v4 of the four lanes. -/
def lanes4 (i : Instr) (x : List Nat) : List Nat := (List.range 4).map (fun L => ((after i (four x)).v 4 L).toNat)
-- the exact-sum example after R146: 2^24, 1, 1, -2^24
theorem test_red_exact : lanes4 (.red (plainOps 0x08 4 (.vec 1) (.imm 0) 0)) [0x4B800000, 0x3F800000, 0x3F800000, 0xCB800000] = [0x40000000, 0x40000000, 0x40000000, 0x40000000] := by decide +kernel
theorem test_scan_exclusive : lanes4 (.scan (plainOps 0x08 4 (.vec 1) (.imm 8) 0)) [0x4B800000, 0x3F800000, 0x3F800000, 0xCB800000] = [0x80000000, 0x4B800000, 0x4B800000, 0x4B800001] := by decide +kernel
theorem test_xlane_flip : lanes4 (.xlane (plainOps 3 4 (.vec 1) (.imm 1) 0)) [1, 2, 3, 4] = [2, 1, 4, 3] := by decide +kernel
theorem test_xlane_edge : lanes4 (.xlane (plainOps 2 4 (.vec 1) (.imm 1) 0)) [1, 2, 3, 4] = [2, 3, 4, 4] := by decide +kernel
theorem test_eqset_mask : lanes4 (.eqset (plainOps 0 4 (.vec 1) (.vec 0) 0)) [5, 6, 5, 7] = [5, 2, 5, 8] := by decide +kernel
theorem test_pcomb_count : lanes4 (.pcomb (plainOps 4 4 (.vec 0) (.vec 0) 0)) [] = [4, 4, 4, 4] := by decide +kernel
theorem test_spread_high : lanes4 (.spread (plainOps 2 4 (.vec 1) (.vec 0) 0)) [1, 2, 3, 4] = [4, 4, 4, 4] := by decide +kernel
theorem test_rdlane : ((after (.rdlane { plainOps 0x98 4 (.vec 1) (.imm 3) 0 with kd := true }) (four [1, 2, 3, 4])).s 4).toNat = 4
    ∧ ((after (.rdlane { plainOps 0x98 4 (.vec 1) (.imm 4) 0 with kd := true }) (four [1, 2, 3, 4, 5])).s 4).toNat = 0 := by decide +kernel

-- R148
theorem test_sadd_sat : s32 .sadd 0x99 0 false 0xFFFFFFFF 1 = 0xFFFFFFFF := by decide +kernel
theorem test_ssub : s32 .ssub 0x90 0 false 1 2 = 0xFFFFFFFF := by decide +kernel
theorem test_smul : s32 .smul 0x90 0 false 3 0xFFFFFFFF = 0xFFFFFFFD := by decide +kernel
theorem test_smin : s32 .smin 0x98 0 false 0xFFFFFFFF 1 = 1 := by decide +kernel
theorem test_smax : s32 .smax 0x90 0 false 0xFFFFFFFF 1 = 1 := by decide +kernel
theorem test_scmp : s32 .scmp 0x90 2 false 0xFFFFFFFF 0 = 1 := by decide +kernel
theorem test_ssel : s32 .ssel 0x98 3 true 5 7 = 7 := by decide +kernel
theorem test_sshr : s32 .sshr 0x90 0 false 0x80000000 4 = 0xF8000000 := by decide +kernel
theorem test_spopc : s32 .spopc 0x98 0 false 0xFF 0 = 8 := by decide +kernel

-- R55 to R58, R209, R210
theorem test_syswr_reserved : (after (.syswr { plainOps 0 0 (.vec 0) (.vec 0) 0 with lit := some 0xFFFFFFFF }) (warp [] [])).fpc = 0xF7F := by decide +kernel
theorem test_sysrd : ((after (.sysrd { plainOps 0 4 (.vec 0) (.vec 0) 0 with kd := true }) { warp [] [] with fpc := 0x123 }).s 4).toNat = 0x123 := by decide +kernel

-- the swizzled address example of R67: BASE 0x1000, ESZ 2, STRIDE0 128, PERM 1, element (0, 3, 0, 0)
theorem test_layout_swizzle : layPerm 1 0x1180 = 0x11B0 ∧ layPerm 1 0x1000 = 0x1000 := by decide

/-! Whole steps on a placed instruction. -/

/-- The placed warp after one step. -/
def stepped (n w : Nat) : Agent := match step (State.reset.withFetchWord n w) with | .next t => (t.agent? 0).getD Agent.blank | _ => Agent.blank
-- ADD.I32 v9, v8, -3 of the clause example, on registers that hold 0
theorem test_step_short_add : ((stepped 32 0xD0809018).v 9 31).toNat = 0xFFFFFFFD := by decide +kernel
-- SOP 0x19 is reserved (R93): without a handler the warp ends with a fault status (R210), and nothing has issued
theorem test_step_illegal : (stepped 32 0x64).faulted = true ∧ (stepped 32 0x64).insn = 0 := by decide +kernel
-- the header of the clause example without its wait starts its clause at the next parcel (R76, R77)
theorem test_step_header : (match (stepped 32 0x00FC4003).slotA.path with | some p => p.phase | none => .header) = .body 0x1004 ⟨false, 3, 15, 1, 0⟩ := by decide +kernel

end Sys2Proof.Tests
end

