-- ==== Sys2Proof/Tests/Witness1.lean ====
section
/-! SUPPORT. Witnesses: concrete states and operands that meet the hypotheses of the statements about instructions of one agent, clause by clause, at the bounds of their ranges. -/

namespace Sys2Proof.Tests
open Sys2Proof Sys2Proof.Machine Sys2Proof.Claims
set_option Elab.async false

/-- The placed machine, its warp executing. -/
def placed : State := { State.reset.withFetchWord 64 0 with cur := some ⟨0, false⟩ }
/-- Its warp and path. -/
def pw : Agent := placeWarp 1 2 false
def pp : Path := ⟨⟨0x1000, 0⟩, maskTo 32, .none, .body 0x1004 placeHdr⟩
/-- The placed machine with its agent replaced. -/
def with' (a : Agent) : State := { placed with agents := [(0, a)] }
/-- An agent's path on slot A. -/
def onA (a : Agent) (p : Path) : Agent := { a with slotA := { a.slotA with path := some p } }

/-- Some lane is active, or under !p0 none is: the hypotheses of the statements about vector, predicate, scalar, short and conversion instructions, and of NoActiveLaneChangesNothing. -/
theorem witness_running : placed.running = some (0, false, pw, pp) ∧ pw.active pp ⟨0, false⟩ ≠ 0 ∧ pw.active pp ⟨0, true⟩ = 0 ∧ pw.isWave = false ∧ pp.last = true := by
  decide +kernel
/-- Well-formed instructions of every logic opcode whose bits are stated (IntegerAndLogicInstructionsDeliverExactResults, ScalarInstructionsWriteOneResult, ShortInstructionsFollowTheirMForm). -/
theorem witness_logic_wf :
    ([.andB (plainOps 0x98 4 (.vec 1) (.vec 2) 0), .orB (plainOps 0x98 4 (.vec 1) (.vec 2) 0), .xor (plainOps 0x98 4 (.vec 1) (.vec 2) 0), .notB (plainOps 0xA8 4 (.vec 2) (.vec 0) 0),
      .andn (plainOps 0x98 4 (.vec 1) (.vec 2) 0), .bitf (plainOps 0x98 4 (.vec 1) (.vec 2) 0xE8), .shl (plainOps 0xA8 4 (.vec 2) (.vec 5) 0), .shr (plainOps 0xA0 4 (.vec 2) (.imm 63) 0),
      .shf (plainOps 0x98 4 (.vec 1) (.vec 2) 3), .rot (plainOps 0x98 4 (.vec 1) (.vec 2) 0), .brev (plainOps 0x98 4 (.vec 1) (.vec 0) 0), .bfe (plainOps 0x90 4 (.vec 1) (.vec 2) 0),
      .bfi (plainOps 0x98 4 (.vec 1) (.vec 2) 3), .prmb (plainOps 0x98 4 (.vec 1) (.vec 2) 3),
      .sand { plainOps 0x98 4 (.scal 1) (.scal 2) 0 with kd := true }, .sor { plainOps 0x98 4 (.scal 1) (.scal 2) 0 with kd := true }, .sxor { plainOps 0x98 4 (.scal 1) (.scal 2) 0 with kd := true },
      .sshl { plainOps 0x98 4 (.scal 1) (.scal 2) 0 with kd := true }, .sshr { plainOps 0x90 4 (.scal 1) (.scal 2) 0 with kd := true },
      .shlB32S ⟨⟨0, false⟩, 1, 2, 15⟩, .shrN32S ⟨⟨0, false⟩, 1, 2, 15⟩, .shrI32S ⟨⟨0, false⟩, 1, 2, 15⟩, .andB32S ⟨⟨0, false⟩, 1, 2, 0⟩, .orB32S ⟨⟨0, false⟩, 1, 2, 0⟩, .xorB32S ⟨⟨0, false⟩, 1, 2, 0⟩,
      .lea (plainOps 0xA0 8 (.vec 2) (.vec 1) 7), .yield (plainOps 0 0 (.vec 0) (.vec 0) 0), .nopS ⟨⟨0, true⟩, 0, 0, 0⟩] : List Instr).all (fun i => i.wf) = true := by decide +kernel
/-- The types of SpecialFunctionsDeliverTheirValues. -/
theorem witness_special_types : tyOf (plainOps 0x08 4 (.vec 1) (.vec 0) 0) = FP32 ∧ tyOf (plainOps 0x18 4 (.vec 1) (.vec 0) 0) = FP16
    ∧ tyOf (plainOps 0x10 4 (.vec 1) (.vec 0) 0) = BF16 ∧ tyOf (plainOps 0x00 4 (.vec 2) (.vec 0) 0) = FP64 := by decide +kernel
/-- ConversionsDeliverTheirElements: DYN into D8 with FPC.RM not RN, and any other; a dense and another form; element 3 of four, and 4, which is out of range. -/
theorem witness_conversion :
    (tyOf (plainOps 0x4F 4 (.vec 1) (.vec 0) 1) = D8 ∧ modLow (plainOps 0x4F 4 (.vec 1) (.vec 0) 1) = 7 ∧ ({ pw with fpc := 0x100 } : Agent).rm ≠ 0)
    ∧ pw.rm = 0 ∧ isDense (plainOps 0x20 4 (.vec 1) (.imm 3) 1) = false ∧ isDense (plainOps 0x30 4 (.vec 8) (.imm 0) 6) = true
    ∧ wordB placed pw (plainOps 0x20 4 (.vec 1) (.imm 3) 1) 0 < 32 / elemBits E4M3 ∧ ¬ wordB placed pw (plainOps 0x20 4 (.vec 1) (.imm 4) 1) 0 < 32 / elemBits E4M3 := by
  decide +kernel
/-- CrossLaneInstructionsReadActiveLanes: every mode of PCOMB and EQSET, and both destinations of RED. -/
theorem witness_cross_lane : (List.range 5).all (fun k => (plainOps (BitVec.ofNat 8 k) 4 (.vec 0) (.vec 0) 0).mod.toNat == k) = true
    ∧ (List.range 3).all (fun k => (plainOps (BitVec.ofNat 8 k) 4 (.vec 0) (.vec 0) 0).mod.toNat % 4 == k) = true := by decide +kernel
/-- NoActiveLaneChangesNothing: RED to a scalar under !p0. -/
theorem witness_red_scalar : ({ plainOps 0x08 4 (.vec 1) (.imm 0) 0 with kd := true, g := ⟨0, true⟩ } : MOps).g.neg = true := rfl

/-- A state in which ring 63 is VF 0's, with a maximum of 2.0. -/
def amaxed : State := { placed with amax := [(63, ⟨some 0, 0x40000000 :: List.replicate 15 0, 0⟩)] }
/-- AmaxRingsAreReadBeforeTheyAreUpdated: ids 63 and 64; an owned ring, whose maximum is 2.0, and another, read as +0; lanes with a finite value, and none. -/
theorem witness_amax :
    amaxed.running = some (0, false, pw, pp) ∧ wordB amaxed pw (plainOps 0x20 4 (.vec 1) (.imm 63) 1) 0 ≤ 63 ∧ wordB amaxed pw (plainOps 0x20 4 (.vec 1) (.imm 64) 1) 0 > 63
    ∧ amaxed.ownsAmax 63 pw.vf = true ∧ (amaxed.amaxRing 63).entries.all (fun e => decide (e.toNat ≤ 0x40000000)) = true ∧ (amaxed.amaxRing 63).entries.any (fun e => e.toNat == 0x40000000) = true
    ∧ amaxed.ownsAmax 62 pw.vf = false ∧ absCode (.fin true 1 0) = some 0x3F800000 ∧ absCode (.fin false 3 (-1)) = some 0x3FC00000 ∧ absCode (.inf true) = none := by
  decide +kernel
/-- The scale of AmaxRingsAreReadBeforeTheyAreUpdated: 1.0, the least subnormal and the largest number. -/
theorem witness_quant_scale : decodeVal FP32 0x3F800000 = .fin false (2 ^ 23) (-23) ∧ decodeVal FP32 1 = .fin false 1 (-149) ∧ decodeVal FP32 0x7F7FFFFF = .fin false (2 ^ 24 - 1) 104 := by
  decide +kernel

/-! Memory. -/

/-- An access at address 0x40, and one at the last word of the cached 2 MiB page. -/
def oMem : MOps := plainOps 0 8 (.scal 0) (.imm 0x40) 11
def oEnd : MOps := { plainOps 0 8 (.scal 0) (.vec 0) 11 with lit := some 0x1FFFFC }
/-- The lanes of an access of the placed warp reach device memory. -/
theorem lanes_reach (o : MOps) (need : Need) (n : Nat)
    (h : ∀ L, L < 64 → (maskTo 32).getLsbD L = true → globAddr placed pw o L % n = 0 ∧ meets placed 0 false pw need (globAddr placed pw o L) = .ok (.dev (globAddr placed pw o L)) none
      ∧ placed.heldLoc (.dev (globAddr placed pw o L)) = false) :
    lanesReach placed 0 false pw (maskTo 32) need n (globAddr placed pw o) (fun L => .dev (globAddr placed pw o L)) :=
  fun L h1 h2 => ⟨(h L h1 h2).1, ⟨none, (h L h1 h2).2.1⟩, (h L h1 h2).2.2⟩
/-- LoadsReadTheirBytes, AtomicsReadAndWriteInOneStep: the lanes reach, their bytes are sound, and no task tracks a 65th line. -/
theorem witness_load : lanesReach placed 0 false pw (pw.active pp oMem.g) needR 4 (globAddr placed pw oMem) (fun L => .dev (globAddr placed pw oMem L))
    ∧ lanesReach placed 0 false pw (maskTo 32) needR 4 (globAddr placed pw oEnd) (fun L => .dev (globAddr placed pw oEnd L))
    ∧ lanesReach placed 0 false pw (maskTo 32) needRW 4 (globAddr placed pw oMem) (fun L => .dev (globAddr placed pw oMem L))
    ∧ (∀ L, L < 64 → placed.sound (.dev (globAddr placed pw oMem L)) 4 = true)
    ∧ (placed.forget (.slot 0 false)).trackLines pw ((lanesOf (maskTo 32)).map (fun L => (L, (Loc.dev (globAddr placed pw oMem L)).line))) ≠ none := by
  have e : pw.active pp oMem.g = maskTo 32 := by decide +kernel
  rw [e]
  exact ⟨lanes_reach _ _ _ (by decide +kernel), lanes_reach _ _ _ (by decide +kernel), lanes_reach _ _ _ (by decide +kernel), by decide +kernel, by decide +kernel⟩
/-- GlobalStoresWriteTheirBytesAndNoOthers: a warp's stores are direct, and every location may be written. -/
theorem witness_store : direct placed pw (maskTo 32)
    ∧ lanesReach placed 0 false pw (maskTo 32) needW 4 (globAddr placed pw oMem) (fun L => .dev (globAddr placed pw oMem L))
    ∧ (∀ L, L < 64 → placed.writeSound ((lanesOf (maskTo 32)).map (fun L => (Loc.dev (globAddr placed pw oMem L), 4))) (.dev (globAddr placed pw oMem L), 4) = true) :=
  ⟨⟨by decide +kernel, fun h => absurd h (by decide +kernel)⟩, lanes_reach _ _ _ (by decide +kernel), by decide +kernel⟩

/-- A task record that runs. -/
def rec (L : Nat) : TaskRec := ⟨.running, 0, [], 2, false, false, 0, [], [], [], 0, 0, L, false⟩
/-- A wave of two tasks. -/
def wave : Agent := { onA pw { pp with mask := 3 } with kind := .wave, group := none, tasks := [(0, 0), (1, 1)], started := 3, live := 3 }
def waving : State := { with' wave with recs := [(0, rec 0), (1, rec 1)] }
def wp : Path := { pp with mask := 3 }
/-- TasksBufferTheirWrites: a wave whose tasks are not irrevocable, with room in their buffers, at a weak store and at an atomic without a result. -/
theorem witness_buffer : waving.running = some (0, false, wave, wp) ∧ wave.isWave = true ∧ wave.active wp oMem.g = 3 ∧ waving.softLanes wave 3 = 3
    ∧ waving.overflow wave 3 (fun L => storeEntry .glob .weak (globAddr waving wave oMem L) (bytesOf 7 4) ((Loc.dev (globAddr waving wave oMem L)).block)) = 0
    ∧ (∀ L, L < 64 → globAddr waving wave oMem L % 4 = 0 ∧ meets waving 0 false wave needRW (globAddr waving wave oMem L) = .ok (.dev (globAddr waving wave oMem L)) none
      ∧ waving.heldLoc (.dev (globAddr waving wave oMem L)) = false ∧ waving.sound (.dev (globAddr waving wave oMem L)) 4 = true)
    ∧ atomGm (plainOps 0x02 0 (.scal 0) (.imm 0x40) 11) = false ∧ atomNr (plainOps 0x02 0 (.scal 0) (.imm 0x40) 11) = true := by
  decide +kernel

/-- The placed machine whose group holds one granule of group memory. -/
def grouped : State := { placed with groups := [(1, ⟨2, 0, 0, 0, 0, [0], [], [(0, 0)], [(0, maskTo 32)], [], [], false, false, [], [], false⟩)] }
/-- B32 at an address in group memory. -/
def oGm (x : Word) : MOps := { plainOps 0x80 8 (.scal 0) (.vec 0) 11 with lit := some x }
/-- GroupMemoryAccessesReadAndWriteTheirBytes: accesses at the last word of the group and just past it, aligned, with no granule to be filled; a wave that speculates; a layout word that is legal. -/
theorem witness_group_memory : grouped.running = some (0, false, pw, pp)
    ∧ (∀ L, L < 64 → gmAddr grouped pw (oGm 4092) L % 4 = 0 ∧ gmAddr grouped pw (oGm 4096) L % 4 = 0 ∧ gmAddr grouped pw (oGm 4092) L = 4092)
    ∧ (grouped.groupOf pw).map (fun g => g.unfilled) = some []
    ∧ gmOut grouped 0 pw 4 (some 4092) = false ∧ gmOut grouped 0 pw 4 (some 4096) = true ∧ grouped.specLanes pw (maskTo 32) = 0 ∧ allDirect grouped pw (maskTo 32)
    ∧ ({ waving with recs := [(0, { rec 0 with spec := true })] } : State).specLanes wave 3 ≠ 0
    ∧ gmStruck grouped 0 pw (maskTo 32) 4 (fun _ => some 4092) = 0 ∧ gmStruck { grouped with gmBad := [4095] } 0 pw (maskTo 32) 4 (fun _ => some 4092) ≠ 0
    ∧ layoutOk (layoutWord { pw with sregs := [(2, 0x200000)] } 0) 4 = true := by
  decide +kernel
/-- The layout words of GroupMemoryAccessesReadAndWriteTheirBytes: an address below 2^20 for each PERM, and one at 2^20. -/
theorem witness_layout : (∀ q, q < 5 → field ({ pw with sregs := [(2, BitVec.ofNat 32 (0x200000 + 2 ^ 16 * q))] } : Agent).vf 0 1 = 0 ∧ field (({ pw with sregs := [(2, BitVec.ofNat 32 (0x200000 + 2 ^ 16 * q))] } : Agent).sN 0 3) 80 4 = q)
    ∧ (({ pw with sregs := [(0, 0xFFFFF), (2, 0x200000)] } : Agent).sN 0 3) % 2 ^ 20 + 1 = 2 ^ 20 := by decide +kernel

/-- AccessesMeetTheirOutcomesInOrder: a misaligned address; one without a cached translation; one whose translation has failed; one whose page is not present; a poisoned granule. -/
theorem witness_access :
    maskOf (fun L => (maskTo 32).getLsbD L && decide (globAddr placed pw (plainOps 0 8 (.scal 0) (.imm 0x42) 0) L % 4 ≠ 0)) ≠ 0
    ∧ meets placed 0 false pw needR (globAddr placed pw { oEnd with lit := some 0x200000 } 0) = .miss
    ∧ meets { placed with fails := [(.slot 0 false, 0, 0)] } 0 false pw needR (globAddr placed pw oMem 0) = .failed
    ∧ meets { placed with tlb := [(1000, [⟨0, 0, 0, 2 ^ 21, 0, false, false, false, none⟩])], vfs := [(0, { placed.vf 0 with priEn := true, priAlloc := 1 })] } 0 false pw needR 0x40 = .absent needR
    ∧ ({ placed with poison := [0] } : State).sound (.dev 0x40) 4 = false
    ∧ ({ placed with vfs := [(0, { placed.vf 0 with newShare := some [0] })] } : State).heldLoc (.dev 0x40) = true := by
  decide +kernel
/-- The same of group memory: a misaligned address. -/
theorem witness_group_align : maskOf (fun L => (maskTo 32).getLsbD L && decide (gmAddr grouped pw (oGm 2) L % 4 ≠ 0)) ≠ 0 := by decide +kernel

/-- ReadsReturnWhatTheMemoryRulesAllow: no event, and one before a lane's read; a lane whose own write is the location's last. -/
theorem witness_reads : (Ev.of (pw.party 0 0) .weak).writes = [] ∧ placed.events = [] ∧ (placed.put (Ev.of (pw.party 0 0) .weak) (.dev 0x40) [5]).events ≠ []
    ∧ (let s := placed.put (Ev.of (pw.party 0 0) .weak) (.dev 0x40) [5]
       (s.writersAt (.glob (.dev 0x40))).map (fun w => (w.party.tid, decide (w.id < s.nextEv), decide (w.rank < s.nextEv))) = [(.lane 0 0, true, true)]) := by
  exact ⟨rfl, rfl, by decide +kernel, by decide +kernel⟩

/-! Rings. -/

/-- Ring 5 of the group, with two slots of 32 bytes and counters. -/
def ring (rsv pst tkn dne : Nat) : Ring := ⟨.group 1, 0, 0x80, 0, 32, 2, rsv, pst, tkn, dne, [], [], 9⟩
def ringed (r : Ring) : State := { grouped with rings := [(5, r)] }
def oRing : MOps := plainOps 0 4 (.scal 1) (.vec 0) 5
/-- RingOperationsFollowTheirCounters: a free slot and none; a filled slot and none; the first slot to post and to give back, at the counters' wrap. -/
theorem witness_ring :
    (ringed (ring 1 0 0 0)).running = some (0, false, pw, pp) ∧ allDirect (ringed (ring 1 0 0 0)) pw pp.mask
    ∧ (ringed (ring 1 0 0 0)).ring? pw.cluster (oRing.c.toNat % 64) = some (ring 1 0 0 0) ∧ (ring 1 0 0 0).owner = pw.ringOwner
    ∧ slotsInUse (ring 1 0 0 0) < (ring 1 0 0 0).nslot ∧ (ring 2 0 0 0).nslot ≤ slotsInUse (ring 2 0 0 0) ∧ 0 < slotsFilled (ring 1 1 0 0) ∧ slotsFilled (ring 1 1 1 0) = 0
    ∧ slotsInUse (ring 0 0 0 0) = 0
    ∧ firstSlot (ring 0 (2 ^ 32 - 1) 0 0) (2 ^ 32 - 1) 1 [] 32 (2 ^ 32 - 1) ∧ prefixOf (2 ^ 32 - 1) [2 ^ 32 - 1] 1
    ∧ firstSlot (ring 1 1 1 0) 0 1 [] 0 0 ∧ prefixOf 0 [0] 1 := by
  and_intros <;> try decide +kernel
  · exact ⟨0, by omega, by decide +kernel, by decide +kernel, by simp, fun j hj => absurd hj (by omega)⟩
  · exact ⟨0, by omega, by decide +kernel, by decide +kernel, by simp, fun j hj => absurd hj (by omega)⟩
/-- RingsOpenOnTheirDescriptorsAndTrapErrors: a closed ring with a legal descriptor in memory (two slots of 32 bytes at 0), with an illegal one, and with a cached copy; another owner's ring; a slot still in use at CLOSE; no slot at the address. -/
theorem witness_ring_open :
    grouped.ring? pw.cluster 5 = none ∧ globAddr grouped pw oMem (lowLane pp.mask) % 16 = 0 ∧ grouped.ringCache = []
    ∧ meets grouped 0 false pw needR (globAddr grouped pw oMem (lowLane pp.mask)) = .ok (.dev 0x40) none ∧ grouped.sound (.dev 0x40) 16 = true
    ∧ (let w := ofBytes (({ grouped with mem := [⟨0x44, 32⟩, ⟨0x46, 2⟩] } : State).load (.dev 0x40) 16)
       field w 48 8 = 2 ∧ field w 32 16 = 32 ∧ field w 0 20 + field w 48 8 * field w 32 16 ≤ grouped.gmBytes pw)
    ∧ field (ofBytes (grouped.load (.dev 0x40) 16)) 48 8 = 0
    ∧ (({ grouped with ringCache := [(0, 0, 0x40, [2 ^ 32 * 0x20020, 0])] } : State).ringCache.find? (fun x => x.1 == pw.vf && x.2.1 == grouped.pasidOf pw.vf pw.ctx && x.2.2.1 == 0x40)).isSome = true
    ∧ ({ ring 1 0 0 0 with owner := .group 7 } : Ring).owner ≠ pw.ringOwner ∧ slotsInUse (ring 1 0 0 0) ≠ 0 ∧ (ring 1 0 0 0).nslot ≠ 0
    ∧ ((ring 0 0 0 0).rsv + 2 ^ 32 - (ring 0 0 0 0).pst) % 2 ^ 32 = 0 := by
  decide +kernel

end Sys2Proof.Tests
end

