-- ==== Sys2Proof/Tests/Witness2.lean ====
section
/-! SUPPORT. Witnesses: barriers, engine and matrix commands, control flow, traps, tasks, completion and fragments. -/

namespace Sys2Proof.Tests
open Sys2Proof Sys2Proof.Machine Sys2Proof.Claims
set_option Elab.async false

/-- A launch whose handler lies at h, with a task-entry table of one entry. -/
def launch (h : DWord) : Launch :=
  { acceptedLaunch ⟨0, 0, 0⟩ ⟨0, 0, true, 0, 4, 1, 0, false⟩ 0 ⟨0x1000, h, 0, 0, 32, 256, 32, 0, 0, false, 0, 64, 0, 0⟩ false with
    ngroups := 1, placed := 1, hasTet := true, tet := [⟨0x1000, 4, 0, 32, 0, false⟩] }
/-- The placed machine with that launch. -/
def launched (h : DWord) : State := { placed with launches := [(2, launch h)] }
def oBar (n : BitVec 8) : MOps := plainOps 0 0 (.imm n) (.vec 0) 0
def grp : Group := ⟨2, 0, 0, 0, 0, [], [], [(0, 0)], [(0, maskTo 32)], [], [], false, false, [], [], false⟩
/-- A fragment of the placed warp, of the lanes in a mask, on narrow core 0. -/
def frag (m : Mask) : Agent := { onA pw { pp with mask := m, jix := .parent 0 } with kind := .frag 0 0 0x1100, core := .narrow 0, units := [0], started := m, live := m, begun := true }
def withFrag : State := { placed with agents := [(0, pw), (7, frag 3)], cur := some ⟨7, false⟩ }
def fp : Path := { pp with mask := 3, jix := .parent 0 }

/-- BarriersCountArrivals: barriers 15 and 16; a warp and a fragment; lanes that have not arrived complete the generation, and lanes that have wait. -/
theorem witness_barrier : wordA placed pw (oBar 15) 0 ≤ 15 ∧ 15 < wordA placed pw (oBar 16) 0 ∧ pw.group = some 1 ∧ mapGet? placed.groups 1 = some grp ∧ pw.isFrag = false
    ∧ withFrag.running = some (7, false, frag 3, fp) ∧ (frag 3).isFrag = true ∧ (frag 3).active fp ⟨0, false⟩ ≠ 0
    ∧ arrival grp 15 0 (maskTo 32) (grp.setBar 15 ⟨1, []⟩) ∧ mapGetD (({ grp with barriers := [(15, ⟨0, [(0, 1)]⟩)] } : Group).bar 15).arrived 0 0 = 1 := by
  and_intros <;> try decide +kernel
  intro j h; unfold Group.bar Group.setBar; rw [mapGetD_mapPut, if_neg h]

/-- A command block in s8 to s15. -/
def blocked (l : List Nat) : Agent := { pw with sregs := l.zipIdx.map (fun x => (8 + x.2, BitVec.ofNat 32 x.1)) }
def oBlk (mod : BitVec 8) : MOps := plainOps mod 0 (.scal 8) (.vec 0) 0
/-- EngineInstructionsQueueTheirCommands: a CPY of one byte; one into a ring that is not open; one with ROWB 0; a walk whose fields are legal and aligned; one with a reserved bit; and addresses that are no multiples of 4. -/
theorem witness_engine :
    (with' (blocked [0, 0, 0x100, 0, 1, 1, 0, 0])).running = some (0, false, blocked [0, 0, 0x100, 0, 1, 1, 0, 0], pp)
    ∧ (let w := block (blocked [0, 0, 0x100, 0, 1, 1, 0, 0]) 8
       field (w 4) 24 8 = 0 ∧ field (w 5) 30 2 = 0 ∧ field (w 4) 0 24 ≠ 0 ∧ field (w 5) 0 16 ≠ 0 ∧ field (w 5) 20 4 = 0 ∧ field (w 5) 16 4 = 0)
    ∧ field (block (blocked [0, 0, 63, 0, 1, 0x200001, 0, 0]) 8 5) 20 4 = 2 ∧ placed.ring? 0 63 = none
    ∧ field (block (blocked [0, 0, 0x100, 0, 0, 1, 0, 0]) 8 4) 0 24 = 0
    ∧ (let w := block (blocked [0, 0, 0x100, 0, 4, 4, 0x40, 0]) 8
       field (w 4) 24 8 = 0 ∧ field (w 5) 24 8 = 0 ∧ field (w 6) 9 23 = 0 ∧ (w 6).testBit 6 = true ∧ (w 6).testBit 7 = false ∧ (w 6).testBit 8 = (oBlk 0).kc ∧ (w 0 + 2 ^ 32 * w 1) % 4 = 0)
    ∧ field (block (blocked [0, 0, 0x100, 0, 4, 4, 0x240, 0]) 8 6) 9 23 ≠ 0 ∧ block (blocked [2, 0, 0x100, 0, 4, 4, 0x40, 0]) 8 0 % 4 ≠ 0
    ∧ (({ with' (blocked [0, 0, 0x100, 0, 1, 1, 0, 0]) with rings := [(5, ring 0 0 0 0)] } : State).ring? 0 5).map (fun r => (r.owner == pw.ringOwner, decide (8 ≤ r.slotb))) = some (true, true) := by
  decide +kernel
/-- WindowPublishAndInvalidate: an address in a window and one outside, a multiple of 8, with no poison. -/
theorem witness_window_publish :
    placed.inWindow (.dev 0x40) = false ∧ ({ placed with extents := [(0, .win 3)] } : State).inWindow (.dev 0x40) = true
    ∧ globAddr placed pw oMem (lowLane pp.mask) % 8 = 0 ∧ placed.writeSound [(.dev 0x40, 8)] (.dev 0x40, 8) = true := by decide +kernel
/-- MatrixInstructionsQueueTheirCommands: ACC.RD of a sound descriptor, with the least stride and at an address that is a multiple of 16; one with a reserved bit; ACC.ZERO of 0xFFFF and 0x10000. -/
theorem witness_matrix :
    allDirect placed pw pp.mask ∧ (let c := 0x00100000; c % 2 ^ 16 = 0 ∧ 16 ≤ field c 16 12) ∧ ¬ (0x00100001 % 2 ^ 16 = 0) ∧ gmAddr placed pw (oGm 16) 0 % 16 = 0 ∧ gmAddr placed pw (oGm 8) 0 % 16 ≠ 0
    ∧ wordB placed pw { plainOps 0 0 (.vec 0) (.vec 0) 0 with lit := some 0xFFFF } 0 < 2 ^ 16 ∧ 2 ^ 16 ≤ wordB placed pw { plainOps 0 0 (.vec 0) (.vec 0) 0 with lit := some 0x10000 } 0 := by
  decide +kernel

/-- Whether a check passes, or what it finds. -/
def found (c : MuChk) : Nat := match c with | .ok _ => 0 | .illop => 1 | .align _ => 2 | .ringErr _ => 3
/-- The checks of MMA in BF16 with 64 rows, 64 columns and K = 64: passed, M = 65, an address that is no multiple of 16, and a ring that is not open; of WB.LD; and of a CPY with such a follow-on. -/
theorem witness_matrix_check :
    found (placed.mmaCheck pw.muCtx false 0x10 0 0x4040 64 0) = 0 ∧ found (placed.mmaCheck pw.muCtx false 0x10 0 0x4041 64 0) = 1 ∧ found (placed.mmaCheck pw.muCtx false 0x10 8 0x4040 64 0) = 2
    ∧ found (placed.mmaCheck pw.muCtx false 0x10 (2 ^ 26 + 63) 0x4040 64 0) = 3 ∧ found (placed.mmaCheck pw.muCtx true 0x08 0 0x0808 8 0) = 0
    ∧ (field 64 20 12 = 0 ∧ field 64 18 2 = 0 ∧ field 64 16 2 = 0) ∧ field (2 ^ 16) 16 2 ≠ 0
    ∧ found (wbLdCheck pw.muCtx false false (fun k => if k = 3 then 2 ^ 28 + 64 else 0)) = 0
    ∧ (let a : Agent := { blocked [0, 0, 0x100, 0, 1, 1, 0, 0] with sregs := (blocked [0, 0, 0x100, 0, 1, 1, 0, 0]).sregs ++ [(17, 0x4040), (18, 0x10000040)] }
       (match placed.cpyCheck { oBlk 0x08 with c := 16, kc := true } a false pp with | .ok _ => true | _ => false) = true) := by
  decide +kernel

/-- JumpsMoveThePathToTheirTarget, CallsPushTheirReturnPosition: targets 0x1100, and 0x1102, which is no multiple of 4; a BRA that all lanes take; room on the stack, and none. -/
theorem witness_jump :
    goodTarget placed pw (pp.pc + (0xFC : Word).signExtend 64) ∧ ¬ goodTarget placed pw (pp.pc + (0xFE : Word).signExtend 64) ∧ pw.active pp ⟨0, false⟩ = pp.mask
    ∧ pw.stack.length + 1 ≤ pw.dsn ∧ ({ pw with dsn := 0 } : Agent).dsn < pw.stack.length + 1 ∧ ({ pp with phase := .body 0x1004 ⟨false, 2, 15, 0, 0⟩ } : Path).last = false := by
  unfold goodTarget; decide +kernel
/-- DivergentBranchesSplitThePath: p1 of lanes 0 and 1 splits a path, with its record new; the other slot is free or holds a path; the stack has no room. -/
def split : Agent := { pw with preds := [(1, 3)] }
def oBra : MOps := { plainOps 0 16 (.vec 0) (.vec 0) 0 with g := ⟨1, false⟩, lit := some 0x38 }
theorem witness_branch :
    (with' split).running = some (0, false, split, pp) ∧ split.active pp oBra.g = 3 ∧ pp.mask &&& ~~~(split.active pp oBra.g) ≠ 0
    ∧ goodTarget (with' split) split (pp.pc + (0x38 : Word).signExtend 64)
    ∧ branchRecord split pp 0x107C 0 0 [⟨.join, ⟨0x107C, 0⟩, pp.mask, 2, .none, false, .none⟩]
    ∧ (split.slot true).path = none ∧ (({ split with slotB := { split.slotB with path := some pp } } : Agent).slot true).path = some pp ∧ ({ split with dsn := 0 } : Agent).dsn < 1 := by
  refine ⟨by decide +kernel, by decide +kernel, by decide +kernel, by unfold goodTarget; decide +kernel, Or.inr ⟨?_, rfl, rfl⟩, by decide +kernel, by decide +kernel, by decide +kernel⟩
  intro i e h; exact absurd h (by simp [pp])
/-- The same where a side of two lanes may be exported to a narrow core that is free. -/
theorem witness_export : ({ split with xth := 0x102 } : Agent).mayExport false false 2 = true ∧ (({ with' split with parts := [(0, ⟨255, [0], 4⟩)] } : State).exportPlace split 2).isSome = true := by decide +kernel

/-- A warp whose path belongs to a CALL record, with one path in it. -/
def called : Agent := { onA pw { pp with jix := .own 0 } with stack := [⟨.call, ⟨0x1100, 0⟩, maskTo 32, 1, .none, false, .none⟩] }
/-- ReturnsAndJoinsLeaveThePath: in a CALL record and not; the last path of it; a path of the agent's own record, of the parent's, and of none. -/
theorem witness_return : (with' called).running = some (0, false, called, { pp with jix := .own 0 }) ∧ (with' called).recordOf called { pp with jix := .own 0 } = some (.call, 0x1100) ∧ placed.recordOf pw pp = none ∧ (({ withFrag with agents := [(0, called), (7, frag 3)] } : State).recordOf (frag 3) fp) = some (.call, 0x1100)
    ∧ called.active { pp with jix := .own 0 } ⟨0, false⟩ = maskTo 32 ∧ (called.slot true).path = none ∧ maskTo 32 &&& called.live ≠ 0 ∧ pp.jix = .none ∧ fp.jix = .parent 0 := by
  decide +kernel
/-- YieldRegionSleepAndNop: both kinds of core, and sleeps of 0, 1 and 70000 cycles. -/
theorem witness_yield : pw.core = .wide 0 0 ∧ (frag 3).core = .narrow 0 ∧ wordB placed pw (plainOps 0 0 (.vec 0) (.imm 0) 0) 0 = 0 ∧ wordB placed pw (plainOps 0 0 (.vec 0) (.imm 1) 0) 0 ≠ 0
    ∧ 65535 < wordB placed pw { plainOps 0 0 (.vec 0) (.vec 0) 0 with lit := some 70000 } 0 := by decide +kernel
/-- ControlRegistersAndCountersAreReadAndWritten: outside and inside handler mode; a number without a register; selectors 9 and 10. -/
theorem witness_control : pw.handler = none ∧ ({ pw with handler := some ⟨false⟩ } : Agent).handler ≠ none ∧ 3 ∉ [0, 1, 2, 8, 9, 10, 11, 16, 17, 18]
    ∧ ¬ 9 < (plainOps 0 4 (.vec 0) (.vec 0) 9).c.toNat ∧ 9 < (plainOps 0 4 (.vec 0) (.vec 0) 10).c.toNat := by decide +kernel
/-- TrapsEnterTheHandlerAndReturn, TrapCausesAreTakenAtTheInstruction: with a handler and without; causes 1, 11, 0 and 12; handler mode on this slot at this depth, on the other slot, and above an open record. -/
theorem witness_trap : (launched 0x2000).handlerOf pw ≠ 0 ∧ (launched 0).handlerOf pw = 0 ∧ pw.kind = .grid ∧ (launched 0).fragsOf 0 = [] ∧ mapGet? (launched 0).groups 1 = some grp
    ∧ mapGet? (launched 0).launches pw.launch = some (launch 0) ∧ wordB placed pw (oBar 0) 0 = 0
    ∧ (let o (n : BitVec 8) : MOps := plainOps 0 0 (.imm 0) (.imm n) 0; 0 < wordB placed pw (o 1) 0 ∧ wordB placed pw (o 11) 0 ≤ 11 ∧ 11 < wordB placed pw (o 12) 0)
    ∧ (let a : Agent := { pw with handler := some ⟨false⟩ }; ∃ h, a.handler = some h ∧ a.handlerSlot h = false ∧ (∀ e ∈ a.stack, e.kind = .retired ∨ e.held = true))
    ∧ (let a : Agent := { called with handler := some ⟨false⟩ }; ∃ h, a.handler = some h ∧ (∃ e ∈ a.stack, e.kind ≠ .retired ∧ e.held = false)) ∧ (let a : Agent := { pw with handler := some ⟨true⟩, slotB := { pw.slotA with rank := 1 } }; a.handlerSlot ⟨true⟩ ≠ false) := by
  and_intros <;> try decide +kernel
/-- ClausesStartWhenTheirFlagsAreClear: a flag that is not clear, and all clear with a recorded trap due; index 0, index 1 of two with its instruction skipped, and an index past LEN. -/
def pending : PendingTrap := ⟨4, 0x123, 0, some 0, 1, 0⟩
theorem witness_clause :
    ({ pw with flags := [(0, 1)] } : Agent).flag 0 ≠ 0 ∧ (1#12).getLsbD 0 = true ∧ (∀ i, i < 12 → pw.flag i = 0) ∧ ({ pw with traps := [pending] } : Agent).traps = [pending]
    ∧ (∀ f, pending.flag = some f → (1#12).getLsbD f = true)
    ∧ (∃ pc, placed.skipInstrs 0 false pw pp 0x1004 0 = .inl pc) ∧ (⟨false, 1, 15, 0, 0⟩ : ClauseHdr).len.toNat ≤ 1 := by
  refine ⟨by decide +kernel, by decide, by decide +kernel, rfl, ?_, ⟨_, rfl⟩, by decide⟩
  intro f h; cases h; decide
/-- ExitEndsItsLanes: the final EXIT of a warp with a command outstanding that may trap, with a recorded trap, and with neither; an EXIT of some lanes; a fragment's. -/
theorem witness_exit :
    (pw.isGrid && decide (maskTo 32 = pw.live) && (pw.slot true).path.isNone && !(pw.stack.any (fun e => e.kind == .path)) && (placed.fragsOf 0).isEmpty) = true
    ∧ (∃ x ∈ ({ pw with ops := [⟨3, false, some 0, [], [], [], 0, false, true⟩] } : Agent).ops, x.mayTrap = true) ∧ (∀ x ∈ pw.ops, x.mayTrap = false)
    ∧ split.active pp oBra.g ≠ split.live ∧ (frag 3).kind = .frag 0 0 0x1100 ∧ (frag 3).group = some 1 := by
  refine ⟨by decide +kernel, ⟨_, List.mem_singleton.mpr rfl, rfl⟩, fun x h => by simp [pw, placeWarp, Agent.blank] at h, by decide +kernel, by decide +kernel, by decide +kernel⟩
/-- SettlingFollowsThePathRules: a slot with a path that does not arrive; a free slot with a PATH entry topmost. -/
theorem witness_settle : (pw.slot false).path = some pp ∧ pp.mask ≠ 0 ∧ pw.arrives pp = false
    ∧ (let a : Agent := { pw with slotA := emptySlot, stack := [⟨.path, ⟨0x1100, 0⟩, 1, 0, .none, false, .none⟩] }
       a.slotA.path = none ∧ a.ends true = none ∧ (∀ f ∈ a.stack, f.kind = .join ∨ f.kind = .call → f.pend ≠ 0) ∧ (∀ f ∈ a.stack, f.kind = .path → f.mask ≠ 0)
        ∧ a.arrives ⟨⟨0x1100, 0⟩, 1, .none, .header⟩ = false) := by
  decide +kernel

/-! Tasks. -/

/-- ForkAndRemoteEnqueueMakeTasks: an entry of the table, and entry 1, outside it; free records for the lanes, and none; a wave that defers. -/
theorem witness_fork : entryIn (launched 0) pw 0 ∧ ¬ entryIn (launched 0) pw 1 ∧ popMask (maskTo 32) ≤ (launched 0).freeCount pw.cluster
    ∧ entryIn { waving with launches := [(2, launch 0)] } wave 0 ∧ ({ waving with launches := [(2, launch 0)] } : State).softLanes wave 3 = 3
    ∧ ({ waving with launches := [(2, launch 0)] } : State).overflow wave 3 (fun L => .fork 0 (arguments wave oMem L)) = 0 := by
  refine ⟨⟨launch 0, by decide +kernel, by decide +kernel, by decide +kernel⟩, ?_, by decide +kernel, ⟨launch 0, by decide +kernel, by decide +kernel, by decide +kernel⟩, by decide +kernel, by decide +kernel⟩
  rintro ⟨l, h, _, h2⟩
  have : mapGet? (launched 0).launches pw.launch = some (launch 0) := by decide +kernel
  rw [this] at h; cases h; revert h2; decide
/-- SpawnAttachesItsTasks: a word with no task and count 0, one with count 1, and one that names a task; a free record. -/
theorem witness_spawn : (∃ r, (launched 0).freeRec pw.cluster = some r) ∧ pw.isWave = false
    ∧ (let w (c t : Nat) : Nat := ofBytes (({ placed with mem := memWrite placed.mem 0x40 (bytesOf (2 ^ 32 * t + c) 8) } : State).load (.dev 0x40) 8)
       w 0 (2 ^ 32 - 1) / 2 ^ 32 % 2 ^ 32 = 2 ^ 32 - 1 ∧ w 0 (2 ^ 32 - 1) % 2 ^ 32 = 0 ∧ w 1 (2 ^ 32 - 1) % 2 ^ 32 = 1 ∧ w 1 5 / 2 ^ 32 % 2 ^ 32 ≠ 2 ^ 32 - 1) := by
  refine ⟨?_, by decide +kernel⟩
  apply Option.isSome_iff_exists.mp
  unfold State.freeRec
  rw [List.find?_isSome]
  exact ⟨_, List.mem_map.mpr ⟨0, by decide +kernel, rfl⟩, rfl⟩
/-- DependenceCountsChangeAtomically: counts 0, 1, 2 and 2^32 - 1, with a task and without; a launch with a table and none. -/
theorem witness_dependence : (launched 0).hasTable pw = true ∧ placed.hasTable pw = false
    ∧ (let s (c t : Nat) : State := { placed with mem := memWrite placed.mem 0x40 (bytesOf (2 ^ 32 * t + c) 8) }
       let c (x : State) : Nat := ofBytes (x.load (.dev 0x40) 8) % 2 ^ 32
       c (s 0 5) = 0 ∧ c (s 1 5) = 1 ∧ c (s 2 5) = 2 ∧ c (s (2 ^ 32 - 1) 5) + 1 = 2 ^ 32 ∧ ofBytes ((s 1 5).load (.dev 0x40) 8) / 2 ^ 32 % 2 ^ 32 = 5
        ∧ ((s 0 5).depDec (pw.party 0 0) (.dev 0x40) 0x40 2 0).2.2 = true ∧ ((s 2 5).depDec (pw.party 0 0) (.dev 0x40) 0x40 2 0).2.2 = false) := by
  decide +kernel
/-- TasksEndOrAbort: a wave with its records; a task that is irrevocable; a warp. -/
theorem witness_task_end : wave.kind = .wave ∧ wave.group = none ∧ waving.irrevLanes wave 3 = 0 ∧ ownRecords waving wave 3
    ∧ ({ waving with recs := [(0, { rec 0 with st := .irrev }), (1, rec 1)] } : State).irrevLanes wave 3 = 1 ∧ pw.isWave = false := by
  refine ⟨by decide +kernel, by decide +kernel, by decide +kernel, ⟨?_, ?_⟩, by decide +kernel, by decide +kernel⟩
  · intro L h
    have : ∀ L ∈ lanesOf 3, (((wave.recKey L).bind waving.rec?).isSome) = true := by decide +kernel
    have h2 := this L h
    cases hk : wave.recKey L with
    | none => rw [hk] at h2; cases h2
    | some k => rw [hk] at h2; exact ⟨k, _, rfl, (Option.some_get h2).symm⟩
  · decide +kernel

/-! Completion and fragments. -/

/-- An operation that will write v5 of lane 0, performed or not. -/
def op (ready : Bool) : Outstanding := ⟨3, false, some 0, [(5, 1)], [], [⟨some 0, 5, 7⟩], 0, ready, false⟩
/-- A warp whose watchdog interval has passed; one that is over. -/
def late : Agent := { pw with wdc := 5120 }
def done : Agent := { pw with slotA := emptySlot, live := 0 }
/-- OperationsCompleteAndAgentsRetire: an operation performed and not; without a fragment and with one; a sleep that has ended; a watchdog at its interval and below; a warp that is over. -/
theorem witness_completion :
    ({ pw with ops := [op true] } : Agent).ops.find? (fun y => y.id == (op true).id) = some (op true) ∧ (op true).ready = true ∧ (op false).ready = false ∧ placed.fragsOf 0 = [] ∧ withFrag.fragsOf 0 = [7]
    ∧ (({ pw with slotA := { pw.slotA with wait := .sleep 0 } } : Agent).slot false).wait = .sleep 0 ∧ (pw.slot false).wait ≠ .sleep 0
    ∧ (let s : State := { placed with launches := [(2, { launch 0x2000 with kern := { (launch 0x2000).kern with wdog := 5 } })] }
       s.wdogOf late ≠ 0 ∧ s.wdogOf late ≤ late.wdc ∧ s.watched 0 late = true ∧ s.handlerOf late ≠ 0 ∧ pw.wdc < s.wdogOf pw)
    ∧ pw.over = false ∧ done.over = true ∧ placed.committing 0 = false ∧ mapErase grp.warps 0 = [] ∧ ({ frag 3 with faulted := true, slotA := emptySlot, live := 0 } : Agent).over = true := by
  decide +kernel
/-- The machine with one message of the fragment on the network, behind one of other ports. -/
def saddled (src dst : Nat) (m : SaddleMsg) : State := { withFrag with saddle := [(0, [⟨9, 1, .fragExit 8 1 0 1⟩, ⟨src, dst, m⟩])] }
/-- Such a message may be delivered, where its kind is not that of the one before it. -/
theorem witness_delivers (src dst : Nat) (m : SaddleMsg) (kind : SaddleMsg → Prop) (h : kind m) (h2 : ¬ kind (.fragExit 8 1 0 1)) (h3 : Saddle.free ⟨src, dst, m⟩ [⟨9, 1, .fragExit 8 1 0 1⟩] = true) :
    delivers (saddled src dst m) kind m { withFrag with saddle := [(0, [⟨9, 1, .fragExit 8 1 0 1⟩])] } := by
  refine ⟨h, 0, [⟨9, 1, .fragExit 8 1 0 1⟩], ⟨src, dst, m⟩, [], rfl, rfl, h3, ?_, ?_, rfl⟩
  · intro z hz; rw [List.mem_singleton.mp hz]; exact h2
  · intro x hx hn; rw [List.mem_singleton.mp hx] at hn; exact absurd rfl hn
/-- No message of a kind is on its way where there is none at all. -/
theorem witness_none_sent (kind : SaddleMsg → Prop) : noneSent withFrag kind := fun x h => absurd (show x ∈ ([] : List (Nat × List Saddle)) from h) (by simp)
/-- FragmentsPullPushAndMerge, its messages: a start, a pull of a granule, the answer, a push, an arrival of a BAR and of a BAR.ARV, a completion and an exit. -/
theorem witness_fragment_messages :
    (∃ T, delivers (saddled 0 8 (.start 7)) (fun m => m = .start 7) (.start 7) T) ∧ (∃ T, delivers (saddled 8 0 (.pullReq 7 [3])) (fun m => ∃ gs, m = .pullReq 7 gs) (.pullReq 7 [3]) T)
    ∧ (∃ T, delivers (saddled 0 8 (.pullResp 7 [3])) (fun m => ∃ gs, m = .pullResp 7 gs) (.pullResp 7 [3]) T) ∧ (∃ T, delivers (saddled 0 8 (.push 7 3)) (fun m => m = .push 7 3) (.push 7 3) T)
    ∧ (∀ tok, ∃ T, delivers (saddled 8 0 (.barArrive 7 1 0 2 3 tok 5)) (fun m => ∃ g w b l tok n, m = .barArrive 7 g w b l tok n) (.barArrive 7 1 0 2 3 tok 5) T)
    ∧ (∃ T, delivers (saddled 0 8 (.barDone 7 2 0)) (fun m => ∃ b gen, m = .barDone 7 b gen) (.barDone 7 2 0) T)
    ∧ (∃ T, delivers (saddled 8 0 (.fragExit 7 1 0 1)) (fun m => ∃ g w l, m = .fragExit 7 g w l) (.fragExit 7 1 0 1) T) :=
  ⟨⟨_, witness_delivers _ _ _ _ rfl (by simp) rfl⟩, ⟨_, witness_delivers _ _ _ _ ⟨_, rfl⟩ (by simp) rfl⟩, ⟨_, witness_delivers _ _ _ _ ⟨_, rfl⟩ (by simp) rfl⟩, ⟨_, witness_delivers _ _ _ _ rfl (by simp) rfl⟩,
    fun _ => ⟨_, witness_delivers _ _ _ _ ⟨_, _, _, _, _, _, rfl⟩ (by simp) rfl⟩, ⟨_, witness_delivers _ _ _ _ ⟨_, _, rfl⟩ (by simp) rfl⟩, ⟨_, witness_delivers _ _ _ _ ⟨_, _, _, rfl⟩ (by simp) rfl⟩⟩
/-- FragmentsPullPushAndMerge, its agents: a parent that has settled granule 3 and one that has not; an absent granule; a fragment that has ended with a dirty granule; a path that waits at BAR for a generation that is over, and a BAR.ARV that waits for one. -/
theorem witness_fragment :
    withFrag.agent? 7 = some (frag 3) ∧ (frag 3).kind = .frag 0 0 0x1100 ∧ withFrag.agent? 0 = some pw ∧ pw.settled 3 = true ∧ ({ pw with ops := [⟨3, false, some 0, [(24, 1)], [], [], 0, false, false⟩] } : Agent).settled 3 = false
    ∧ 3 ∉ pw.unfilled ∧ (frag 3).granule 3 = .absent
    ∧ (let x : Agent := { frag 3 with slotA := emptySlot, granules := [(3, .dirty)] }
       x.faulted = false ∧ x.halted = false ∧ x.fragEnded = true ∧ x.flags = [] ∧ x.ops = [] ∧ x.traps = [] ∧ withFrag.upstream x = false)
    ∧ withFrag.upstream (frag 3) = false ∧ (saddled 8 0 (.fragExit 7 1 0 1)).upstream (frag 3) = true ∧ mapGet? withFrag.groups 1 = some grp
    ∧ barPath { frag 3 with slotA := { (frag 3).slotA with wait := .bar 2 0 } } 2 0 3 ∧ aWait { frag 3 with slotA := { (frag 3).slotA with wait := .barArv 2 0 1 } } (.barArv 2 0 1)
    ∧ withFrag.barInFlight 7 (frag 3) 2 = 0 ∧ (saddled 8 0 (.barArrive 7 1 0 2 3 none 5)).barInFlight 7 (frag 3) 2 = 3 := by
  and_intros <;> try decide +kernel
  · exact ⟨0, by omega, .inl ⟨false, fp, by decide +kernel, by decide +kernel, rfl⟩⟩
  · exact .inl rfl

end Sys2Proof.Tests
end

