-- ==== Sys2Proof/Tests/Witness3.lean ====
section
/-! SUPPORT. Witnesses: engine and matrix commands that complete, launches, requests, pre-emption, migration, ports, basins, licences, power, and the step. -/

namespace Sys2Proof.Tests
open Sys2Proof Sys2Proof.Machine Sys2Proof.Claims
set_option Elab.async false

/-! Engine and matrix commands. -/

/-- A CPY of 4096 bytes between halves of an 8 KiB group memory, as queued. -/
def copying : EngCmd := ⟨9, 0, 9, false, some 0, 0, 0, 0, 0, false, false, 0, .cpy 0 4096 4096 1 0 .gm .gm 0 0 none, maskTo 32, 0, 1, 0, 0, 0, none, none, none, none, 0, 0, false, none, false, false, false, 0, false⟩
/-- A walk that has matched all, with a ring. -/
def walked : EngCmd := { copying with op := .walk false 0 0 0 0 false false false 5 7 true 0, n := 3 }
/-- A CPY that has ended, with ACC.ZERO to follow it. -/
def mcmd (op : MuOp) : MuCmd := ⟨9, 0, 9, false, some 0, false, false, 0, false, 0, 0, 0, op, none, false, none, none, 0, maskTo 32, 0, false⟩
def followed : EngCmd := { copying with op := .cpy 0 4096 4096 1 0 .gm .gm 0 0 (some (mcmd (.accZero 1), 0)), finished := true }
def engined (se : Bool) (c : EngCmd) : State :=
  { placed with groups := [(1, { grp with granules := [0, 1] })], engines := [(if se then 1 else 0, [c])]
                agents := [(0, { pw with ops := [⟨9, false, some 0, [], [], [], 0, false, true⟩] })], rings := [(5, ring 0 0 0 0)] }
/-- EngineCommandsArePerformed: an empty queue; a copy of 4096 bytes up to the end of the group's memory; a walk that has ended with a free slot in its ring; a command that has finished, with and without a failure, and one that has not; a follow-on with a full purse. -/
theorem witness_engine_performed :
    placed.engQ 0 false = [] ∧ (engined false copying).engQ 0 false = [copying] ∧ (engined false copying).ctxRuns 0 0 = true ∧ (engined false copying).groupFilled 0 = true
    ∧ (engined false copying).pageHeld (.eng 0 false 9) = false ∧ (engined true walked).engQ 0 true = [walked] ∧ walked.walkDone = true
    ∧ ((engined true walked).ring? 0 5).map (fun r => (r.owner == pw.ringOwner, decide (slotsInUse r < r.nslot), r.posted)) = some (true, true, [])
    ∧ ((engined false { copying with finished := true }).engQ 0 false).find? (fun y => y.id == 9) = some { copying with finished := true }
    ∧ (engined false copying).ctxHalted 0 0 = false ∧ ((engined false copying).agent? 0).map (fun a => (a.isWave, (a.ops.map (fun x => (x.id, x.writes))))) = some (false, [(9, [])])
    ∧ { copying with finished := true, fail := some (0, 4, 0x42, 3) }.fail ≠ none ∧ copying.out = false ∧ copying.begun = false ∧ { copying with begun := true }.begun = true ∧ followed.handed = false ∧ (engined false copying).ctxHalted 0 0 = false ∧ (engined false followed).muBusy 0 0 < 16
    ∧ ((engined false followed).purse 0 0).claimant = none ∧ ((engined false followed).purse 0 0).others = [] ∧ muPrice (.accZero 1) ≤ ((engined false followed).purse 0 0).tokens
    ∧ (engined false copying).gmBad = [] := by
  decide +kernel
/-- Its bytes lie in the group's memory. -/
theorem witness_engine_bytes : ∀ k, k < 4096 → (engined false copying).gmCell 0 pw (0 + k) ≠ .out ∧ (engined false copying).gmCell 0 pw (4096 + k) ≠ .out := by
  intro k h
  have e : ∀ j, (engined false copying).gmCell 0 pw j = if j < 8192 then .group 1 j else .out := fun j => rfl
  rw [e, e, if_pos (by omega), if_pos (by omega)]; exact ⟨by simp, by simp⟩

def mused (q : List MuCmd) : State := { engined false copying with mus := [(0, ⟨[], [], [], q, [], [], []⟩)] }
def ringMma : MuOp := .mma false false false false 2 0 true true 0 5 16 false 64 1 8 0 0
/-- MatrixCommandsStartAndComplete: heads that wait, without a slot and with one that is filled or not; heads that have started: ACC.ZERO, MUFENCE and an MMA without a tile; a forwarded command, paid and short; an integer format. -/
theorem witness_matrix_completes :
    (mused [mcmd (.accZero 1)]).muPick 0 0 = some 0 ∧ ((mused [mcmd (.accZero 1)]).mu 0).queue = mcmd (.accZero 1) :: [] ∧ (mcmd (.accZero 1)).started = false
    ∧ (mused [mcmd ringMma]).groupFilled 0 = true ∧ (mused [mcmd ringMma]).unitsClear 0 0 0 ringMma.units = true ∧ (mcmd ringMma).reads = [] ∧ (mused [mcmd ringMma]).pageHeld (.mu 0 9) = false
    ∧ slotsFilled (ring 0 0 0 0) = 0 ∧ 0 < slotsFilled (ring 1 1 0 0)
    ∧ (mused [{ mcmd .fence with started := true }]).muPick 0 0 = some 0 ∧ (mused [{ mcmd ringMma with started := true }]).muPick 0 0 = some 0 ∧ mapGet? ((mused []).mu 0).wb 0 = none
    ∧ muPrice (.accZero 1) ≤ (placed.purse 0 0).tokens ∧ (({ placed with purses := [] } : State).purse 0 0).tokens < muPrice ringMma
    ∧ (mmaFmt 0x0A).map (fun t => t.acc == I32) = some true ∧ Memory.wf [] = true ∧ (mused []).gmBad = [] ∧ ((mused []).mu 0).bad = []
    ∧ mapGetD ({ placed with saddle := [(0, [⟨8, 0, .matrix 0 0 0 (mcmd (.accZero 1)) false⟩])] } : State).saddle 0 [] = [] ++ ⟨8, 0, .matrix 0 0 0 (mcmd (.accZero 1)) false⟩ :: []
    ∧ Saddle.free ⟨8, 0, .matrix 0 0 0 (mcmd (.accZero 1)) false⟩ [] = true ∧ placed.muDepth 0 0 < 16 ∧ 16 ≤ (mused (List.replicate 16 (mcmd .fence))).muDepth 0 0 ∧ placed.ctxRuns 0 0 = true
    ∧ (placed.purse 0 0).claimant = none ∧ (placed.purse 0 0).others = [] := by
  decide +kernel

/-! Launches. -/

/-- Queue 0 of the context, with one record of 128 bytes at 0x2000, its kernel descriptor at 0x3000 and its doorbell rung. -/
def q0 : Queue := ⟨0x2000, 0x2F00, true, 0, 4, 0, 0, false⟩
def withQ (q : Queue) (tail : Word) : State := { placed with vfs := [(0, { placed.vf 0 with ctxs := [(0, ⟨0, .run, none, [(0, q)], [(0, tail)]⟩)], share := List.range 8 })] }
/-- LaunchesAreAcceptedPlacedAndCompleted, its doorbells and waits: a running context; a VF that is stopped; a queue that is not enabled, one whose tail is reached, and one whose next record can be read. -/
theorem witness_launch_accept :
    ((withQ q0 1).vf 0).enabled = true ∧ ((withQ q0 1).vf 0).stopped = false ∧ (State.reset.vf 0).enabled = false ∧ { q0 with en := false }.en = false
    ∧ mapGetD [(0, (0 : Word))] 0 0 = BitVec.ofNat 32 q0.accepted ∧ mapGetD [(0, (1 : Word))] 0 0 ≠ BitVec.ofNat 32 q0.accepted
    ∧ (∃ c, mapGet? ((withQ q0 1).vf 0).ctxs 0 = some c ∧ mapGet? c.queues 0 = some q0) := by
  refine ⟨by decide +kernel, by decide +kernel, by decide +kernel, rfl, by decide +kernel, by decide +kernel, ⟨_, by rfl, by rfl⟩⟩
/-- A launch of two groups of one warp each, none placed. -/
def waitingL : Launch := { launch 0 with ngroups := 2, placed := 0, kern := ⟨0x1000, 0, 0, 0, 32, 32, 32, 1, 0, false, 0, 64, 0, 0⟩, hasTet := false, tet := [] }
/-- The placed machine without its warp: cluster 0 is free for a group. -/
def emptied0 : State := { placed with agents := [], groups := [], launches := [(2, waitingL)] }
/-- A group that can be placed on cluster 0, and a launch that is full; a launch that has run to its end, and one that has not. -/
theorem witness_launch_place :
    emptied0.placeable waitingL = true ∧ emptied0.placesOf (2, waitingL) = [0] ∧ (emptied0.fit 0 0 waitingL.kern).map (fun x => (x.1.map (fun y => y.1), x.2)) = some ([0], [0])
    ∧ emptied0.granulesClear 0 [0] = true ∧ emptied0.placeable { waitingL with placed := 2 } = false
    ∧ ({ placed with agents := [], groups := [], launches := [(2, { waitingL with placed := 2, retired := 2 })] } : State).launchOver 2 { waitingL with placed := 2, retired := 2 } = true
    ∧ emptied0.launchOver 2 waitingL = false := by decide +kernel

/-! Requests. -/

/-- A request with its data in the PF's mailbox, and in VF 0's. -/
def pfBoxed (s : State) (code : Nat) (data : NMap DWord) : State := { s with pfBox := ⟨BitVec.ofNat 32 (2 ^ 31 + code), true, 0, data, none, data⟩ }
def vfBoxed (s : State) (code : Nat) (data : NMap DWord) : State := { s with vfBoxes := [(0, ⟨BitVec.ofNat 32 (2 ^ 31 + code), true, 0, data, none, data⟩)] }
/-- Requests of every code that the statements name, of the PF and of a VF. -/
theorem witness_requests_pf : ∀ code, code < 256 → requested (pfBoxed placed code []) .pf code (fun k => ((pfBoxed placed code []).box .pf).arg k) := by
  intro code h
  have e : ∀ c, c < 256 → ((pfBoxed placed c []).box .pf).reqCode = c := by decide +kernel
  exact ⟨⟨rfl, rfl, rfl, e code h, fun _ => rfl⟩, fun x h => absurd h (by simp [pfBoxed, State.box])⟩
theorem witness_requests_vf : ∀ code, code < 256 → requested (vfBoxed placed code []) (.vf 0) code (fun k => ((vfBoxed placed code []).box (.vf 0)).arg k) := by
  intro code h
  have e : ∀ c, c < 256 → ((vfBoxed placed c []).box (.vf 0)).reqCode = c := by decide +kernel
  exact ⟨⟨rfl, rfl, rfl, e code h, fun _ => rfl⟩, fun x h => absurd h (by simp [vfBoxed, State.box, mapGetD, mapGet?])⟩
/-- A request of every code but UNKNOWN's that has a word beyond those that it uses. -/
theorem witness_request_extra : ∀ code ∈ [0x01, 0x05, 0x06, 0x40, 0x42, 0x47, 0x48, 0x4C, 0x4E], ∃ k, wordsOf code ≤ k ∧ ((pfBoxed placed code [(7, 1)]).box .pf).arg k ≠ 0 := by
  have h : ∀ c ∈ [0x01, 0x05, 0x06, 0x40, 0x42, 0x47, 0x48, 0x4C, 0x4E], wordsOf c ≤ 7 ∧ ((pfBoxed placed c [(7, 1)]).box .pf).arg 7 ≠ 0 := by decide +kernel
  exact fun c hc => ⟨7, h c hc⟩
/-- The words of a request are what its boxes hold. -/
theorem witness_request_words : ((pfBoxed placed 0x42 [(0, 0x5), (2, 7)]).box .pf).arg 0 = 5 ∧ ((pfBoxed placed 0x42 [(0, 0x5), (2, 7)]).box .pf).arg 1 = 0 ∧ ((pfBoxed placed 0x42 [(0, 0x5), (2, 7)]).box .pf).arg 2 = 7 := by decide +kernel
/-- VfRequestsAreAnswered: a PASID at 2^20 - 1 with no context in use and with one; a context with a queue and without one; launches of a queue and none; a legal descriptor; a part of a cluster and none. -/
theorem witness_vf_requests :
    ((State.reset.vf 0).ctxs = [] ∧ (placed.vf 0).ctxs.map (fun c => (c.1, c.2.pasid)) = [(0, 0)] ∧ mapGet? (placed.vf 0).ctxs 15 = none)
    ∧ (mapGet? (placed.vf 0).ctxs 0).map (fun c => c.queues) = some [] ∧ (mapGet? ((withQ q0 1).vf 0).ctxs 0).map (fun c => c.queues) = some [(0, q0)] ∧ (withQ q0 1).launches = []
    ∧ (emptied0.launches.any (fun l => l.2.vf == 0 && l.2.ctx == 0 && l.2.q == 0)) = true
    ∧ (let w := ofBytes (bytesOf 0x2000 8 ++ bytesOf 0x2F00 8 ++ bytesOf (2 ^ 31 + 2 ^ 16 * 23 + 16) 4 ++ bytesOf 0 12)
       field w 0 64 % 128 = 0 ∧ field w 64 64 % 8 = 0 ∧ field w 144 5 ≤ 23 ∧ 1 ≤ field w 128 5 ∧ field w 128 5 ≤ 16 ∧ w.testBit 159 = true)
    ∧ (placed.part 0 0).qmask ≠ 0 ∧ (placed.part 127 0).qmask = 0 := by
  decide +kernel
/-- The bytes of a queue descriptor are read, and its completion word written, where its context's pages are cached in the ATC. -/
def queueing : State := { placed with tlb := (List.range 8).map (fun c => (c, [⟨0, 0, 0, 2 ^ 21, placed.bar2, true, true, true, none⟩])) }
theorem witness_queue_read : (queueing.devRead (.queue ⟨0, 0, 0⟩) 0 0 0x2000 32).2.isSome = true ∧ (queueing.reqAccess (.queue ⟨0, 0, 0⟩) 0 0 needR 0x2000 32 (.wait queueing)).isNone = true
    ∧ (queueing.devWrite (.queue ⟨0, 0, 0⟩) 0 0 0x2F00 [0, 0, 0, 0, 0, 0, 0, 0] (Ev.link [] [] [])).2 = true ∧ (queueing.devAccess (.queue ⟨0, 0, 0⟩) 0 0 needW 0x2F00 8).2.isSome = true := by decide +kernel
/-- A kernel descriptor of 128 bytes at 0x3000: its snapshot is taken, and the launch fits. -/
theorem witness_snapshot : ((queueing.snapshot (.queue ⟨0, 0, 0⟩) 0 0 0x3000).2.map (fun x => x.tet.isNone)) = some true := by decide +kernel

/-- PartitionRequestsAreAnswered: a VF that is enabled and one that is not, one with a launch, and one with a window; quadrants that are free and taken; banks that are there and not; slices; a cluster that nobody owns. -/
theorem witness_partition_requests :
    (placed.vf 0).enabled = true ∧ (placed.vf 63).enabled = false ∧ placed.launches = [] ∧ placed.windows = [] ∧ (∃ l ∈ emptied0.launches, l.2.vf = 0)
    ∧ placed.parts = [(0, ⟨1, [0], 4⟩)] ∧ (0 + 64) / 64 = 1 ∧ (∀ x ∈ placed.parts, x.1 / 64 ≠ 127)
    ∧ State.givenUpIdle placed 0 0 ⟨0, [], 0⟩ = false ∧ State.givenUpIdle { placed with agents := [], groups := [] } 0 0 ⟨0, [], 0⟩ = true
    ∧ ([0, 1, 2, 3].map (fun c => ((placed.slicesFor 0 c).take 2).length)) = [2, 2, 2, 2] ∧ ((withQ q0 1).vf 0).share ≠ []
    ∧ (memRead placed.hostMem 0 1024).all (fun b => !(b.getLsbD 6)) = true ∧ (placed.vf 0).evq = none := by
  and_intros <;> try decide +kernel
/-- Requests that the PF's mailbox holds: a part to be handed over, a share, a member's leaving, a peer. -/
theorem witness_pending : ({ placed with pfBox := ⟨0x42, true, 0, [], some (.part 0 0 ⟨0, [], 0⟩), []⟩ } : State).pfBox.pend = some (.part 0 0 ⟨0, [], 0⟩) := rfl
/-- MemoryAndWindowRequestsAreAnswered: memory in canonical form; extents that are free and owned, and the last one; a window with one member and with two; a window number that is free. -/
def win : Window := ⟨0, [1], [(0, 3), (1, 1)], 1⟩
def windowed : State := { placed with windows := [(0, win)], extents := [(0, .vf 0), (1, .win 0)] }
theorem witness_memory_requests :
    tidy placed ∧ tidy windowed ∧ mapGet? placed.extents 0 = some (.vf 0) ∧ mapGet? placed.extents 141823 = none ∧ extentsNamed 141823 1 [141823] ∧ mapGet? windowed.windows 0 = some win ∧ win.extents.Nodup
    ∧ mapGet? win.members 1 ≠ none ∧ 1 ≠ win.home ∧ (∃ y ∈ win.members, y.1 ≠ win.home) ∧ (∀ y ∈ { win with members := [(0, 3)] }.members, y.1 = win.home) ∧ mapGet? placed.windows 0 = none
    ∧ (∀ x ∈ windowed.windows, x.1 ≠ 1) ∧ (∀ u, u < 1 → ∃ x ∈ windowed.windows, x.1 = u) ∧ windowed.windowBusy 0 1 = false ∧ (windowed.vf 1).evq = none ∧ win.members.length < 8 := by
  refine ⟨by unfold tidy; decide +kernel, by unfold tidy; decide +kernel, by decide +kernel, by decide +kernel, ⟨by decide, by decide⟩, rfl, by decide, by decide, by decide, by decide, by decide, by decide +kernel, by decide +kernel, ?_, by decide +kernel, by decide +kernel, by decide⟩
  intro u h; exact ⟨(0, win), List.mem_singleton.mpr rfl, by omega⟩

/-! Pre-emption and migration. -/

/-- The placed context in a state of its life, with its save area at 0, and its pages cached. -/
def ctxAt (st : CtxSt) (a : Agent) : State :=
  { placed with vfs := [(0, { placed.vf 0 with ctxs := [(0, ⟨0, st, some 0x4000, [], []⟩)], share := List.range 8, stopped := true })], agents := [(0, a)]
                tlb := (List.range 8).map (fun c => (c, [⟨0, 0, 0, 2 ^ 21, placed.bar2, true, true, true, none⟩])) ++ [(1000, [⟨0, 0, 0, 2 ^ 21, placed.bar2, true, true, true, none⟩])] }
/-- The placed warp, halted; its image spilt. -/
def haltedW (spilt : Bool) : Agent := { pw with halted := true, spilt := spilt, unfilled := if spilt then [0] else [] }
/-- ContextsHaltSpillAndResume: each state of a context; a context that is quiet, and one with an operation outstanding; an agent that is placed again, one whose image was spilt, and one whose image was lost; a unit that can be claimed; a granule to be filled. -/
theorem witness_preempt :
    ((ctxAt .run pw).ctx? 0 0).map (fun c => c.st) = some .run ∧ ((ctxAt .halting pw).ctx? 0 0).map (fun c => c.st) = some .halting ∧ ((ctxAt .halted pw).ctx? 0 0).map (fun c => c.st) = some .halted
    ∧ (ctxAt .halting pw).quiet 0 0 = true ∧ (ctxAt .halting { pw with ops := [op true] }).quiet 0 0 = false ∧ ofCtx 0 0 pw ∧ pw.stack = [] ∧ pw.isWave = false
    ∧ (ctxAt .resuming (haltedW false)).unitsFree 0 (haltedW false) = true ∧ (haltedW false).halted = true ∧ (haltedW false).lost = none ∧ (haltedW true).spilt = true ∧ 0 ∈ (haltedW true).unfilled
    ∧ (ctxAt .halted (haltedW false)).claimable 0 0 = true ∧ (ctxAt .run pw).claimable 0 0 = false ∧ pw.core.isWide = true ∧ pw.width ≤ 64
    ∧ placed.fragsOf 0 = [] ∧ mapGet? placed.groups 1 = some grp ∧ ({ grp with granules := [0], unfilled := [0] } : Group).granules[0]? = some 0 := by
  and_intros <;> try decide +kernel
/-- The save area of the context translates: a control record is read back, and a unit's pages can be written. -/
def goes (p : Saved) : Bool := match p with | .go _ => true | _ => false
theorem witness_save_area : goes ((ctxAt .resuming (haltedW true)).savePlan 0 0 0 false [(0x4000, 2048)]) = true ∧ goes ((ctxAt .halted (haltedW false)).savePlan 0 0 0 true [(0x4000, 2048)]) = true
    ∧ goes ((ctxAt .halted (haltedW false)).savePlan 0 0 0 true [(0x400000, 0x4000)]) = false := by decide +kernel
/-- A divergence-stack entry of each kind whose fields fit (R405). -/
theorem witness_entry : ((0x1FFFFFFC : DWord) - 0x18000000).toNat < 2 ^ 27 ∧ (⟨.path, ⟨0x1FFFFFFC, 31⟩, 1, 127, .own 65535, false, .none⟩ : Entry).pos.ix < 32 := by decide

/-- MIGCTL with GO, an operation and a VF; the migration block is asked. -/
def migOf (op v : Nat) (s : State) : State := { s with mig := { s.mig with ctl := BitVec.ofNat 32 (2 ^ 31 + 2 ^ 8 * v + op), busy := true, session := true } }
/-- MigrationMovesAVf: every operation, asked of VF 0 and of VF 63; a VF that is enabled and one that is not; tracking and not; a window, and a peer; a buffer with room for one page; a page to be installed; an imported VF. -/
theorem witness_migration :
    (∀ o, o < 16 → migAsked (migOf o 0 placed) o 0) ∧ migAsked (migOf 15 63 placed) 15 63 ∧ (placed.vf 63).enabled = false ∧ (placed.vf 0).track = false
    ∧ ({ placed with mig := { placed.mig with len := 65600 } } : State).mig.len.toNat / 65600 = 1 ∧ Memory.wf placed.hostMem = true ∧ tidy placed
    ∧ (∃ w ∈ windowed.windows, mapGet? w.2.members 0 ≠ none) ∧ (∀ l ∈ placed.launches, l.2.vf ≠ 0) ∧ (0 : Nat) < 32 * (placed.vf 0).extents.length ∧ ({ placed.mig with imported := some 0 } : Migration).imported = some 0
    ∧ ((placed.vf 0).ctxs.map (fun c => c.2.st)) = [.run] ∧ (∀ a ∈ ({ ctxAt .halted (haltedW true) with groups := [] } : State).agents, a.2.vf = 0 → a.2.spilt = true) := by
  refine ⟨?_, by unfold migAsked; decide +kernel, by decide +kernel, by decide +kernel, by decide +kernel, by decide +kernel, by unfold tidy; decide +kernel, ⟨_, List.mem_singleton.mpr rfl, by decide⟩,
    fun l h => by simp [placed, State.withFetchWord, State.reset, State.setVf] at h, by decide +kernel, rfl, by decide +kernel, ?_⟩
  · unfold migAsked; decide +kernel
  · intro a h _; rw [List.mem_singleton.mp h]; rfl

/-! Ports. -/

def request (w : List Waiter) (poison : List Nat) (stale : Bool) : AtsReq := ⟨0, 0, 5, 0, false, poison, stale, false, w, [1000, 0]⟩
/-- A page request group of two pages, waiting to be sent, and sent. -/
def pages (n : Option Nat) : PageGroup := ⟨3, 0, [(5, needR), (6, needR)], n, 0, []⟩
def paged (g : PageGroup) : State :=
  { placed with vfs := [(0, { placed.vf 0 with priEn := true, priAlloc := 2, groups := [g] })], waits := [⟨.park 4, 0, 0, [⟨5, needR, 0, some 3⟩]⟩]
                agents := [(0, { pw with slotA := { pw.slotA with wait := .page 4 0 5 } })] }
/-- PortsAnswerTranslationsPagesAndAccesses: requests that an answer answers, with a poisoned one and one whose discarded answer is to come; a group that has room, is sent, and is answered; an invalidation whose uses have ended. -/
theorem witness_ports :
    answersTo 0 0 5 (.failed 0) (request [.slot 0 false] [] false) ∧ answersTo 0 0 5 (.failed 0) (request [] [3] true) ∧ ¬ answersTo 0 0 5 (.failed 0) (request [] [3] false) ∧ ¬ answersTo 0 0 6 (.failed 0) (request [] [] false) ∧ ¬ answersTo 0 0 5 (.failed 1) (request [] [] false)
    ∧ (∀ y ∈ ([] : List PageGroup), y.prgi ≠ none) ∧ ((paged (pages none)).vf 0).groups = [] ++ pages none :: [] ∧ ((paged (pages none)).vf 0).priEn = true ∧ (∀ y ∈ [pages none], y.prgi ≠ some 0)
    ∧ sumOf (([pages none].filter (fun y => y.prgi.isSome)).map (fun y => y.pages.length)) + ((pages none).pages.take 2).length ≤ 2
    ∧ ((paged (pages (some 63))).vf 0).groups.find? (fun y => y.prgi == some 63) = some (pages (some 63)) ∧ mapWf placed.tlb = true
    ∧ placed.rangeBusy ⟨0, 0, none, 2 ^ 40, 2 ^ 16⟩ = false ∧ placed.invals = [] := by
  refine ⟨by unfold answersTo; decide, by unfold answersTo; decide, by unfold answersTo; decide, by unfold answersTo; decide, by unfold answersTo; decide, fun _ h => absurd h (by simp), by decide +kernel, by decide +kernel, by decide, by decide, by decide +kernel, by decide +kernel, by decide +kernel, rfl⟩
/-- A path that waits on a group under a name of its own, and no task. -/
theorem witness_page_wait : parksDistinct (paged (pages (some 63))) ∧ noTaskWaits (paged (pages (some 63))) [pages (some 63)] ∧ parkedIn (paged (pages (some 63))) 4 0 false
    ∧ (∃ w ∈ (paged (pages (some 63))).waits, ∃ p, waitsOn w (pages (some 63)) p) := by
  have h : ∀ n i b, parkedIn (paged (pages (some 63))) n i b → i = 0 ∧ b = false := by
    rintro n i b ⟨a, q, va, h1, h2⟩
    have e : ∀ i, (paged (pages (some 63))).agent? i = if 0 = i then some { pw with slotA := { pw.slotA with wait := .page 4 0 5 } } else none := fun i => by
      simp [paged, State.agent?, mapGet?]
    rw [e] at h1
    by_cases hi : 0 = i
    · rw [if_pos hi] at h1; cases h1; refine ⟨hi.symm, ?_⟩
      cases b with
      | false => rfl
      | true => have w : pw.slotB.wait = .none := by decide +kernel
                exact absurd (w.symm.trans h2) (by simp)
    · rw [if_neg hi] at h1; cases h1
  refine ⟨⟨by decide +kernel, fun n i j b c hi hj => ?_⟩, ?_, ⟨_, 0, 5, rfl, rfl⟩, ⟨_, List.mem_singleton.mpr rfl, _, List.mem_singleton.mpr rfl, rfl⟩⟩
  · obtain ⟨rfl, rfl⟩ := h n i b hi; obtain ⟨rfl, rfl⟩ := h n j c hj; exact ⟨rfl, rfl⟩
  · intro w hw g _ p _; rw [List.mem_singleton.mp hw]; exact ⟨by simp, by simp⟩
/-- The host's accesses: the last bytes of the only extent that is owned, and the first past it; a window's last bytes. -/
theorem witness_host : ownedRange placed (2 ^ 21 - 16) 16 ∧ ¬ ownedRange placed (2 ^ 21 - 16) 17 ∧ soundRange placed (2 ^ 21 - 16) 16 ∧ ¬ soundRange { placed with poison := [8191] } (2 ^ 21 - 16) 16
    ∧ shareSettled placed (2 ^ 21 - 16) ∧ placed.homeOf (2 ^ 21 - 16) = some 0 ∧ 2 ^ 21 - 16 + 16 ≤ 2 ^ 21 * win.extents.length ∧ windowByte win (2 ^ 21 - 1) = 2 ^ 22 - 1 ∧ (windowed.vf win.home).newShare = none
    ∧ mapGet? placed.windows 0 = none := by
  have e : ∀ y, mapGet? placed.extents y = if 0 = y then some (.vf 0) else none := fun y => by
    simp [placed, State.withFetchWord, State.reset, State.setVf, mapSet, mapGet?]
  have h1 : placed.homeOf (2 ^ 21 - 16) = some 0 := by decide +kernel
  refine ⟨⟨by decide, by decide, fun y a b => ?_⟩, fun h => ?_, ?_, fun h => ?_, ?_, h1, by decide, by decide, by decide +kernel, by decide +kernel⟩
  · rw [e, if_pos (by omega)]; simp
  · exact h.2.2 (2 ^ 21) (by omega) (by omega) (by rw [e]; decide)
  · intro y _ _ h; simp [placed, State.withFetchWord, State.setVf] at h
  · exact h (2 ^ 21 - 16) (by omega) (by omega) (by decide)
  · intro v h; rw [h1] at h; cases h; decide +kernel

/-! Basins. -/

/-- A packet of a new task and a release packet, in cluster 0's basin or on their way. -/
def packet (isNew : Bool) (place : Nat) : Packet := ⟨0, isNew, 0, 0, 2, List.replicate 8 0, 0, none, false, 0, place, 0xFFFF, none, [], none⟩
def recOf (st : RecState) : TaskRec := ⟨st, 0, List.replicate 8 0, 2, false, false, 0, [], [], [], 0, 0, 0, false⟩
def basin (d : Dispatcher) (r : RecState) : State := { launched 0 with packets := [packet false 1], recs := [(0, recOf r)], disps := [(0, d)] }
def binned (closed : Bool) : Dispatcher := ⟨[(0, [])], [(0, ⟨2, 0, 0, [0], 0, closed, 0⟩)], 0, 0, false⟩
/-- A packet that a peer has sent, of the placed launch's identity. -/
def foreign : Packet := { packet true 1 with src := 16, ackid := 5, peer := some (9, ⟨0, 0, 0, 1⟩) }
theorem foreign_launch : packetLaunch { launched 0 with packets := [foreign] } foreign 2 := .inr ⟨(9, ⟨0, 0, 0, 1⟩), (2, launch 0), rfl, by decide +kernel, rfl⟩
/-- BasinsMoveTheirTasks: a packet without a credit, with 3 and with 4 used, and one for another device; one that has arrived first; a record in each state; a free record; a bin to open, to join, to close and to dispatch. -/
theorem witness_basin :
    ((packet true 0).isNew = true ∧ (packet true 0).place = 0 ∧ (packet true 1).place ≠ 0 ∧ field (packet true 0).dst.toNat 24 8 = placed.devNum ∧ field ({ packet true 0 with dst := 0x01000000 } : Packet).dst.toNat 24 8 ≠ placed.devNum)
    ∧ mapGetD placed.credits 0 0 < 4 ∧ 4 ≤ mapGetD ({ placed with credits := [(0, 4)] } : State).credits 0 0 ∧ placed.forward = [] ∧ placed.packets = []
    ∧ arrivedFirst (basin (binned true) .waiting) 0 false [] (packet false 1) [] 2 ∧ arrivedFirst { placed with packets := [packet true 1] } 0 true [] (packet true 1) [] 2
    ∧ (∃ x, arrivedFirst { launched 0 with packets := [foreign] } 0 true [] foreign [] x) ∧ mapGetD placed.farCredits 128 0 < 4 ∧ foreign.ackid ≠ 0xFFFF
    ∧ (∀ st ∈ [RecState.waiting, .spec, .running, .page, .held, .commit], (basin (binned true) st).rec? 0 = some (recOf st)) ∧ (placed.rec? 0 = none) ∧ mapGet? (basin (binned true) .waiting).launches 2 = some (launch 0)
    ∧ deckOf placed 0 0 0 ∧ placed.ownClusters 0 = [0] ∧ (basin (binned true) .ready).disp 0 0 = binned true ∧ (placed.disp 0 0).deques = []
    ∧ (basin (binned true) .ready).tetOf 2 0 = some ⟨0x1000, 4, 0, 32, 0, false⟩ ∧ ((basin (binned false) .ready).disp 0 0).bins.filter (fun x => x.2.closed) = []
    ∧ mapGet? (placed.disp 0 0).bins 0 = none ∧ (basin (binned true) .ready).ctxRuns 0 0 = true ∧ (recOf .ready).args.length = 8 := by
  refine ⟨by decide +kernel, by decide +kernel, by decide +kernel, rfl, rfl, ⟨rfl, ⟨rfl, rfl, by decide, fun h => absurd h (by decide)⟩, fun y h => absurd h (by simp), .inl (.inl ⟨rfl, rfl⟩)⟩, ⟨rfl, ⟨rfl, rfl, by decide, fun _ => ⟨2, .inl ⟨rfl, rfl⟩⟩⟩, fun y h => absurd h (by simp), .inl (.inl ⟨rfl, rfl⟩)⟩,
    ⟨2, rfl, ⟨rfl, rfl, by decide, fun _ => ⟨2, foreign_launch⟩⟩, fun y h => absurd h (by simp), .inl foreign_launch⟩, by decide +kernel, by decide, by decide +kernel, by decide +kernel, by decide +kernel,
    by unfold deckOf; decide +kernel, ?_⟩
  and_intros <;> decide +kernel
/-- Free records, with one of the 4096 in use. -/
theorem witness_free_records : (basin (binned true) .ready).freeCount 0 ≠ 0 := by decide +kernel
/-- A wave can be placed with its granule, of a table whose entry takes one task. -/
def small : Launch := { launch 0 with tet := [⟨0x1000, 4, 1, 1, 0, false⟩] }
def ready1 : State := { emptied0 with launches := [(2, small)], recs := [(0, recOf .ready)], disps := [(0, binned true)] }
theorem witness_wave : (pickQuad ((ready1.ownQuads 0 0).filter (fun q => decide (q / 4 = 0))) (ready1.quadUse 0) (fun _ => true) 2 8).map (fun x => x.1) = some 0
    ∧ ready1.takeGranules 0 0 1 = some [0] ∧ ready1.granulesClear 0 [0] = true ∧ (ready1.quadUse 0 0).clear [0, 1] 8 = true ∧ small.tet[0]? = some ⟨0x1000, 4, 1, 1, 0, false⟩ := by decide +kernel
/-- Two clusters of a VF: one has been idle for 64 cycles and may ask the other, which holds two ready tasks. -/
def thief : State :=
  { launched 0 with parts := [(0, ⟨1, [0], 4⟩), (64, ⟨1, [0], 4⟩)], idleAt := [(0, 2048)], recs := [(4096, recOf .ready), (4097, recOf .ready)], disps := [(2, ⟨[(0, [0, 1])], [], 0, 0, false⟩)] }
theorem witness_steal : (∃ n, mapGet? thief.idleAt 0 = some n ∧ 32 * 64 ≤ n) ∧ thief.idleFor 0 0 = true ∧ mapGet? thief.steals 0 = none ∧ (thief.part 0 0).qmask ≠ 0 ∧ thief.victims 0 0 = [1]
    ∧ ((thief.disp 1 0).deque 0).Nodup ∧ ((thief.disp 1 0).deque 0).all (fun r => decide (r < 4096)) = true ∧ ((thief.disp 1 0).deque 0).length / 2 = 1 := by
  refine ⟨⟨2048, rfl, by decide⟩, by decide +kernel⟩

/-! Licences, clocks, registers and power. -/

/-- A chiplet after its eighth lap, whose flit of VF 0 has passed every stop. -/
def lapsed : Chiplet := { Chiplet.base with flits := [(0, ⟨100, [], 32⟩)], inj := [(0, ⟨true, 10, 4096⟩)], lap := 8, step := 5, spend := [(0, 9)] }
/-- The same with the flit at a stop. -/
def flying (stop : Nat) : State := { placed with chiplets := [(0, { lapsed with flits := [(0, ⟨100, [], stop⟩)] })] }
/-- LicencesClocksAndSlotsAdvance: a lap that may start and one that may not; a stop with a quadrant of the VF and one without; shortfalls and none; a window that has ended; a chiplet with quadrants of the VF and one without; slots within a frame and at its end. -/
theorem witness_licences :
    ((placed.chiplet 0).lap < 8 ∧ (∀ x ∈ (placed.chiplet 0).flits, ¬ x.2.stop < 32) ∧ lapping { lapsed with flits := [(0, ⟨100, [], 31⟩)] } ∧ ¬ lapping lapsed ∧ lapsed.lap = 8 ∧ mapWf lapsed.spend = true)
    ∧ mapGet? ((flying 0).chiplet 0).flits 0 = some ⟨100, [], 0⟩ ∧ ((List.range 2).map (fun k => (flying k).stopQuads 0 0 k)) = [[0], []]
    ∧ ((flying 0).purse 0 0).claimant = none ∧ ((flying 0).purse 0 0).others = [] ∧ shortfalls Chiplet.base = [] ∧ shortfalls { Chiplet.base with need := [(0, 7)] } = [(0, 7)]
    ∧ placed.quadsOn 0 0 ≠ 0 ∧ placed.quadsOn 1 0 = 0 ∧ (placed.chiplet 0).raising = none ∧ (placed.chiplet 0).hold = false ∧ (placed.chiplet 0).hot = false
    ∧ (let s : State := { placed with time := 64 * 1023 }; s.slot < s.time / 64 ∧ s.time / 64 % 1024 = 1023 ∧ s.time / 64 / 1024 = s.slot / 1024)
    ∧ (let s : State := { placed with time := 64 * 1024, slot := 1023 }; s.slot < s.time / 64 ∧ s.time / 64 % 1024 = 0 ∧ s.time / 64 / 1024 ≠ s.slot / 1024 ∧ mapWf s.newTabs = true) := by
  refine ⟨⟨by decide +kernel, by decide +kernel, ⟨_, List.mem_singleton.mpr rfl, by decide⟩, ?_, by decide, by decide⟩, by decide +kernel⟩
  rintro ⟨x, h, h2⟩; rw [List.mem_singleton.mp h] at h2; exact absurd h2 (by decide)
/-- RegistersFaultsAndPowerActOnTheWholePart: a part with power and without, in recovery and not; functions that are present and absent; the last stack; a VF whose bandwidth is not divided; a group on a cluster that fails, and its launch. -/
theorem witness_power :
    placed.powered = true ∧ placed.up = true ∧ placed.fw.recovery = false ∧ ({ placed with fw := { placed.fw with recovery := true } } : State).fw.recovery = true ∧ ({ placed with powered := false } : State).up = false
    ∧ placed.present .pf = true ∧ placed.present (.vf 0) = true ∧ placed.present (.vf 63) = false ∧ mapGetD placed.hbm 7 0 = 0 ∧ State.reset.bwVfs = [] ∧ mapWf placed.groups = true
    ∧ mapWf placed.vfs = true ∧ mapGet? (launched 0).groups 1 = some grp ∧ failsWith (.cluster 0) grp.cluster ∧ mapGet? (launched 0).launches grp.launch = some (launch 0) ∧ placed.mig.busy = false ∧ placed.dump = none ∧ placed.spdm = false := by
  and_intros <;> first | decide +kernel | rfl
/-- An image whose header is right, of 4096 bytes and a signature; and one of no bytes. -/
def image : List Byte := (bytesOf 0x4B593446 4 ++ bytesOf 3 4 ++ bytesOf 4096 4 ++ bytesOf 0 4) ++ List.replicate 4176 0
theorem witness_image : goodImage image ∧ ¬ goodImage [] ∧ ofBytes ((image.drop 4).take 4) = 3 := by
  have e : image.length = 4192 := by unfold image; rw [List.length_append, List.length_replicate]; decide
  have h : ofBytes (image.take 4) = 0x4B593446 ∧ ofBytes ((image.drop 4).take 4) = 3 ∧ ofBytes ((image.drop 8).take 4) = 4096 ∧ ofBytes ((image.drop 12).take 4) = 0 := by decide +kernel
  exact ⟨⟨by rw [e]; decide, h.1, by rw [h.2.2.1], by rw [e, h.2.2.1], h.2.2.2⟩, fun x => absurd x.1 (by decide), h.2.1⟩

/-! The step. -/

/-- The machine with FMA v4 = v1 * v2 + v3 at the placed warp's position; and with a header there. -/
def stepping : State := State.reset.withFetchWord 64 0x008000C08041008D
def entering : State := State.reset.withFetchWord 32 0x00FC4007
def turning (s : State) : State := { s.tick with agenda := [] }
def turned (s : State) : Agent := ((turning s).agent? 0).getD Agent.blank
def fma : Instr := .fmaFp (plainOps 0x08 4 (.vec 1) (.vec 2) 3)
/-- AStepRunsTheDecodedInstruction: the placed slot's turn in the body of a clause, and at a header; the code there, and what it decodes to. -/
theorem witness_step_turn : (∃ p h, slotTurnAt stepping (turning stepping) 0 false [] (turned stepping) p ∧ p.phase = .body 0x1004 h) ∧ ∃ p, slotTurnAt entering (turning entering) 0 false [] (turned entering) p ∧ p.phase = .header ∧ p.pos.hdr = 0x1000 :=
  ⟨⟨_, _, ⟨rfl, rfl, rfl, rfl, rfl, rfl, rfl, fun _ => by decide +kernel, rfl, rfl, rfl⟩, rfl⟩, ⟨_, ⟨rfl, rfl, rfl, rfl, rfl, rfl, rfl, fun _ => by decide +kernel, rfl, rfl, rfl⟩, rfl, rfl⟩⟩
theorem witness_step_code : ∃ w, parcelsAt (turning stepping) 0 false (turned stepping) 0x1004 w ∧ decodesTo w fma := by
  refine ⟨fun k => if k = 0 then 0x8041008D else if k = 1 then 0x008000C0 else 0, ⟨⟨_, _, rfl, rfl, rfl, rfl⟩, fun _ => ⟨_, _, rfl, rfl, rfl, rfl⟩, by decide, fun h => absurd h (by decide), fun _ => rfl⟩, by unfold decodesTo; decide⟩
theorem witness_step_header : codeAt (turning entering) 0 false (turned entering) 0x1000 0x00FC4007 ∧ decodeHeader 0x00FC4007 = some (.clause ⟨false, 3, 15, 1, 1⟩) ∧ (Instr.clause ⟨false, 3, 15, 1, 1⟩).wf = true ∧ decodeHeader 0x0000015D = none :=
  ⟨⟨_, _, rfl, rfl, rfl, rfl⟩, by decide, by decide, by decide⟩
/-- Its registers are ready, and sound or not, it issues, and the purse pays; an event's turn. -/
theorem witness_step_ready : (turned stepping).interlocked (usesOf fma) = false ∧ (turned stepping).struck fma 3 = none
    ∧ ({ turned stepping with bad := [(2, 1)] } : Agent).struck fma 3 = some (0x04, 1) ∧ ({ stepping with agenda := [.event (.doorbellWrite ⟨0, 0, 0⟩ 1)] } : State).agenda = .event (.doorbellWrite ⟨0, 0, 0⟩ 1) :: [] ∧ encode (.doorbellWrite ⟨0, 0, 0⟩ 1) = [] :=
  ⟨by decide +kernel, by decide +kernel, by decide +kernel, rfl, rfl⟩
/-- EveryStepKeepsMemoryCanonical: a state whose memory is in canonical form and whose step answers a next state. -/
theorem witness_step_memory : stepping.memoryOk ∧ ∃ t, step stepping = .next t := by
  refine ⟨by unfold State.memoryOk; decide +kernel, ?_⟩
  have h : (match step stepping with | .next _ => true | _ => false) = true := by decide +kernel
  revert h; cases step stepping with
  | next t => exact fun _ => ⟨t, rfl⟩
  | fault f => simp
  | refused f => simp
/-- DecodingInvertsEncoding: a well-formed instruction of each form. -/
theorem witness_encoding : fma.wf = true ∧ encode fma ≠ [] ∧ encode (.clause ⟨false, 3, 15, 1, 1⟩) ≠ [] ∧ (Instr.addI32SImm ⟨⟨0, false⟩, 9, 8, 13⟩).wf = true ∧ encode (.addI32SImm ⟨⟨0, false⟩, 9, 8, 13⟩) ≠ []
    ∧ decodeHeader 0x00FC4007 ≠ none ∧ decodeBody 0x8041008D 0x008000C0 0 ≠ none := by decide

end Sys2Proof.Tests
end

