-- ==== Sys2Proof/Tests/Witness4.lean ====
section
/-! SUPPORT. Witnesses: each form of SynchronizationAndTaskFormsComplete, the clauses on units of halted contexts, licences, registers and power at the bounds of their ranges, and the deeds of a step. -/

namespace Sys2Proof.Tests
open Sys2Proof Sys2Proof.Machine Sys2Proof.Claims
set_option Elab.async false

/-! Each form completes. -/

/-- SynchronizationAndTaskFormsComplete, BAR and BAR.ARV: barriers 0 and 15 of a warp, with lanes that have arrived and without; a fragment with no arrival under way. -/
theorem witness_completes_bar : placed.running = some (0, false, pw, pp) ∧ pw.active pp (oBar 15).g ≠ 0 ∧ pw.isWave = false ∧ wordA placed pw (oBar 15) 0 ≤ 15 ∧ pw.group = some 1 ∧ mapGet? placed.groups 1 = some grp
    ∧ pw.isFrag = false ∧ withFrag.running = some (7, false, frag 3, fp) ∧ (frag 3).isFrag = true ∧ (frag 3).group = some 1 ∧ mapGet? withFrag.groups 1 = some grp
    ∧ (frag 3).active fp (oBar 0).g &&& withFrag.barInFlight 7 (frag 3) 0 = 0 ∧ wordA withFrag (frag 3) (oBar 0) 0 ≤ 15 := by decide +kernel
/-- A warp with p1 in lane 0 alone, so that one lane is active, and a dependence word at 0. -/
def lone : Agent := { pw with preds := [(1, 1)] }
def worded (c t : Nat) : State := { launched 0 with agents := [(0, lone)], mem := memWrite placed.mem 0 (bytesOf (2 ^ 32 * t + c) 8) }
def oWord : MOps := { plainOps 0 8 (.scal 0) (.imm 0) 16 with g := ⟨1, false⟩ }
/-- The same, SPAWN and SPAWN.SPEC: one lane whose word names no task; DEP.DEC and DEP.ADD: counts 1 and 2^32 - 1, to which 0 is added. -/
theorem witness_completes_spawn :
    (worded 1 (2 ^ 32 - 1)).running = some (0, false, lone, pp) ∧ lone.active pp oWord.g = 1 ∧ direct (worded 1 (2 ^ 32 - 1)) lone 1 ∧ entryIn (worded 1 (2 ^ 32 - 1)) lone (wordB (worded 1 (2 ^ 32 - 1)) lone oWord 0)
    ∧ popMask (1 : Mask) ≤ (worded 1 (2 ^ 32 - 1)).freeCount lone.cluster ∧ apart 1 (fun _ => .dev 0) ∧ (worded 1 (2 ^ 32 - 1)).hasTable lone = true
    ∧ lanesReach (worded 1 (2 ^ 32 - 1)) 0 false lone 1 needRW 8 (fun L => valA (worded 1 (2 ^ 32 - 1)) lone oWord (.bits 2) L) (fun _ => .dev 0)
    ∧ lanesReach (worded 1 (2 ^ 32 - 1)) 0 false lone 1 needRW 8 (globAddr (worded 1 (2 ^ 32 - 1)) lone oWord) (fun _ => .dev 0)
    ∧ (∀ L ∈ lanesOf (1 : Mask), (worded 1 (2 ^ 32 - 1)).sound (.dev 0) 8 = true ∧ ofBytes ((worded 1 (2 ^ 32 - 1)).load (.dev 0) 8) / 2 ^ 32 = 2 ^ 32 - 1)
    ∧ ofBytes ((worded 1 5).load (.dev 0) 4) ≠ 0 ∧ ofBytes ((worded (2 ^ 32 - 1) 5).load (.dev 0) 4) + wordC lone oWord 0 < 2 ^ 32 := by
  have e : lanesOf (1 : Mask) = [0] := by decide +kernel
  have one : ∀ va, (∀ L, L < 1 → va L % 8 = 0 ∧ meets (worded 1 (2 ^ 32 - 1)) 0 false lone needRW (va L) = .ok (.dev 0) none ∧ (worded 1 (2 ^ 32 - 1)).heldLoc (.dev 0) = false) →
      lanesReach (worded 1 (2 ^ 32 - 1)) 0 false lone 1 needRW 8 va (fun _ => .dev 0) := by
    intro va h L hL hm
    have : ∀ L, L < 64 → (1 : Mask).getLsbD L = true → L < 1 := by decide +kernel
    exact ⟨(h L (this L hL hm)).1, ⟨none, (h L (this L hL hm)).2.1⟩, (h L (this L hL hm)).2.2⟩
  refine ⟨by decide +kernel, by decide +kernel, ⟨by decide +kernel, fun h => absurd h (by decide +kernel)⟩, ⟨launch 0, by decide +kernel, by decide +kernel, by decide +kernel⟩, ?_, ?_, by decide +kernel,
    one _ (by decide +kernel), one _ (by decide +kernel), by decide +kernel, by decide +kernel, by decide +kernel⟩
  · decide +kernel
  · intro L hL M hM h; rw [e, List.mem_singleton] at hL hM; exact absurd (hL.trans hM.symm) h
/-- The same, SYSRD, SYSWR and PMCRD: register 0 outside handler mode, register 11 in it, and counter 9. -/
theorem witness_completes_system : (plainOps 0 4 (.vec 0) (.vec 0) 0).g.neg = false ∧ (plainOps 0 4 (.vec 0) (.vec 0) 0).c.toNat = 0 ∧ (plainOps 0 4 (.vec 0) (.vec 0) 11).c.toNat = 11
    ∧ ({ pw with handler := some ⟨false⟩ } : Agent).handler ≠ none ∧ placed.counter pw 9 = some 0 ∧ (plainOps 0 4 (.vec 0) (.vec 0) 9).c.toNat ≤ 9 := by decide +kernel
/-- The same, the packets, the bins, the dispatch, the stealing and the commit: a packet with three credits used; an arrived release of a waiting record; a new task; a deque of one record and no bin; a bin of no wait; a pending wave; an idle thief with one victim; an ended task. -/
theorem witness_completes_basin :
    ({ launched 0 with packets := [packet true 0], credits := [(0, 3)] } : State).packets[0]? = some (packet true 0) ∧ field (packet true 0).dst.toNat 24 8 = placed.devNum
    ∧ mapGetD [(0, 3)] (32 * field (packet true 0).dst.toNat 12 7 + (packet true 0).src) 0 < 4
    ∧ (basin (binned true) .waiting).rec? (4096 * 0 + field (packet false 1).handle.toNat 0 12) = some (recOf .waiting)
    ∧ (0 ∈ (launched 0).ownClusters (launch 0).vf) ∧ (basin (binned true) .ready).freeCount 0 ≠ 0
    ∧ (let s := basin ⟨[(0, [0])], [], 0, 0, false⟩ .ready
       (s.disp 0 0).deques = [(0, 0 :: [])] ∧ s.rec? 0 = some (recOf .ready) ∧ (∀ y ∈ (s.disp 0 0).bins, y.2.closed = true) ∧ mapGet? (s.disp 0 0).bins 0 = none)
    ∧ (let s := basin (binned false) .ready; mapGet? (s.disp 0 0).bins 0 = some ⟨2, 0, 0, [0], 0, false, 0⟩ ∧ 32 * 0 ≤ 0)
    ∧ (ready1.disp 0 0).bins.filter (fun x => x.2.closed) = [(0, ⟨2, 0, 0, [0], 0, true, 0⟩)] ∧ (ready1.disp 0 0).drain = false ∧ mapGet? ready1.launches 2 = some small ∧ ready1.ctxRuns small.vf small.ctx = true
    ∧ (ready1.ownQuads 0 small.vf).filter (fun q => decide (q / 4 = 0)) = [0] ∧ (ready1.quadUse 0 0).fits 2 2 = some [0, 1] ∧ ready1.takeGranules 0 0 1 = some [0]
    ∧ (∀ z ∈ ready1.launches, ready1.placeable z.2 = true → 0 ∉ ready1.placesOf z)
    ∧ thief.idleFor 0 0 = true ∧ mapGet? thief.idleAt 0 = some 2048 ∧ mapGet? thief.steals 0 = none ∧ thief.victims 0 0 = [1] ∧ mapGet? ({ thief with steals := [(0, (1, 2))] } : State).steals (64 * 0 + 0) = some (1, 2)
    ∧ (let s := basin (binned true) .commit; s.rec? 0 = some (recOf .commit) ∧ (recOf .commit).buffer = []) := by
  and_intros <;> try decide +kernel

/-! Units of halted contexts. -/

/-- Two contexts of VF 0: 0 halted with the placed warp and ring 5, 1 running with a launch. -/
def twoCtx : State :=
  { ctxAt .halted (haltedW false) with vfs := [(0, { (ctxAt .halted pw).vf 0 with ctxs := [(0, ⟨0, .halted, some 0x4000, [], []⟩), (1, ⟨1, .run, none, [], []⟩)] })], groups := [(1, grp)], rings := [(5, ring 0 0 0 0)]
                                       launches := [(2, launch 0), (3, { launch 0 with ctx := 1 })] }
/-- A ring of a halted context is none of another context's (RingsOpenOnTheirDescriptorsAndTrapErrors), and its record may be claimed; so may an engine's entry of a queue that is full, a tile, a slot and a barrier record (ContextsHaltSpillAndResume). -/
theorem witness_claims :
    twoCtx.ringKept (.tasks 3) (ring 0 0 0 0) = true ∧ (with' pw).ringKept (.group 1) (ring 0 0 0 0) = false ∧ twoCtx.ring? 0 5 = some (ring 0 0 0 0) ∧ twoCtx.ownerCtx (ring 0 0 0 0).owner = some (0, 0) ∧ twoCtx.claimable 0 0 = true
    ∧ goes (twoCtx.savePlan 0 0 0 true [(clusterRecord twoCtx 0 0 0 + 0x3E0000 + 0x400 * 5, 1024)]) = false ∧ mapGet? twoCtx.groups 1 = some grp ∧ grp.recOut = false
    ∧ (let s : State := { twoCtx with engines := [(0, (List.range 64).map (fun k => { copying with id := k, seq := k }))] }
       s.engQ 0 false = [] ++ { copying with id := 0, seq := 0 } :: (s.engQ 0 false).drop 1 ∧ 64 ≤ s.engBusy 0 false ∧ s.ctxHalted 0 0 = true ∧ (∀ y ∈ s.engQ 0 false, 0 ≤ y.seq))
    ∧ ({ grp with granules := [0], unfilled := [0] } : Group).spilt = [] ∧ twoCtx.granuleTaken (.group 1) 0 0 = false ∧ (twoCtx.mu 0).spilt = [] ∧ (twoCtx.mu 0).bad = [] := by decide +kernel
/-- The save area's pages that lie past the first 2 MiB translate where their page is cached. -/
def savedAll : State := { twoCtx with tlb := (List.range 8).map (fun c => (c, [⟨0, 0, 0, 2 ^ 30, placed.bar2, true, true, true, none⟩])), extents := (List.range 8).map (fun e => (e, .vf 0)) }
theorem witness_save_plans : goes (savedAll.savePlan 0 0 0 true [(clusterRecord savedAll 0 0 0 + 0x3E0000 + 0x400 * 5, 1024)]) = true ∧ goes (savedAll.savePlan 0 0 0 true [(clusterRecord savedAll 0 0 0 + 0x3C0000, 512)]) = true
    ∧ goes (savedAll.savePlan 0 0 0 true [(clusterRecord savedAll 0 0 0 + 0x800000, 4096)]) = true ∧ goes (savedAll.savePlan 0 0 0 false [(clusterRecord savedAll 0 0 0 + 0x900000, 4096)]) = true := by decide +kernel
/-- A granule whose bytes are in the save area alone, and one that has kept its place; a warp with a ring away, and one with none. -/
theorem witness_fill : (let a : Agent := { haltedW true with halted := false, saved := [0] }; 0 ∈ a.unfilled ∧ 0 ∈ a.saved ∧ a.core.isWide = true ∧ a.width ≤ 64) ∧ 0 ∈ (haltedW true).unfilled ∧ 0 ∉ (haltedW true).saved
    ∧ (haltedW true).badIn 0 (haltedW true).started = false ∧ placed.ringsAway pw.ringOwner = [] ∧ ({ placed with ringsOut := [(5, ring 0 0 0 0)] } : State).ringsAway pw.ringOwner = [(0, 5, ring 0 0 0 0)]
    ∧ ({ placed with ringsOut := [(5, ring 0 0 0 0)], rings := [(5, ring 0 0 0 0)] } : State).ring? 0 5 ≠ none := by decide +kernel

/-! Ports and requests. -/

/-- PortsAnswerTranslationsPagesAndAccesses: an answer of 64 KiB, of 2 MiB, of another size and one that is too small; another VF whose event came first. -/
theorem witness_answers : (2 ^ 16 : Nat) ≤ 2 ^ 16 ∧ (2 ^ 16 - 1 : Nat) < 2 ^ 16 ∧ (2 ^ 17 ≠ 2 ^ 16 ∧ 2 ^ 17 ≠ 2 ^ 21 ∧ 2 ^ 17 ≠ (2 : Nat) ^ 30)
    ∧ (let s : State := { placed with vfs := [(0, { placed.vf 0 with priEn := true, priAlloc := 2, groups := [{ pages none with stamp := 2 }] }), (1, { placed.vf 0 with priEn := true, priAlloc := 2, groups := [{ pages none with stamp := 1 }] })] }
       ∃ w ∈ s.vfs, w.1 ≠ 0 ∧ ∃ y, s.sendable w.1 = some y ∧ y.2.2.before { pages none with stamp := 2 } = true) := by
  refine ⟨by decide, by decide, by decide, ⟨_, List.mem_cons_of_mem _ (List.mem_singleton.mpr rfl), by decide, ⟨(0, 0, { pages none with stamp := 1 }), by decide +kernel, by decide +kernel⟩⟩⟩
/-- A share change that is under way (PartitionRequestsAreAnswered). -/
theorem witness_share : (let s : State := { placed with vfs := [(0, { placed.vf 0 with newShare := some [0] })], pfBox := ⟨0x44, true, 0, [], some (.share 0), []⟩ }; (s.vf 0).newShare = some [0] ∧ s.pfBox.pend = some (.share 0) ∧ (s.vf 0).evq = none) := by
  decide +kernel

/-! Licences, registers and power. -/

/-- LicencesClocksAndSlotsAdvance: a carried price and none, with INJ 4096, which keeps all; a claimant whose draw still stands, with its price met and not; a quadrant that the VF has given up. -/
theorem witness_flits : (({ lapsed with debt := [(0, 256)], lap := 0 } : Chiplet).injOf 0).en = true ∧ (({ lapsed with lap := 0 } : Chiplet).injOf 0).inj - 4096 = 0 ∧ mapWf lapsed.inj = true ∧ mapWf lapsed.injNew = true
    ∧ (let s : State := { flying 0 with engines := [(0, [copying])], purses := [(0, { Purse.empty with claimant := some (.eng false 9, 32) })] }
       (s.purse 0 0).claimant = some (.eng false 9, 32) ∧ s.claims 0 (.eng false 9) = true ∧ s.claims 0 (.eng true 9) = false ∧ (s.purse 0 0).others = [] ∧ s.stopQuads 0 0 0 = [0])
    ∧ placed.ownsQuad 0 0 0 = true ∧ placed.ownsQuad 0 0 1 = false := by decide +kernel
/-- RegistersFaultsAndPowerActOnTheWholePart: the bits of CTXCTL and PRICTL; the thermal rows at 85.0 and 85.1 degrees, and below and at 82.0; a chiplet at 105.0, 105.1, 100.0 and 99.9. -/
theorem witness_bounds :
    ((0x80000000 : DWord).toNat.testBit 31 = true ∧ (0x80000000 : DWord).toNat.testBit 30 = false ∧ (0x40000000 : DWord).toNat.testBit 30 = true ∧ (0xC0000000 : DWord).toNat.testBit 31 = (0xC0000000 : DWord).toNat.testBit 30)
    ∧ parksDistinct placed ∧ noTaskWaits placed []
    ∧ stackRow 0 850 0 ∧ stackRow 0 851 1 ∧ stackRow 1 821 1 ∧ stackRow 1 820 0 ∧ stackRow 0 1051 3 ∧ stackRow 2 1050 2
    ∧ ((1050 : Nat) ≤ 1050 ∧ (1050 : Nat) < 1051 ∧ (1000 : Nat) ≤ 1000 ∧ (999 : Nat) < 1000) := by
  have row : ∀ w t r, r ≤ 3 → (1 ≤ r ↔ 850 < t ∨ (1 ≤ w ∧ 850 < t + 30)) → (2 ≤ r ↔ 950 < t ∨ (2 ≤ w ∧ 950 < t + 30)) → (3 ≤ r ↔ 1050 < t ∨ (3 ≤ w ∧ 1050 < t + 30)) → stackRow w t r := by
    intro w t r h0 h1 h2 h3
    refine ⟨h0, fun k ha hb => ?_⟩
    obtain rfl | rfl | rfl : k = 1 ∨ k = 2 ∨ k = 3 := by omega
    · exact h1
    · exact h2
    · exact h3
  have h : ∀ n i b, ¬ parkedIn placed n i b := by
    rintro n i b ⟨a, q, va, h1, h2⟩
    have e : ∀ i, placed.agent? i = if 0 = i then some pw else none := fun i => by
      simp [placed, State.agent?, State.withFetchWord, State.reset, State.setVf, mapGet?, mapSet, pw, kindOf, parcelAt]
    rw [e] at h1
    by_cases hi : 0 = i
    · rw [if_pos hi] at h1; cases h1
      have w : ∀ b, (pw.slot b).wait = .none := by decide +kernel
      exact absurd ((w b).symm.trans h2) (by simp)
    · rw [if_neg hi] at h1; cases h1
  exact ⟨by decide, ⟨by decide +kernel, fun n i j b c hi _ => absurd hi (h n i b)⟩, fun w hw => absurd (show w ∈ ([] : List PageWait) from hw) (by simp),
    row _ _ _ (by omega) (by omega) (by omega) (by omega), row _ _ _ (by omega) (by omega) (by omega) (by omega), row _ _ _ (by omega) (by omega) (by omega) (by omega), row _ _ _ (by omega) (by omega) (by omega) (by omega),
    row _ _ _ (by omega) (by omega) (by omega) (by omega), row _ _ _ (by omega) (by omega) (by omega) (by omega), by decide⟩

/-! Steps. -/

/-- AStepRunsTheDecodedInstruction: rows that are ready, that are to be filled, and that a fragment pulls; an instruction that issues, at a price of none, and one whose price a purse of none does not meet. -/
def pulls (r : Rows) : Nat := match r with | .ready => 0 | .hold => 1 | .pull _ => 2
theorem witness_rows : pulls ((turning stepping).rows 0 (turned stepping) (usesOf fma)) = 0 ∧ pulls (placed.rows 0 { pw with unfilled := [0] } (usesOf fma)) = 1 ∧ pulls (withFrag.rows 7 (frag 3) (usesOf fma)) = 2
    ∧ ((withFrag.sendUp (frag 3) (.pullReq 7 [0])).rows 7 (frag 3) (usesOf fma) |> pulls) = 1 := by decide +kernel
/-- The deeds: each as the next turn, of a device that is up and of one that is down; a granule with a line to be written back and one without, of an extent with a tree; harm to a granule and to a node. -/
theorem witness_deeds : (∀ d, ∃ t, deedAt { stepping with agenda := [.deed d] } t d) ∧ placed.up = true ∧ ({ placed with powered := false } : State).up = false
    ∧ mapGet? ({ placed with dirty := [(5, List.replicate 256 0)] } : State).dirty 5 = some (List.replicate 256 0) ∧ mapGet? placed.dirty 5 = none ∧ (placed.treeOf 5).isSome = true ∧ placed.pathOf 5 ≠ []
    ∧ (∀ e v, mapGet? placed.extents e = some (.vf v) → v < 64) ∧ Sealed.granule 5 ∈ [Sealed.granule 5] ∧ Sealed.node 0 0 0 ∈ placed.pathOf 5
    ∧ ({ placed with packets := [{ packet true 2 with ackid := 7 }] } : State).packets = [] ++ { packet true 2 with ackid := 7 } :: [] := by
  refine ⟨fun d => ⟨_, [], rfl, rfl⟩, ?_⟩
  and_intros <;> try decide +kernel
  intro e v h
  have x : mapGet? placed.extents e = if 0 = e then some (.vf 0) else none := by simp [placed, State.withFetchWord, State.reset, State.setVf, mapSet, mapGet?]
  rw [x] at h
  by_cases he : 0 = e
  · rw [if_pos he] at h; cases h; decide
  · rw [if_neg he] at h; cases h

end Sys2Proof.Tests
end

