-- ==== Sys2Proof/Tests/Witness5.lean ====
section
/-! SUPPORT. Witnesses of the clauses on rounding, irrevocable tasks, operand blocks, struck entries, units away, fenced basins and peers, at the bounds of their ranges; and a digest. -/

namespace Sys2Proof.Tests
open Sys2Proof Sys2Proof.Machine Sys2Proof.Claims
set_option Elab.async false

-- the digest of the three bytes "abc", from FIPS 180-4's example
theorem test_sha384 : sha384 [0x61, 0x62, 0x63] = [0xcb00753f45a35e8b, 0xb5a03d699ac65007, 0x272c32ab0eded163, 0x1a8b605a43ff5bed, 0x8086072ba1e7cc23, 0x58baeca134c825a7] := by decide +kernel

/-! Rounding and conversion. -/

/-- RoundingAndConversionFollowTheRules: numbers, a zero, an infinity and a NaN of FP32; a magnitude within an interval of exponents, exact and at a tie; one that overflows and one that is tiny; a root that is exact; formats with codes and without. -/
theorem witness_rounding :
    (binFmt FP32).isSome = true ∧ (decodeVal FP32 0x3F800001 = .fin false 8388609 (-23) ∧ decodeVal FP32 0 = .zero false ∧ decodeVal FP32 0xFF800000 = .inf true ∧ decodeVal FP32 0x7F800001 = .nan true)
    ∧ (exactly 3 (pow2 1) ≠ .gt ∧ exactly 3 (pow2 2) = .gt) ∧ (exactly 3 ((3 : Nat) * pow2 0) = .eq) ∧ (exactly (5 / 2) (((2 : Nat) + 1 / 2) * pow2 0) = .eq ∧ 2 % 2 = 0)
    ∧ ((1 : Rat) < 3 / 2 ∧ (3 : Rat) / 2 * pow2 0 = 3 / 2) ∧ rootOf 4 2 = .eq ∧ rootOf 2 1 = .lt ∧ rootOf 2 (3 / 2) = .gt ∧ rootInverse 4 (1 / 2) = .eq
    ∧ fmtInt I32 = true ∧ fmtInt FP32 = false ∧ binFmt E8M0 = none ∧ binFmt E4M3 ≠ none ∧ ((10 ^ 20 : Nat) : Rat) < (10 ^ 20 + 1 : Nat) := by decide +kernel
/-- The largest number of FP16 and the least normal one: beyond the first a magnitude overflows, below the second it is tiny. -/
theorem witness_range : ∀ b, binFmt FP16 = some b → largest b = 65504 ∧ pow2 (1 - b.bias) = 1 / 16384 := by
  have h : (binFmt FP16).all (fun b => decide (largest b = 65504 ∧ pow2 (1 - b.bias) = 1 / 16384)) = true := by decide +kernel
  intro b e; rw [e] at h; exact of_decide_eq_true h

/-! Tasks that are not irrevocable, and those that become so. -/

/-- The wave with a table; the same with a speculative task. -/
def tabled : State := { waving with launches := [(2, launch 0)] }
def guessing : State := { tabled with recs := [(0, { rec 0 with spec := true }), (1, rec 1)] }
/-- Whether a state is the answer, and which. -/
def madeIrrev (s : State) (m : Mask) : Bool := (s.makeIrrev 0 m).2
/-- TasksBufferTheirWrites, of group memory: scratch that needs no fill, an aligned address, no struck byte, room in the buffers; a layout word that is legal. -/
theorem witness_buffer_group : waving.running = some (0, false, wave, wp) ∧ wave.active wp (oGm 8).g = 3 ∧ waving.softLanes wave 3 = 3
    ∧ waving.overflow wave 3 (fun L => storeEntry .gm .weak (gmAddr waving wave (oGm 8) L) (bytesOf 7 4) (.dev 0)) = 0
    ∧ (∀ L, L < 64 → gmAddr waving wave (oGm 8) L % 4 = 0 ∧ waving.gmFilled wave (gmAddr waving wave (oGm 8) L) 4 = true)
    ∧ gmStruck waving 0 wave 3 4 (fun L => some (gmAddr waving wave (oGm 8) L)) = 0 ∧ atomGm (plainOps 0x06 0 (.scal 0) (.imm 0x40) 11) = true ∧ atomNr (plainOps 0x06 0 (.scal 0) (.imm 0x40) 11) = true
    ∧ layoutOk (layoutWord { wave with sregs := [(2, 0x200000)] } 0) 4 = true := by
  and_intros <;> try decide +kernel
/-- The same, the tasks that must be irrevocable: they become so, and the wave stands as before; a speculative one keeps them from it; the tasks of the lanes; a buffer that has entries still, of which the first is a FORK. -/
theorem witness_irrevocable : madeIrrev tabled 3 = true ∧ madeIrrev guessing 3 = false ∧ ((tabled.makeIrrev 0 3).1.running == some (0, false, wave, wp)) = true
    ∧ (tabled.makeIrrev 0 3).1.softLanes wave 3 = 0 ∧ tabled.hasTable wave = true ∧ tabled.pendingLanes wave 3 = 0
    ∧ ((tabled.makeIrrev 0 3).1.launches == tabled.launches) = true ∧ tabled.agent? 0 = some wave ∧ wave.isWave = true
    ∧ (∀ L ∈ lanesOf (3 : Mask), wave.recKey L = some L ∧ tabled.rec? L = some (rec L) ∧ (rec L).agent = 0 ∧ (rec L).lane = L) ∧ (rec 0).st = .running ∧ (rec 0).spec = false ∧ (rec 0).buffer = []
    ∧ lanesOf (1 : Mask) = [0] ∧ ({ tabled with recs := [(0, { rec 0 with buffer := [.fork 0 []] })] } : State).rec? 0 = some { rec 0 with buffer := [.fork 0 []] } := by
  and_intros <;> try decide +kernel
/-- A basin that has no free record: each but the first of its 4096 is ready. -/
def crowded (r : TaskRec) : State := { tabled with recs := (0, r) :: (List.range 4095).map (fun k => (k + 1, recOf .ready)) }
theorem get_range (r : TaskRec) : ∀ n j k, k < n → mapGet? ((List.range' j n).map (fun k => (k, r))) (j + k) = some r := by
  intro n
  induction n with
  | zero => intro j k h; exact absurd h (by omega)
  | succ n ih =>
    intro j k h
    rw [List.range'_succ, List.map_cons, mapGet?]
    by_cases h0 : k = 0
    · rw [if_pos (by omega)]
    · rw [if_neg (by omega), if_neg (by omega), show j + k = j + 1 + (k - 1) by omega]; exact ih (j + 1) (k - 1) (by omega)
/-- A task that runs, or has ended, whose buffer holds a FORK. -/
def forking (st : RecState) : TaskRec := { rec 0 with st := st, buffer := [.fork 0 []] }
/-- The same, a FORK's entry that finds no record; and of an ended task (BasinsMoveTheirTasks). -/
theorem witness_no_record : ∀ st, st ≠ .free → (crowded (forking st)).freeCount 0 = 0 ∧ (crowded (forking st)).rec? 0 = some (forking st) ∧ (crowded (forking st)).agent? 0 = some wave := by
  intro st hs
  refine ⟨?_, rfl, rfl⟩
  unfold State.freeCount
  rw [List.length_eq_zero_iff, List.filter_eq_nil_iff]
  intro r h
  have e : (crowded (forking st)).rec? (4096 * 0 + r) = if r = 0 then some (forking st) else some (recOf .ready) := by
    rw [show 4096 * 0 + r = r by omega]
    by_cases h0 : r = 0
    · rw [if_pos h0, h0]; rfl
    · rw [if_neg h0]
      have g := get_range (recOf .ready) 4095 1 (r - 1) (by have := List.mem_range.mp h; omega)
      have l : (List.range 4095).map (fun k => (k + 1, recOf .ready)) = (List.range' 1 4095).map (fun k => (k, recOf .ready)) := by
        rw [List.range'_eq_map_range, List.map_map]; exact List.map_congr_left (fun k _ => by rw [Function.comp, Nat.add_comm])
      unfold State.rec? crowded
      rw [mapGet?, if_neg (Ne.symm h0), if_neg (by omega), l]
      rw [show 1 + (r - 1) = r by omega] at g; exact g
  unfold State.recFree
  rw [e]
  by_cases h0 : r = 0
  · rw [if_pos h0]; simp [forking, hs]
  · rw [if_neg h0]; simp [recOf]

/-! Operand blocks. -/

/-- A block of an MMA in s16 to s19 beside a CPY's in s8 to s15. -/
def followBlk (l : List Nat) (m : List Nat) : Agent := { blocked l with sregs := (blocked l).sregs ++ m.zipIdx.map (fun x => (16 + x.2, BitVec.ofNat 32 x.1)) }
/-- EngineInstructionsQueueTheirCommands, its follow-on, and MatrixInstructionsQueueTheirCommands: BF16 of 64 rows and columns with K = 64, its A operand at a multiple of 16, at no multiple, and in ring 63; a row's bytes; a ring that is good for it, one that is too small, and none; M = 65; X64 of FP16; and WB.LD of one tile. -/
theorem witness_operand_blocks :
    (∃ t, mmaRow false 0x10 = some t ∧ mmaLegal pw.muCtx false 0x10 0 0x4040 64 t) ∧ (∀ t, ¬ (mmaRow false 0x10 = some t ∧ mmaLegal pw.muCtx false 0x10 0 0x4041 64 t))
    ∧ (∃ t, mmaRow true 0x08 = some t ∧ mmaLegal pw.muCtx true 0x08 0 0x0808 8 t) ∧ (∃ t, mmaFmt 2 = some t ∧ wbLdLegal pw.muCtx false false (fun k => if k = 3 then 2 ^ 28 + 64 else 0) t)
    ∧ (let w0 := (2 ^ 26 + 63 : Nat); w0.testBit 26 = true ∧ field w0 0 20 = 63 ∧ (0 : Nat).testBit 26 = false ∧ field 8 0 20 % 16 ≠ 0 ∧ field 0x4040 16 16 % 16 = 0)
    ∧ mmaNeed false 0x10 0x0101 8 = 16 ∧ (let s := ringed (ring 1 1 0 0); (s.ringSeen pw.cluster 5 pw.ringOwner).map (fun x => (x.owner == pw.ringOwner, x.slotb)) = some (true, 32) ∧ s.ringSeen pw.cluster 63 pw.ringOwner = none)
    ∧ (let a := followBlk [0, 0, 0x100, 0, 1, 1, 0, 0] [0, 0x4040, 2 ^ 28 + 64, 0]
       (∀ k, k < 4 → (a.s (16 + k)).toNat = [0, 0x4040, 2 ^ 28 + 64, 0].getD k 0) ∧ (2 ^ 28 + 64 : Nat).testBit 23 = false ∧ field (2 ^ 28 + 64) 24 8 = 0x10 ∧ field (2 ^ 28 + 64) 20 3 = 0 ∧ placed.ownsQuad a.cluster a.vf 0 = true
        ∧ field (2 ^ 28 + 64) 18 2 = 0 ∧ field (2 ^ 28 + 64) 16 2 = 0 ∧ ({ oBlk 0x08 with c := 16, kc := true } : MOps).mod.getLsbD 3 = true) := by
  refine ⟨⟨_, rfl, by unfold mmaLegal scaleLegal; and_intros <;> decide +kernel⟩, ?_, ⟨_, rfl, by unfold mmaLegal scaleLegal; and_intros <;> decide +kernel⟩, ⟨_, rfl, by unfold wbLdLegal scaleLegal; and_intros <;> decide +kernel⟩, by decide +kernel⟩
  rintro t ⟨_, h⟩; exact absurd h.2.2.2.2.2.2.2.2.2.1 (by decide)
/-- TasksEndOrAbort: the records of the wave's lanes are its cluster's and its launch's, and have this wide core. -/
theorem witness_task_back : mapGet? tabled.launches wave.launch = some (launch 0) ∧ (∀ L ∈ lanesOf (3 : Mask), ∀ k r, wave.recKey L = some k → tabled.rec? k = some r → k / 4096 = wave.cluster ∧ r.launch = wave.launch) ∧ (rec 0).core = 0 := by
  refine ⟨by decide +kernel, ?_, rfl⟩
  have e : ∀ L ∈ lanesOf (3 : Mask), (wave.recKey L).all (fun k => (tabled.rec? k).all (fun r => decide (k / 4096 = wave.cluster ∧ r.launch = wave.launch))) = true := by decide +kernel
  intro L h k r hk hr
  have x := e L h
  rw [hk, Option.all_some, hr, Option.all_some] at x
  exact of_decide_eq_true x
/-- An address of WIN.PUB that is no multiple of 8 (WindowPublishAndInvalidate), and a divergent BRA's target past the code (DivergentBranchesSplitThePath). -/
theorem witness_misaligned : globAddr placed pw (plainOps 0 8 (.scal 0) (.imm 0x44) 0) (lowLane pp.mask) % 8 ≠ 0 ∧ ¬ goodTarget placed pw (0x20001000 : DWord) := by
  unfold goodTarget; decide +kernel

/-! Commands, units away and migration. -/

/-- EngineCommandsArePerformed: a command whose entry is struck; a follow-on that takes no ring slot, of a CPY of one chunk, paid for and not; a unit with room, one that is full, and one whose queue has an entry away. -/
theorem witness_follow_on :
    (let s : State := { engined false copying with cmdBad := [9] }; s.cmdBad.contains 9 = true ∧ s.engQ 0 false = [copying] ∧ copying.finished = false ∧ copying.out = false)
    ∧ noRing (MuOp.accZero 1) ∧ max ((4096 * 1 + 4095) / 4096) 1 = 1 ∧ { followed with paid := 2 }.paid = 2 ∧ followed.paid = 1
    ∧ (engined false followed).muBusy 0 0 < 16 ∧ (∀ y ∈ ((engined false followed).mu 0).queue, y.out = false) ∧ 16 ≤ (mused (List.replicate 16 (mcmd .fence))).muBusy 0 0
    ∧ (∃ y ∈ ((mused [{ mcmd .fence with out := true }]).mu 0).queue, y.out = true) ∧ (({ engined false followed with purses := [] } : State).purse 0 0).tokens < muPrice (.accZero 1) := by
  refine ⟨by decide +kernel, by unfold noRing; exact trivial, by decide +kernel, rfl, rfl, by decide +kernel, by decide +kernel, by decide +kernel, ⟨_, List.mem_singleton.mpr rfl, rfl⟩, by decide +kernel⟩
/-- MatrixCommandsStartAndComplete: an acquiring head; a started head whose entry is struck, of a warp's MUFENCE; a context that does not run. -/
theorem witness_matrix_struck : { mcmd .fence with acq := true }.acq = true ∧ noRing .fence
    ∧ (let s : State := { mused [{ mcmd .fence with started := true }] with cmdBad := [9] }; s.cmdBad.contains 9 = true ∧ (s.mu 0).queue = { mcmd .fence with started := true } :: [] ∧ s.muPick 0 0 = some 0)
    ∧ pw.isWave = false ∧ (mused []).cmdBad = [] ∧ (ctxAt .halted pw).ctxRuns 0 0 = false := by
  refine ⟨rfl, by unfold noRing; exact trivial, by decide +kernel⟩

/-- ContextsHaltSpillAndResume: a claim that another context or a fragment wants; a scale cache and a slot whose images go out and come back; a slot's head row; a command's registers with marks while staged and not. -/
def stockedMu : Mu := ⟨[], [(3, .head 2 false false 64 false 0 [1, 2] [] [] 2)], [], [], [], [], []⟩
def stocked : State := { savedAll with mus := [(0, stockedMu)] }
theorem witness_units_away :
    (ctxAt .halted (haltedW false)).claimable 0 0 = true ∧ (let y := frag 3; y.isFrag = true ∧ y.halted = false ∧ y.cluster = pw.cluster)
    ∧ goes (savedAll.savePlan 0 0 0 true [(clusterRecord savedAll 0 0 0 + 0x400000 + 0x64000, 0x2000)]) = true ∧ goes (savedAll.savePlan 0 0 0 false [(clusterRecord savedAll 0 0 0 + 0x400000 + 0x64000, 0x2000)]) = true
    ∧ (let at' := [(clusterRecord savedAll 0 0 0 + 0x400000 + 0x40000 + 0x2000 * 3, 0x2000), (clusterRecord savedAll 0 0 0 + 0x400000 + 0x60000 + 0x400 * 3, 1024)]
       goes (savedAll.savePlan 0 0 0 true at') = true ∧ goes (savedAll.savePlan 0 0 0 false at') = true)
    ∧ mapGet? (stocked.mu 0).wb 3 = some (.head 2 false false 64 false 0 [1, 2] [] [] 2) ∧ 16 + 3 ∉ (stocked.mu 0).spilt ∧ 32 ∉ (stocked.mu 0).spilt ∧ stocked.claimable 0 0 = true
    ∧ ({ stockedMu with unfilled := List.range 33, spilt := [19, 32] } : Mu).unfilled.contains 32 = true ∧ (haltedW false).staging = pw.staging ∧ 5 ∉ pw.stgDirty := by
  and_intros <;> try decide +kernel
/-- MigrationMovesAVf: the room of a buffer and the pages marked: one page, and two. -/
theorem witness_stop_room : (65600 * 1 + 5 : Nat) / 65600 = 1 ∧ (1 : Nat) ≤ [(0 : Nat)].length ∧ [(0 : Nat)].length < (65600 * 2 : Nat) / 65600 := by decide

/-! Ports. -/

/-- PortsAnswerTranslationsPagesAndAccesses: an answer for a chiplet; poison within a range, at a granule that a write covers and one that it does not; a window's pieces; a peer's fences. -/
theorem witness_ports_more :
    answersTo 0 0 5 (.granted 0 0 (2 ^ 16) true true true) (request [] [] false) ∧ (∀ cl k, Waiter.eng cl true k ∉ (request [.slot 0 false] [] false).waiters)
    ∧ struckFirst { placed with poison := [8191] } (2 ^ 21 - 16) 16 (fun _ => False) (2 ^ 21 - 16) ∧ struckFirst { placed with poison := [1, 2] } 256 300 (fun g => 256 ≤ 256 * g ∧ 256 * g + 256 ≤ 556) 512
    ∧ (win.pieces 0 8).isSome = true ∧ win.pieces 8 8 = some [(2 ^ 21 * 1 + 8, 8)] ∧ (∀ i, i < 8 → windowByte win (8 + i) / 256 ∉ windowed.poison) ∧ 8 + 8 ≤ 2 ^ 21 * win.extents.length := by
  refine ⟨by unfold answersTo; decide, ?_, ⟨by decide, by decide, by decide +kernel, fun h => h, ?_⟩, ⟨by decide, by decide, by decide, by decide, ?_⟩, by decide +kernel, by decide +kernel, ?_, by decide⟩
  · intro cl k h; exact absurd (List.mem_singleton.mp h) (by simp)
  · intro y h1 h2; omega
  · intro y h1 h2; exact .inr (by omega)
  · intro i _ h; simp [windowed, placed, State.withFetchWord, State.reset, State.setVf] at h

/-! Basins, faults and deeds. -/

/-- A packet with a number that the journal holds, as an entry of its kind; the cluster that it is for, fenced; no link is left where all are fenced. Which link a device is reached by is a free value of Config. -/
def numbered (isNew : Bool) : Packet := { packet isNew 1 with num := some (0, 7) }
def replayed (isNew : Bool) : State := { launched 0 with packets := [numbered isNew], journal := [(3, .packet 0 none (some (0, 7)))] }
def fencedBasin (isNew : Bool) (ps : NMap PartSet) : State := { launched 0 with packets := [packet isNew 0], fencedClusters := [0], parts := ps }
/-- BasinsMoveTheirTasks: a packet that has come before, of each kind, the first to arrive; packets for a fenced cluster where the VF owns another cluster, and none; a peer's release, which names no launch. -/
theorem witness_basin_again :
    (∀ n, seenBefore (replayed n) (numbered n)) ∧ (∀ n, arrivedFirst (replayed n) 0 n [] (numbered n) [] 2) ∧ (¬ seenBefore (basin (binned true) .waiting) (packet false 1)) ∧ (launched 0).stranded = []
    ∧ (∀ n ps, (fencedBasin n ps).clusterFenced (field (packet n 0).dst.toNat 12 7) = true ∧ (packet n 0).peer = none ∧ (packet n 0).ack = none ∧ mapGet? (fencedBasin n ps).launches (packet n 0).launch = some (launch 0))
    ∧ (fencedBasin true [(0, ⟨1, [0], 4⟩)]).ownClusters 0 = [] ∧ (fencedBasin true [(0, ⟨1, [0], 4⟩), (64, ⟨1, [0], 4⟩)]).ownClusters 0 = 1 :: [] ∧ placed.devNum < 256 ∧ mapGetD placed.credits (32 * 1 + 0) 0 < 4
    ∧ arrivedFirst { placed with packets := [{ packet false 1 with src := 16, peer := some (9, ⟨0, 0, 0, 0⟩) }] } 0 false [] { packet false 1 with src := 16, peer := some (9, ⟨0, 0, 0, 0⟩) } [] 2
    ∧ ({ placed with fencedLinks := List.range 16 } : State).linkTo 5 = none := by
  refine ⟨fun n => ⟨by simp [numbered], _, List.mem_singleton.mpr rfl, 0, none, rfl⟩, fun n => ⟨rfl, ⟨rfl, rfl, by cases n <;> decide, fun _ => ⟨2, .inl ⟨rfl, rfl⟩⟩⟩, fun y h => absurd h (by simp), .inl (.inl ⟨rfl, rfl⟩)⟩,
    fun h => h.1 rfl, rfl, fun n ps => ⟨by cases n <;> rfl, rfl, rfl, rfl⟩, by decide +kernel, by decide +kernel, by decide +kernel, by decide +kernel, ?_, ?_⟩
  · refine ⟨rfl, ⟨rfl, rfl, by decide, fun h => absurd h (by decide)⟩, fun y h => absurd h (by simp), .inr ⟨rfl, ?_⟩⟩
    rintro x (⟨h, _⟩ | ⟨y, l, _, h, _⟩)
    · exact absurd h (by simp)
    · exact absurd h (by simp [placed, State.withFetchWord, State.reset, State.setVf])
  · unfold State.linkTo
    rw [Option.filter_eq_none_iff]
    intro l _
    by_cases h : l < 16
    · simp
    · simp [h]
/-- RegistersFaultsAndPowerActOnTheWholePart: an allotment of pages of 0 and of 2^32; a session and none; packets of a peer and of this part at a cluster that fails; a warm reset whose image fails, with a queue to be written again. -/
theorem witness_power_more : (2 ^ 32 : Nat) % 2 ^ 32 = 0 ∧ (1 : Nat) % 2 ^ 32 ≠ 0 ∧ placed.spdm = false ∧ ({ placed with spdm := true } : State).spdm = true
    ∧ field (packet true 1).dst.toNat 12 7 = 0 ∧ (packet true 1).src < 16 ∧ 16 ≤ foreign.src ∧ failsWith (.cluster 0) 0 ∧ ¬ ((1 : Nat) = 0)
    ∧ booted { placed.fw with flash := [] } { placed.fw with flash := [], recovery := true, rcvGo := false, rcvResult := 0, rcvAddr := 0, rcvLen := 0 }
    ∧ (mapGet? ((withQ q0 1).vf 0).ctxs 0).bind (fun c => mapGet? c.queues 0) = some q0 ∧ placed.powered = true := by
  refine ⟨by decide, by decide, rfl, rfl, by decide, by decide, by decide, rfl, by decide, ⟨fun h => absurd h.1.1 (by decide), fun _ => rfl⟩, by decide +kernel, rfl⟩
/-- AStepRunsTheDecodedInstruction, its deeds: a granule whose line is written whole, and one whose is not; a release from a peer over a link that is up, to this device, and to another; a credit and none. -/
theorem witness_deeds_more : 5 ∈ ({ placed with whole := [5] } : State).whole ∧ 5 ∉ placed.whole ∧ 5 ∉ placed.poison
    ∧ (let h : Word := 0x1000; (3 : Nat) < 16 ∧ 3 ∉ placed.fencedLinks ∧ field h.toNat 24 8 = placed.devNum ∧ mapGetD placed.credits (32 * field h.toNat 12 7 + 16 + 3) 0 < 4)
    ∧ field (0x01001000 : Word).toNat 24 8 ≠ placed.devNum ∧ ¬ mapGetD ({ placed with credits := [(51, 4)] } : State).credits (32 * 1 + 16 + 3) 0 < 4
    ∧ (∀ d ∈ [Deed.fill 5, .reorder (.glob (.dev 0)) 1, .releaseIn 3 9 7 0x1000, .peerWrote 9 0 4 16 [1, 2]], ∃ t, deedAt { stepping with agenda := [.deed d] } t d) := by
  refine ⟨by decide, by decide +kernel, by decide +kernel, by decide +kernel, by decide +kernel, by decide +kernel, fun d _ => ⟨_, [], rfl, rfl⟩⟩

end Sys2Proof.Tests
end

section
/-! SUPPORT. Where traps are taken: at the instruction that meets a cause, and at the header of the clause that waits for a recorded one (R18, R77, R178, R210, R211). -/

namespace Sys2Proof.Machine

/-! Maps written twice, or written with what they hold. -/

theorem mapSet_mapSet_same {α : Type} (m : NMap α) (k : Nat) (v w : α) : mapSet (mapSet m k v) k w = mapSet m k w := by
  induction m with
  | nil => simp [mapSet]
  | cons x r ih => obtain ⟨j, u⟩ := x; simp only [mapSet]; grind [mapSet]

theorem mapSet_of_mapGet? {α : Type} {m : NMap α} {k : Nat} {v : α} (h : mapGet? m k = some v) : mapSet m k v = m := by
  induction m with
  | nil => simp [mapGet?] at h
  | cons x r ih => obtain ⟨j, u⟩ := x; simp only [mapGet?, mapSet] at h ⊢; grind

theorem mapMod_of_mapGet? {α : Type} {m : NMap α} {k : Nat} {v : α} (f : α → α) (h : mapGet? m k = some v) :
    mapMod m k f = mapSet m k (f v) := by
  unfold mapMod; rw [h]

section
variable {s : State} {id : Nat} {a : Agent}

/-- An agent that is replaced by itself leaves the state as it was. -/
theorem State.setAgent_self (h : s.agent? id = some a) : s.setAgent id a = s := by
  unfold State.setAgent; rw [mapSet_of_mapGet? h]

theorem State.modAgent_of_agent? (f : Agent → Agent) (h : s.agent? id = some a) : s.modAgent id f = s.setAgent id (f a) := by
  unfold State.modAgent State.setAgent; rw [mapMod_of_mapGet? f h]

/-! A trap taken (R210, R211). -/

/-- A cause met by a warp or a fragment is taken in its slot; which lanes met it decides nothing more (R156, R210). -/
theorem State.raise_of_not_wave (b : Bool) (pos : Pos) (m : Mask) (t : TrapInfo) (h : s.agent? id = some a) (hw : a.isWave = false) :
    s.raise id b pos m t = s.trapEntry id b pos t := by
  simp [State.raise, State.raiseAt, h, hw]

/-- With a handler, and outside handler mode, the trap enters it (R210). -/
theorem State.trapEntry_of_handler (b : Bool) (pos : Pos) (t : TrapInfo) (h : s.agent? id = some a) (hn : a.handler = none)
    (hh : s.handlerOf a ≠ 0) : s.trapEntry id b pos t = s.setAgent id (a.enterHandler b pos t (s.handlerOf a) s.tail) := by
  have enters : ¬ (a.handler.isSome || s.handlerOf a = 0) = true := by simpa [hn] using hh
  simp only [State.trapEntry, h, if_neg enters]

/-- In handler mode a warp or a fragment ends, and its trap registers stay (R211). -/
theorem State.trapEntry_of_handlerMode (b : Bool) (pos : Pos) (t : TrapInfo) (h : s.agent? id = some a) (hw : a.isWave = false)
    (hm : a.handler ≠ none) : s.trapEntry id b pos t = s.endWarp id a t := by
  simp [State.trapEntry, h, hw, Option.isSome_iff_ne_none.mpr hm, State.setAgent_self h]

end

/-! A clause header (R77, R178). -/

theorem Agent.flagsClear_iff (a : Agent) (w : BitVec 12) :
    a.flagsClear w = true ↔ ∀ i, i < 12 → w.getLsbD i = true → a.flag i = 0 := by
  simp only [Agent.flagsClear, List.all_eq_true, List.mem_range]
  refine forall₂_congr fun i _ => ?_
  cases w.getLsbD i <;> simp

theorem Agent.headerTrap_of_no_traps {a : Agent} (w : BitVec 12) (h : a.traps = []) : a.headerTrap w = none := by
  simp [Agent.headerTrap, h, oldestTrap]

/-- A single recorded trap of a flag that the header waits for, or of no flag, is due there (R178). -/
theorem Agent.headerTrap_of_single {a : Agent} {w : BitVec 12} {t : PendingTrap} (hn : a.handler = none) (ht : a.traps = [t])
    (hw : ∀ f, t.flag = some f → w.getLsbD f = true) : a.headerTrap w = some t := by
  cases hf : t.flag with
  | none => simp [Agent.headerTrap, hn, ht, hf, oldestTrap]
  | some f => simp [Agent.headerTrap, hn, ht, hf, hw f hf, oldestTrap]

/-- A single recorded trap, taken, is recorded no more. -/
theorem State.takePending_of_single {s : State} {id : Nat} {a : Agent} {t : PendingTrap} (b : Bool) (pos : Pos) (h : s.agent? id = some a)
    (ht : a.traps = [t]) :
    s.takePending id b pos t = (s.setAgent id { a with traps := [] }).trapEntry id b pos ⟨t.cause, true, t.lane, t.addr⟩ := by
  simp [State.takePending, State.modAgent_of_agent? _ h, ht, PendingTrap.info]

section
variable {h : ClauseHdr} {s : State} {id : Nat} {b : Bool} {a : Agent} {p : Path}

/-- What a header does while a flag that it names is not clear: the slot stays before it (R77). -/
theorem execClause_waits (hr : s.running = some (id, b, a, p)) (hp : p.phase = .header) (hf : a.flagsClear h.wait = false) :
    execClause h s = .next s := by
  simp [execClause, State.onPath_running _ hr, hp, hf]

/-- A header takes the recorded trap that is due at it, with TIX 0 (R178). -/
theorem execClause_takes {t : PendingTrap} (hr : s.running = some (id, b, a, p)) (hp : p.phase = .header) (hf : a.flagsClear h.wait = true)
    (ht : a.headerTrap h.wait = some t) : execClause h s = .next (s.takePending id b ⟨p.pos.hdr, 0⟩ t) := by
  simp [execClause, State.onPath_running _ hr, hp, hf, ht]

/-- An index other than 0 past LEN raises ILLOP (R18, R81). -/
theorem execClause_past_len (hr : s.running = some (id, b, a, p)) (hp : p.phase = .header) (hf : a.flagsClear h.wait = true)
    (ht : a.headerTrap h.wait = none) (h0 : 0 < p.pos.ix) (hl : h.len.toNat ≤ p.pos.ix) :
    execClause h s = .next (s.illop id b p p.mask) := by
  simp [execClause, State.onPath_running _ hr, hp, hf, ht, h0, hl]

/-- A clause starts at the instruction of its path's index, once its parcels up to there are fetched (R76, R77, R81, R279). -/
theorem execClause_starts {pc : DWord} (hr : s.running = some (id, b, a, p)) (hp : p.phase = .header) (hf : a.flagsClear h.wait = true)
    (ht : a.headerTrap h.wait = none) (hl : ¬(p.pos.ix > 0 ∧ h.len.toNat ≤ p.pos.ix))
    (hs : s.skipInstrs id b a p (p.pos.hdr + 4) p.pos.ix = .inl pc) :
    execClause h s = .next ((s.joinCommands id a p.mask h.wait).setAgent id (a.setPath b (some { p with phase := .body pc h }))) := by
  simp only [execClause, State.onPath_running _ hr, hp, hf, ht, hs, if_neg hl, Bool.not_true, Bool.false_eq_true, if_false]

end

end Sys2Proof.Machine

namespace Sys2Proof.Claims
open Sys2Proof.Machine

/-- The model's entry of handler mode meets the rule's (R58, R66, R210, R247). -/
theorem entersHandler_enterHandler (c : Agent) (b : Bool) (pos : Pos) (t : TrapInfo) (h : DWord) (tail : Nat) :
    entersHandler c b pos t h tail (c.enterHandler b pos t h tail) := by
  cases b <;> exact ⟨rfl, rfl, rfl⟩

theorem ended_stop (c : Agent) : ended c c.stop := ⟨rfl, rfl, rfl⟩

theorem satCount_succ (n : Nat) : satCount (n + 1) = min (n + 1) (2 ^ 32 - 1) := by
  unfold satCount; split <;> omega

/-- The launch of a group that ends with a fault, as the model changes it (R344). -/
theorem launchFaulted_eq (l : Launch) (again : Bool) (cause : Nat) (ident : Word) (addr : DWord) :
    { l.note cause ident addr with fault := true, nfault := if again then (l.note cause ident addr).nfault else satCount ((l.note cause ident addr).nfault + 1) }
      = launchFaulted l again cause ident addr := by
  unfold Launch.note launchFaulted
  cases hf : l.first <;> simp [satCount_succ, hf]

/-- A grid warp without fragments that ends with a fault status: its own paths stop, and its group and its launch carry the fault (R210, R211, R344). -/
theorem endWarp_of_grid {s : State} {id g : Nat} {c : Agent} {gr : Group} {l : Launch} (t : TrapInfo) (h : s.agent? id = some c)
    (hk : c.kind = .grid) (hf : s.fragsOf id = []) (hg : c.group = some g) (hgr : mapGet? s.groups g = some gr)
    (hl : mapGet? s.launches c.launch = some l) :
    s.endWarp id c t = warpEnded s id c.stop g gr c.launch (launchFaulted l (gr.faulted || gr.lost) t.cause c.gid t.addr) := by
  have hw : c.warpId id = id := by simp [Agent.warpId, hk]
  simp only [State.endWarp, hw, hf, hg, List.foldl_cons, List.foldl_nil, State.modAgent_of_agent? _ h, State.modLaunch, State.setAgent_groups,
    State.setAgent_launches, mapMod_of_mapGet? _ hgr, mapMod_of_mapGet? _ hl, hgr, launchFaulted_eq]
  rfl

/-- Settles O33: a warp or a fragment takes the trap in its slot, by entering the handler or, in handler mode, by ending. -/
theorem trapCausesAreTakenAtTheInstruction : Obligations.TrapCausesAreTakenAtTheInstruction := by
  intro s id b a pos m t ha hw
  rw [State.raise_of_not_wave b pos m t ha hw]
  refine ⟨fun hn hh => ?handler, fun g gr l hm hk hf hg hgr hl => ?handlerMode, fun p => rfl⟩
  case handler =>
    exact ⟨_, State.trapEntry_of_handler b pos t ha hn hh, entersHandler_enterHandler a b pos t _ _⟩
  case handlerMode =>
    rw [State.trapEntry_of_handlerMode b pos t ha hw hm]
    exact ⟨a.stop, endWarp_of_grid t ha hk hf hg hgr hl, ended_stop a⟩

/-- Settles O34: one case for each branch of the header: it waits, it starts or raises ILLOP, it takes the recorded trap. -/
theorem clausesStartWhenTheirFlagsAreClear : Obligations.ClausesStartWhenTheirFlagsAreClear := by
  intro h s id b a p hr hp
  refine ⟨fun ⟨i, hi, hw, hne⟩ => ?waits, fun hc hnt => ?starts, fun t hc hn ht hw => ?takes⟩
  case waits =>
    refine execClause_waits hr hp ?_
    rw [Bool.eq_false_iff, ne_eq, Agent.flagsClear_iff]
    exact fun hc => hne (hc i hi hw)
  case starts =>
    have clear := (a.flagsClear_iff h.wait).mpr hc
    have noTrap := Agent.headerTrap_of_no_traps h.wait hnt
    refine ⟨fun h0 => ?_, execClause_past_len hr hp clear noTrap, fun pc hl hs => ?_⟩
    · exact execClause_starts hr hp clear noTrap (by omega) (by rw [h0]; rfl)
    · exact execClause_starts hr hp clear noTrap (by omega) hs
  case takes =>
    have clear := (a.flagsClear_iff h.wait).mpr hc
    have taken := execClause_takes hr hp clear (Agent.headerTrap_of_single hn ht hw)
    obtain ⟨_, ha, _⟩ := State.running_spec hr
    rwa [State.takePending_of_single b _ ha ht] at taken

end Sys2Proof.Claims
end
